-- ==== Sys2Proof/Word.lean ====
section
/-! DEFINITION. The plain types of the ZL-9640: words, bytes, addresses and lane masks (R3, R10, R35), and
the arithmetic on little-endian words that every chapter uses (R43). -/

namespace Sys2Proof

/-- One 32-bit word: an instruction word, a register of one lane, a queue word (R33, R75). -/
abbrev Word := BitVec 32
/-- One byte of memory or scratchpad. -/
abbrev Byte := BitVec 8
/-- A generic 64-bit address (R200). -/
abbrev Addr := BitVec 64
/-- A mask of the 64 lanes of a group, bit l for lane l (R3, R75). -/
abbrev LaneMask := BitVec 64
/-- A 6-bit operand code in D, A or B (R41). -/
abbrev Code := BitVec 6

/-- The group width W (R3). -/
abbrev W : Nat := 64

/-- The lane numbers in ascending order. -/
def laneNums : List Nat := List.range W

/-- The lanes of a mask in ascending order. -/
def lanesOf (m : LaneMask) : List Nat := laneNums.filter fun l => m.getLsbD l

/-- The mask that holds exactly the lanes listed. -/
def maskOf (ls : List Nat) : LaneMask := ls.foldl (fun m l => m ||| (1#64 <<< l)) 0#64

/-- The lowest lane of a mask, if it has one. -/
def lowestLane (m : LaneMask) : Option Nat := (lanesOf m).head?

/-- Word `i` of the little-endian value `v` (R43). -/
def wordAt (v i : Nat) : Word := BitVec.ofNat 32 (v / 2 ^ (32 * i))

/-- The `n` words of `v`, lowest first (R43). -/
def wordsOf (v n : Nat) : List Word := (List.range n).map (wordAt v)

/-- The value of consecutive words, lowest first (R43). -/
def valueOf : List Word → Nat
  | [] => 0
  | w :: ws => w.toNat + 2 ^ 32 * valueOf ws

/-- The `n` bytes of `v`, little-endian (R10). -/
def bytesOf (v n : Nat) : List Byte := (List.range n).map fun i => BitVec.ofNat 8 (v / 2 ^ (8 * i))

/-- The value of bytes in memory order (R10). -/
def ofBytes : List Byte → Nat
  | [] => 0
  | b :: bs => b.toNat + 256 * ofBytes bs

/-- `v` read as a two's complement integer of `w` bits. -/
def signedOf (w v : Nat) : Int :=
  if 2 * (v % 2 ^ w) < 2 ^ w then (v % 2 ^ w : Nat) else ((v % 2 ^ w : Nat) : Int) - (2 : Int) ^ w

/-- An integer reduced modulo 2^w. -/
def unsignedOf (w : Nat) (z : Int) : Nat := (z % (2 : Int) ^ w).toNat

end Sys2Proof
end

