-- ==== Sys2Proof/Syntax.lean ====
section
/-! DEFINITION. The operations and events of the ZL-9640: one constructor per row of spec/opcode_table.json.
The first 183 constructors are instruction words, with the fields of the word as the encoding tables give
them (R34, R35, R52). The others are the machine's other steps (spec/95_what_each_step_holds.md): results that
return, requests performed, packets, engine completions, host and boot actions. Their arguments name the
thing that moves. -/

namespace Sys2Proof

/-- Bits 31 and 30 of every instruction word (R34): S, the switch marker, and P, the safe point. -/
structure Marks where
  s : Bool
  p : Bool
  deriving DecidableEq, Repr

/-- The engine operation that an engine fault stops (R340, R396, R420, R425, R283). -/
inductive EngineSource where
  /-- operation `op` of group `gid`'s copy-engine context -/
  | copy (gid op : Nat)
  /-- operation `op` of group `gid`'s sampler queue -/
  | sampler (gid op : Nat)
  /-- operation `op` of group `gid`'s ray-query context -/
  | ray (gid op : Nat)
  /-- the frame-number update of a view (R425) -/
  | selvedge (frame view : Nat)
  /-- operation `op` of an egress stream of a context (R427) -/
  | egress (ctxid stream op : Nat)
  /-- a primitive or setup record of a frame (R396) -/
  | raster (frame : Nat)
  /-- a completion record or SIGNAL of a launch (R283) -/
  | launch (lid : Nat)
  /-- a BARRIER_AND's SIGNAL (R283, R285) -/
  | packet (qid : Nat)
  /-- a Beater batch of a shadow (R271) -/
  | beater (pad off : Nat)
  deriving DecidableEq, Repr

/-- A request that arrives on a Weft port from another module (R226, R264). -/
inductive RemoteRequest where
  | read (pa n : Nat)
  | write (pa : Nat) (bytes : List Byte)
  /-- a far atomic: opcode 0xC0..0xCB, unsigned flag, ASID, class, virtual and physical address, size in bytes, operand, third operand -/
  | atomic (op : Nat) (unsigned : Bool) (asid cls va pa size v c : Nat) (combinable : Bool)
  deriving DecidableEq, Repr

/-- The operations and events of the part (R50, R55; spec/opcode_table.json). -/
inductive Instr where
  /-- NOP (R117). Does nothing; with P it is a pure safe point, and with S a pure wait for OSCOUNT to reach 0. -/
  | nop (m : Marks)
  /-- LIT (R118). Supplies the following literal word as the B operand of the next instruction of its issue unit. -/
  | lit (m : Marks) (literal : Word)
  /-- SETM_IMM (R48). Writes the MODE fields selected by the write mask from an immediate value. -/
  | setmImm (m : Marks) (wm : BitVec 4) (v : BitVec 12)
  /-- SETM_REG (R48). Writes the MODE fields selected by the write mask from the A source of the lowest lane in the slot's mask. -/
  | setmReg (m : Marks) (wm : BitVec 4) (a : Code)
  /-- GETM (R116). Writes MODE, zero-extended, to every lane of the slot's mask and pushes one word. -/
  | getm (m : Marks) (d : Code)
  /-- MOV (R119). Copies the words of the MODE type from the source to the destination in each active lane. -/
  | mov (m : Marks) (d : Code) (a : Code)
  /-- MOVI (R120). Writes a sign-extended 16-bit immediate as one word in each active lane. -/
  | movi (m : Marks) (d : Code) (i : BitVec 16)
  /-- ADDI (R122). Adds a signed immediate to each element under the MODE type, with saturation or wrapping. -/
  | addi (m : Marks) (d : Code) (a : Code) (i : BitVec 10)
  /-- ANDI (R121). ANDs one word with a sign-extended immediate. -/
  | andi (m : Marks) (d : Code) (a : Code) (i : BitVec 10)
  /-- ORI (R121). ORs one word with a sign-extended immediate. -/
  | ori (m : Marks) (d : Code) (a : Code) (i : BitVec 10)
  /-- XORI (R121). XORs one word with a sign-extended immediate. -/
  | xori (m : Marks) (d : Code) (a : Code) (i : BitVec 10)
  /-- SHLI (R121). Shifts one word left by an unsigned immediate count. -/
  | shli (m : Marks) (d : Code) (a : Code) (i : BitVec 10)
  /-- SHRI (R123). Shifts each element right by an immediate, arithmetically for I types and logically for N types. -/
  | shri (m : Marks) (d : Code) (a : Code) (i : BitVec 10)
  /-- CMPI (R124). Sets a predicate bit in each active lane from comparing the source with a signed immediate. -/
  | cmpi (m : Marks) (c : BitVec 3) (k : BitVec 3) (a : Code) (i : BitVec 10)
  /-- ADD (R125). Adds two operands under the MODE type. -/
  | add (m : Marks) (d : Code) (a : Code) (b : Code)
  /-- SUB (R125). Subtracts two operands under the MODE type. -/
  | sub (m : Marks) (d : Code) (a : Code) (b : Code)
  /-- MUL (R125). Multiplies two operands under the MODE type. -/
  | mul (m : Marks) (d : Code) (a : Code) (b : Code)
  /-- MULH (R125). Returns the high half of the exact integer product. -/
  | mulh (m : Marks) (d : Code) (a : Code) (b : Code)
  /-- MAD (R126). Computes a times b plus c with one rounding. -/
  | mad (m : Marks) (d : Code) (a : Code) (b : Code) (c : BitVec 4)
  /-- DIV (R127). Divides two operands as a long-latency operation. -/
  | div (m : Marks) (d : Code) (a : Code) (b : Code)
  /-- REM (R127). Computes the remainder of two operands as a long-latency operation. -/
  | rem (m : Marks) (d : Code) (a : Code) (b : Code)
  /-- MIN (R125). Returns the smaller operand, using minimumNumber for floating types. -/
  | min (m : Marks) (d : Code) (a : Code) (b : Code)
  /-- MAX (R125). Returns the larger operand, using maximumNumber for floating types. -/
  | max (m : Marks) (d : Code) (a : Code) (b : Code)
  /-- ABS (R128). Returns the absolute value under the MODE type. -/
  | abs (m : Marks) (d : Code) (a : Code)
  /-- NEG (R128). Returns the negation under the MODE type. -/
  | neg (m : Marks) (d : Code) (a : Code)
  /-- CMP (R129). Sets a predicate bit in each active lane from comparing two operands. -/
  | cmp (m : Marks) (k : Code) (a : Code) (b : Code) (c : BitVec 4)
  /-- SEL (R130). Selects a or b in each lane according to a predicate bit. -/
  | sel (m : Marks) (d : Code) (a : Code) (b : Code) (n : Bool) (k : BitVec 3)
  /-- CVT (R131). Converts each element from the MODE type to the target type. -/
  | cvt (m : Marks) (d : Code) (a : Code) (t : BitVec 4)
  /-- SQRT (R132). Computes the square root as a long-latency operation. -/
  | sqrt (m : Marks) (d : Code) (a : Code)
  /-- RCP (R132). Computes the reciprocal as a long-latency operation. -/
  | rcp (m : Marks) (d : Code) (a : Code)
  /-- RSQ (R132). Computes the reciprocal square root as a long-latency operation. -/
  | rsq (m : Marks) (d : Code) (a : Code)
  /-- EXP2 (R132). Computes 2 to the power a as a long-latency operation. -/
  | exp2 (m : Marks) (d : Code) (a : Code)
  /-- LOG2 (R132). Computes the base-2 logarithm as a long-latency operation. -/
  | log2 (m : Marks) (d : Code) (a : Code)
  /-- SIN (R132). Computes the sine in radians as a long-latency operation. -/
  | sin (m : Marks) (d : Code) (a : Code)
  /-- COS (R132). Computes the cosine in radians as a long-latency operation. -/
  | cos (m : Marks) (d : Code) (a : Code)
  /-- FLR (R134). Rounds toward negative infinity to an integral value. -/
  | flr (m : Marks) (d : Code) (a : Code)
  /-- CEL (R134). Rounds toward positive infinity to an integral value. -/
  | cel (m : Marks) (d : Code) (a : Code)
  /-- RND (R134). Rounds to an integral value by MODE.ROUND. -/
  | rnd (m : Marks) (d : Code) (a : Code)
  /-- FRC (R134). Returns the fractional part a minus FLR(a), rounded downward. -/
  | frc (m : Marks) (d : Code) (a : Code)
  /-- CLASS (R135). Writes a bit mask that classifies each floating value. -/
  | classOp (m : Marks) (d : Code) (a : Code)
  /-- LEA (R136). Computes a plus b shifted left by s, modulo the type width. -/
  | lea (m : Marks) (d : Code) (a : Code) (b : Code) (x : BitVec 4)
  /-- AND (R137). Computes the bitwise AND of two words. -/
  | and (m : Marks) (d : Code) (a : Code) (b : Code)
  /-- ANDN (R137). Computes a AND NOT b on one word. -/
  | andn (m : Marks) (d : Code) (a : Code) (b : Code)
  /-- OR (R137). Computes the bitwise OR of two words. -/
  | or (m : Marks) (d : Code) (a : Code) (b : Code)
  /-- XOR (R137). Computes the bitwise XOR of two words. -/
  | xor (m : Marks) (d : Code) (a : Code) (b : Code)
  /-- SHL (R138). Shifts one word left by the count in b. -/
  | shl (m : Marks) (d : Code) (a : Code) (b : Code)
  /-- SHR (R138). Shifts one word right logically by the count in b. -/
  | shr (m : Marks) (d : Code) (a : Code) (b : Code)
  /-- SAR (R138). Shifts one word right arithmetically by the count in b. -/
  | sar (m : Marks) (d : Code) (a : Code) (b : Code)
  /-- ROL (R138). Rotates one word left by the count in b. -/
  | rol (m : Marks) (d : Code) (a : Code) (b : Code)
  /-- FNL (R139). Funnel-shifts the pair a:b left and returns the high word. -/
  | fnl (m : Marks) (d : Code) (a : Code) (b : Code) (c : BitVec 4)
  /-- FNR (R139). Funnel-shifts the pair a:b right and returns the low word. -/
  | fnr (m : Marks) (d : Code) (a : Code) (b : Code) (c : BitVec 4)
  /-- BFX (R140). Extracts a bit field and zero-extends it. -/
  | bfx (m : Marks) (d : Code) (a : Code) (b : Code)
  /-- BFXS (R140). Extracts a bit field and sign-extends it. -/
  | bfxs (m : Marks) (d : Code) (a : Code) (b : Code)
  /-- BFI (R141). Inserts a bit field into c. -/
  | bfi (m : Marks) (d : Code) (a : Code) (b : Code) (c : BitVec 4)
  /-- BFIS (R141). Inserts a bit field into c after clamping it as a signed value. -/
  | bfis (m : Marks) (d : Code) (a : Code) (b : Code) (c : BitVec 4)
  /-- POPC (R142). Counts the set bits of a word. -/
  | popc (m : Marks) (d : Code) (a : Code)
  /-- CLZ (R142). Counts the leading zeros of a word. -/
  | clz (m : Marks) (d : Code) (a : Code)
  /-- CTZ (R142). Counts the trailing zeros of a word. -/
  | ctz (m : Marks) (d : Code) (a : Code)
  /-- BREV (R142). Reverses the bit order of a word. -/
  | brev (m : Marks) (d : Code) (a : Code)
  /-- PACK2 (R143). Packs the low halves of a and b into one word. -/
  | pack2 (m : Marks) (d : Code) (a : Code) (b : Code)
  /-- UNPK (R143). Zero-extends the low or high half of a word. -/
  | unpk (m : Marks) (d : Code) (a : Code) (x : BitVec 4)
  /-- KAND (R144). ANDs two predicates in each active lane. -/
  | kand (m : Marks) (k : Code) (a : Code) (b : Code)
  /-- KOR (R144). ORs two predicates in each active lane. -/
  | kor (m : Marks) (k : Code) (a : Code) (b : Code)
  /-- KXOR (R144). XORs two predicates in each active lane. -/
  | kxor (m : Marks) (k : Code) (a : Code) (b : Code)
  /-- KNOT (R144). Negates a predicate in each active lane. -/
  | knot (m : Marks) (k : Code) (a : Code)
  /-- KMOV (R144). Copies a predicate in each active lane. -/
  | kmov (m : Marks) (k : Code) (a : Code)
  /-- VOTE (R145). Writes the predicate masked by the active lanes as a 64-bit value to every active lane. -/
  | vote (m : Marks) (d : Code) (a : Code)
  /-- KANY (R146). Sets a predicate if any active lane of the source predicate is set. -/
  | kany (m : Marks) (k : Code) (a : Code)
  /-- KALL (R146). Sets a predicate if every active lane of the source predicate is set. -/
  | kall (m : Marks) (k : Code) (a : Code)
  /-- XROT (R148). Reads a from lane (l + b) mod W for each lane l. -/
  | xrot (m : Marks) (d : Code) (a : Code) (b : Code)
  /-- XXOR (R148). Reads a from lane l XOR b for each lane l. -/
  | xxor (m : Marks) (d : Code) (a : Code) (b : Code)
  /-- XBC (R148). Broadcasts a from lane b mod W. -/
  | xbc (m : Marks) (d : Code) (a : Code) (b : Code)
  /-- XRED (R149). Reduces across the active lanes in the architectural tree order. -/
  | xred (m : Marks) (d : Code) (a : Code) (x : BitVec 3)
  /-- XSCAN (R149). Computes an inclusive or exclusive prefix scan across lanes. -/
  | xscan (m : Marks) (d : Code) (a : Code) (e : Bool) (x : BitVec 3)
  /-- QSWPX (R150). Swaps values horizontally within each quad. -/
  | qswpx (m : Marks) (d : Code) (a : Code)
  /-- QSWPY (R150). Swaps values vertically within each quad. -/
  | qswpy (m : Marks) (d : Code) (a : Code)
  /-- QSWPD (R150). Swaps values diagonally within each quad. -/
  | qswpd (m : Marks) (d : Code) (a : Code)
  /-- QBCST (R150). Broadcasts one quad lane to its quad. -/
  | qbcst (m : Marks) (d : Code) (a : Code) (x : BitVec 4)
  /-- DDX (R151). Computes the horizontal quad derivative, setting QUADFAULT when no pair is complete. -/
  | ddx (m : Marks) (d : Code) (a : Code) (x : BitVec 4)
  /-- DDY (R151). Computes the vertical quad derivative, setting QUADFAULT when no pair is complete. -/
  | ddy (m : Marks) (d : Code) (a : Code) (x : BitVec 4)
  /-- BRA (R157). Branches, splits or falls through by a predicate and empties the queue. -/
  | bra (m : Marks) (n : Bool) (k : BitVec 3) (i : BitVec 18)
  /-- BRK (R85). Branches with a join record, splitting the fragment into two that reconverge at JOIN. -/
  | brk (m : Marks) (n : Bool) (k : BitVec 3) (i : BitVec 18) (jw : Word)
  /-- JOIN (R86). Ends the fragment at its join record and creates the joined fragment once all expected lanes have arrived. -/
  | join (m : Marks)
  /-- CALL (R160). Branches like BRA and writes the return address into G6 and G7. -/
  | call (m : Marks) (n : Bool) (k : BitVec 3) (i : BitVec 18)
  /-- RET (R161). Continues at the address held in G7:G6. -/
  | ret (m : Marks)
  /-- JMPI (R162). Jumps to the address in A, read in the lowest lane. -/
  | jmpi (m : Marks) (a : Code)
  /-- YIELD (R163). Makes the group not ready at its next opportunity if another group of the slot is ready. -/
  | yield (m : Marks)
  /-- EXIT (R164). Ends the lanes of the fragment and ends the group when no lane remains. -/
  | exit (m : Marks)
  /-- GROW (R165). Requests growth to the declared allotment and parks the group until the growth is granted. -/
  | grow (m : Marks) (x : BitVec 4)
  /-- TRAP (R166). Always traps TRAP with its immediate in AUX. -/
  | trap (m : Marks) (i : BitVec 10)
  /-- MFS (R190). Reads a system register into every lane. -/
  | mfs (m : Marks) (d : Code) (i : BitVec 10)
  /-- MTS (R191). Writes a system register under its field map, including W1C clears, FPXCNT re-arming and pending gaze writes. -/
  | mts (m : Marks) (a : Code) (i : BitVec 10)
  /-- ERET (R196). Returns a firmware fragment to FWEPC. -/
  | eret (m : Marks)
  /-- HALT (R196). Parks a firmware group until a wake event of its die arrives. -/
  | halt (m : Marks)
  /-- CINV (R197). Writes back and invalidates cached copies of a line or span at the named scope. -/
  | cinv (m : Marks) (a : Code) (b : Code) (x : BitVec 4)
  /-- CWB (R197). Writes back dirty cached copies of a line or span at the named scope. -/
  | cwb (m : Marks) (a : Code) (b : Code) (x : BitVec 4)
  /-- TLBI (R198). Broadcasts a translation shootdown and waits for it to complete. -/
  | tlbi (m : Marks) (a : Code) (b : Code) (x : BitVec 4)
  /-- RGREL (R199). Releases the home of a 64 KiB physical region. -/
  | rgrel (m : Marks) (a : Code)
  /-- LD_8 (R169). Loads one byte per lane, zero-extended. -/
  | ld8 (m : Marks) (d : Code) (a : Code) (i : BitVec 10)
  /-- LD_8S (R169). Loads one byte per lane, sign-extended. -/
  | ld8s (m : Marks) (d : Code) (a : Code) (i : BitVec 10)
  /-- LD_16 (R169). Loads two bytes per lane, zero-extended. -/
  | ld16 (m : Marks) (d : Code) (a : Code) (i : BitVec 10)
  /-- LD_16S (R169). Loads two bytes per lane, sign-extended. -/
  | ld16s (m : Marks) (d : Code) (a : Code) (i : BitVec 10)
  /-- LD_32 (R169). Loads one word per lane. -/
  | ld32 (m : Marks) (d : Code) (a : Code) (i : BitVec 10)
  /-- LD_64 (R169). Loads two words per lane. -/
  | ld64 (m : Marks) (d : Code) (a : Code) (i : BitVec 10)
  /-- LD_128 (R169). Loads four words per lane. -/
  | ld128 (m : Marks) (d : Code) (a : Code) (i : BitVec 10)
  /-- ST_8 (R169). Stores one byte per lane. -/
  | st8 (m : Marks) (d : Code) (a : Code) (i : BitVec 10)
  /-- ST_16 (R169). Stores two bytes per lane. -/
  | st16 (m : Marks) (d : Code) (a : Code) (i : BitVec 10)
  /-- ST_32 (R169). Stores one word per lane. -/
  | st32 (m : Marks) (d : Code) (a : Code) (i : BitVec 10)
  /-- ST_64 (R169). Stores two words per lane. -/
  | st64 (m : Marks) (d : Code) (a : Code) (i : BitVec 10)
  /-- ST_128 (R169). Stores four words per lane. -/
  | st128 (m : Marks) (d : Code) (a : Code) (i : BitVec 10)
  /-- LDACQ (R172). Performs an aligned load that is an acquire at the named scope. -/
  | ldacq (m : Marks) (d : Code) (a : Code) (b : Code) (x : BitVec 4)
  /-- STREL (R172). Performs an aligned store that is a release at the named scope. -/
  | strel (m : Marks) (d : Code) (a : Code) (b : Code) (x : BitVec 4)
  /-- FENCE (R173). Orders the group's earlier accesses against its later ones at a scope, as an acquire, a release or both. -/
  | fence (m : Marks) (b : Code) (x : BitVec 4)
  /-- ACVT (R174). Converts a generic address into another aperture, or 0 where none exists. -/
  | acvt (m : Marks) (d : Code) (a : Code) (x : BitVec 4)
  /-- ATST (R175). Sets a predicate bit where the address decodes to the named aperture. -/
  | atst (m : Marks) (k : Code) (a : Code) (x : BitVec 4)
  /-- AADD (R177). Atomically adds to a scratchpad word and returns the old value. -/
  | aadd (m : Marks) (d : Code) (a : Code) (b : Code)
  /-- AMIN (R177). Atomic signed minimum on a scratchpad word. -/
  | amin (m : Marks) (d : Code) (a : Code) (b : Code)
  /-- AMIN_U (R177). Atomic unsigned minimum on a scratchpad word. -/
  | aminU (m : Marks) (d : Code) (a : Code) (b : Code)
  /-- AMAX (R177). Atomic signed maximum on a scratchpad word. -/
  | amax (m : Marks) (d : Code) (a : Code) (b : Code)
  /-- AMAX_U (R177). Atomic unsigned maximum on a scratchpad word. -/
  | amaxU (m : Marks) (d : Code) (a : Code) (b : Code)
  /-- AAND (R177). Atomic AND on a scratchpad word. -/
  | aand (m : Marks) (d : Code) (a : Code) (b : Code)
  /-- AOR (R177). Atomic OR on a scratchpad word. -/
  | aor (m : Marks) (d : Code) (a : Code) (b : Code)
  /-- AXOR (R177). Atomic XOR on a scratchpad word. -/
  | axor (m : Marks) (d : Code) (a : Code) (b : Code)
  /-- AXCH (R177). Atomic exchange on a scratchpad word. -/
  | axch (m : Marks) (d : Code) (a : Code) (b : Code)
  /-- AMAX64 (R177). Atomic 64-bit unsigned maximum on a scratchpad doubleword. -/
  | amax64 (m : Marks) (d : Code) (a : Code) (b : Code)
  /-- ACAS (R178). Atomic 32-bit compare-and-swap on a scratchpad word. -/
  | acas (m : Marks) (d : Code) (a : Code) (b : Code) (c : BitVec 4)
  /-- BARI (R180). Sets a barrier's expected arrival count and may complete its phase. -/
  | bari (m : Marks) (a : Code) (i : BitVec 10)
  /-- BARA (R182). Arrives at a barrier as a release, completing the phase if its condition holds. -/
  | bara (m : Marks) (i : BitVec 10)
  /-- BARW (R182). Arrives at a barrier and parks until the phase completes. -/
  | barw (m : Marks) (i : BitVec 10)
  /-- BARX (R180). Posts an expected byte count to a barrier's balance. -/
  | barx (m : Marks) (a : Code) (i : BitVec 10)
  /-- SRPOST (R184). Posts a slot to a stage ring, parking while the ring is full. -/
  | srpost (m : Marks) (a : Code) (q : BitVec 2)
  /-- SRTAKE (R185). Takes the head slot of a stage ring, parking while the ring is empty. -/
  | srtake (m : Marks) (d : Code) (q : BitVec 2)
  /-- SRWAIT (R186). Parks until every posted slot of the ring has been taken. -/
  | srwait (m : Marks) (q : BitVec 2)
  /-- WAITC (R187). Parks until every active lane's watched location meets the condition. -/
  | waitc (m : Marks) (a : Code) (b : Code) (c : BitVec 4)
  /-- TLWAIT (R189). Parks until the selected timeline counter reaches n, then acquires the engine's effects. -/
  | tlwait (m : Marks) (a : Code) (b : Code) (x : BitVec 4)
  /-- TLREAD (R189). Reads the selected timeline counter without waiting. -/
  | tlread (m : Marks) (d : Code) (b : Code) (x : BitVec 4)
  /-- MADD (R253). Performs a combinable far atomic add at the home slice. -/
  | madd (m : Marks) (d : Code) (a : Code) (b : Code) (n : Bool) (z : BitVec 2)
  /-- MMIN (R253). Performs a combinable far atomic minimum. -/
  | mmin (m : Marks) (d : Code) (a : Code) (b : Code) (n : Bool) (u : Bool) (z : BitVec 2)
  /-- MMAX (R253). Performs a combinable far atomic maximum. -/
  | mmax (m : Marks) (d : Code) (a : Code) (b : Code) (n : Bool) (u : Bool) (z : BitVec 2)
  /-- MAND (R253). Performs a combinable far atomic AND. -/
  | mand (m : Marks) (d : Code) (a : Code) (b : Code) (n : Bool) (z : BitVec 2)
  /-- MOR (R253). Performs a combinable far atomic OR. -/
  | mor (m : Marks) (d : Code) (a : Code) (b : Code) (n : Bool) (z : BitVec 2)
  /-- MXOR (R253). Performs a combinable far atomic XOR. -/
  | mxor (m : Marks) (d : Code) (a : Code) (b : Code) (n : Bool) (z : BitVec 2)
  /-- MXCH (R253). Performs a combinable far atomic exchange. -/
  | mxch (m : Marks) (d : Code) (a : Code) (b : Code) (n : Bool) (z : BitVec 2)
  /-- MCAS (R254). Performs a 32-bit far compare-and-swap. -/
  | mcas (m : Marks) (d : Code) (a : Code) (b : Code) (c : BitVec 4)
  /-- MFCS (R255). Finds and sets the lowest clear bit of a 64-bit word and returns its index. -/
  | mfcs (m : Marks) (d : Code) (a : Code)
  /-- MBIM (R256). Performs a far masked bit insert. -/
  | mbim (m : Marks) (d : Code) (a : Code) (b : Code) (c : BitVec 4)
  /-- MPLS (R257). ORs bits into a word only if its population stays within a limit. -/
  | mpls (m : Marks) (d : Code) (a : Code) (b : Code) (c : BitVec 4)
  /-- MCAS_64 (R254). Performs a 64-bit far compare-and-swap. -/
  | mcas64 (m : Marks) (d : Code) (a : Code) (b : Code) (c : BitVec 4)
  /-- QENQ (R266). Enqueues a 32-byte entry on a global queue, returning its index or a full or bad code. -/
  | qenq (m : Marks) (d : Code) (a : Code) (b : Code)
  /-- QDEQ (R267). Dequeues a 32-byte entry from a global queue, returning its index or an empty or bad code. -/
  | qdeq (m : Marks) (d : Code) (a : Code) (b : Code)
  /-- QPOST (R270). Posts an entry into a scratchpad proxy shadow and notifies the Beater. -/
  | qpost (m : Marks) (d : Code) (a : Code) (b : Code) (f : Bool)
  /-- TKGET (R311). Takes a ready task from a pool, parking while the pool is empty and LIVE is positive. -/
  | tkget (m : Marks) (d : Code) (a : Code) (b : Code)
  /-- TKDONE (R312). Completes the current task, decrements successors and enqueues those that become ready. -/
  | tkdone (m : Marks) (d : Code) (a : Code)
  /-- TKARM (R310). Arms a task with its predecessor and input-tile counts, enqueueing it if the count is 0. -/
  | tkarm (m : Marks) (d : Code) (a : Code) (b : Code) (x : BitVec 4)
  /-- TKPOST (R313). Makes a task ready and enqueues it, ignoring DEP. -/
  | tkpost (m : Marks) (d : Code) (a : Code) (n : Bool)
  /-- CPY (R330). Issues a linear copy operation to the group's copy-engine context. -/
  | cpy (m : Marks) (d : Code) (a : Code) (x : Bool)
  /-- CPYM (R331). Issues a tile copy multicast into the scratchpads of selected cluster ranks. -/
  | cpym (m : Marks) (d : Code) (a : Code) (x : BitVec 4)
  /-- CPYS (R330). Issues a fill of a range with a 32-bit pattern. -/
  | cpys (m : Marks) (d : Code) (a : Code) (x : Bool)
  /-- CPYT (R330). Issues a strided tile copy of rows. -/
  | cpyt (m : Marks) (d : Code) (a : Code) (x : Bool)
  /-- CPYG (R332). Issues a gather of up to 64 indexed elements. -/
  | cpyg (m : Marks) (d : Code) (a : Code) (f : Bool) (x : Bool)
  /-- CPYX (R332). Issues a scatter of up to 64 indexed elements. -/
  | cpyx (m : Marks) (d : Code) (a : Code) (f : Bool) (x : Bool)
  /-- CBMRD (R333). Reads a completion bitmap as a relaxed single-copy-atomic read. -/
  | cbmrd (m : Marks) (d : Code) (a : Code)
  /-- GANG (R364). Joins or creates a gang context of 1, 2 or 4 matrix groups. -/
  | gang (m : Marks) (a : Code) (x : BitVec 4)
  /-- MMA (R369). Issues a gang matrix multiply-accumulate into a tile. -/
  | mma (m : Marks) (t : Code) (a : Code) (b : Code) (x : BitVec 3)
  /-- MMAZ (R369). Issues a gang matrix multiply that overwrites the tile, ignoring the old accumulator. -/
  | mmaz (m : Marks) (t : Code) (a : Code) (b : Code) (x : BitVec 3)
  /-- ACCLD (R374). Issues a gang load of a tile from scratchpad blocks through a format slot. -/
  | accld (m : Marks) (t : Code) (a : Code) (x : BitVec 3)
  /-- ACCST (R374). Issues a gang store of a tile and its overflow counter into scratchpad blocks. -/
  | accst (m : Marks) (t : Code) (a : Code) (x : BitVec 3)
  /-- ACCRD (R375). Reads two rows of a tile into the lanes without conversion. -/
  | accrd (m : Marks) (d : Code) (t : Code) (w : Code) (x : BitVec 4)
  /-- MBURST (R371). Warms the gang's arrays and holds them warm for 256 times k cycles, or ends the hold. -/
  | mburst (m : Marks) (x : BitVec 4)
  /-- MFREE (R376). Issues a gang operation that zeroes a tile and releases its ownership. -/
  | mfree (m : Marks) (t : Code)
  /-- FCVT (R361). Converts lanes between a vector type and a format slot's A format. -/
  | fcvt (m : Marks) (d : Code) (a : Code) (r : Bool) (x : BitVec 3)
  /-- TEX (R420). Issues a filtered texture sample to the sampler queue. -/
  | tex (m : Marks) (d : Code) (a : Code) (b : Code) (x : BitVec 2)
  /-- TEXG (R420). Issues a gather of one channel of the four footprint texels. -/
  | texg (m : Marks) (d : Code) (a : Code) (b : Code) (x : BitVec 2)
  /-- EMITV (R394). Writes vertex positions and attributes into the meshlet's staging slots. -/
  | emitv (m : Marks) (a : Code) (b : Code) (x : BitVec 4)
  /-- EMITP (R395). Emits primitives from staged vertices with a view mask. -/
  | emitp (m : Marks) (a : Code) (b : Code)
  /-- FBRD (R415). Reads a sample's colour or visibility word, or a tile area's address. -/
  | fbrd (m : Marks) (d : Code) (a : Code) (b : Code) (x : BitVec 4)
  /-- FBWR (R416). Blends a colour into a tile sample, ordered through the tile scoreboard. -/
  | fbwr (m : Marks) (d : Code) (a : Code) (b : Code) (x : BitVec 4)
  /-- TRET (R417). Retires a tile for a strip, returning its covered-sample count once the tile is complete. -/
  | tret (m : Marks) (d : Code) (a : Code)
  /-- LATE (R432). Returns the slack before the strip deadline of the handle's view. -/
  | late (m : Marks) (d : Code) (a : Code)
  /-- RAY (R435). Issues a closest-hit ray query against a BVH. -/
  | ray (m : Marks) (d : Code) (a : Code) (b : Code) (x : Bool)
  /-- RAYQ (R435). Issues an any-hit ray query that stops at the first hit. -/
  | rayq (m : Marks) (d : Code) (a : Code) (b : Code) (x : Bool)
  /-- RGRP (R437). Regroups the team's items by key at a rendezvous, optionally exchanging items around the cluster ring. -/
  | rgrp (m : Marks) (f : Bool) (a : Code) (x : BitVec 4)
  /-- EGRS (R427). Hands a display tile image to an egress stream of the Selvedge. -/
  | egrs (m : Marks) (d : Code) (a : Code) (b : Code) (x : BitVec 4)
  /-- LONG_LATENCY_RESULT_RETURN (R81). A long-latency result returns, clearing its pending bits and decrementing OSCOUNT. -/
  | longLatencyResultReturn (oid : Nat)
  /-- FAR_ATOMIC_PERFORM (R251). A far atomic or combined request is performed at the home slice and takes its place in coherence order. -/
  | farAtomicPerform (rid : Nat)
  /-- COMBINING_STAGE_EXIT (R259). A held combinable request leaves the combining stage when its output accepts it or 4 cycles after entry. -/
  | combiningStageExit (rid : Nat)
  /-- REPLY_SPLIT (R261). A reply reaching a wait entry is split between the two members of the combined pair. -/
  | replySplit (wid : Nat)
  /-- HOME_FAULT_REPLAY (R252). A home fault reply makes the edge unit replay the lane's request uncombined, trapping ACCESS after issue if it faults again. -/
  | homeFaultReplay (rid : Nat)
  /-- SHOOTDOWN_COMPLETE (R213). A TLBI broadcast completes once every unit, walk, L1 and access has finished with the removed translations. -/
  | shootdownComplete (sid : Nat)
  /-- WAITC_WATCH_FIRE (R187). A watched location is written, so WAITC lanes re-read it. -/
  | waitcWatchFire (gid slot : Nat)
  /-- GROW_GRANT (R77). A parked GROW is granted in admission order and its new registers read 0. -/
  | growGrant (gid : Nat)
  /-- TEAM_SAVE (R93). Once every slot has stopped, results and engine operations drain and the team record is written. -/
  | teamSave (tid : Nat)
  /-- TEAM_RESUME (R93). A saved team is restored from its team record onto an admitting core. -/
  | teamResume (tid : Nat)
  /-- HARVEST_RESUME (R303). A revoked harvest team resumes in place replaying loads, or restarts at its restart vector after a lost span. -/
  | harvestResume (tid : Nat)
  /-- FIRMWARE_TRAP_RESUME (R101). Firmware resumes a trapped group at its recorded PC. -/
  | firmwareTrapResume (gid : Nat)
  /-- GROUP_RESTART (R101). Firmware restarts a group at its restart vector in the start state of R70. -/
  | groupRestart (gid : Nat)
  /-- TASK_FAULT_REPOST (R316). For a RESTART pool, firmware marks the task FAULTED, repairs the fault, reposts the task and restarts the group. -/
  | taskFaultRepost (gid : Nat)
  /-- ACC_OWNER_SPILL (R378). Firmware handles ACC_OWNER by spilling the owner's tile, restoring or zeroing the tile and transferring ownership. -/
  | accOwnerSpill (gid : Nat)
  /-- QUEUE_NOTIFY (R288). A write to a notify line wakes the queue scanner, which maps the queue and processes valid packets. -/
  | queueNotify (qid : Nat)
  /-- PACKET_SLOT_WATCH (R289). A write to a watched slot, signal or wait word makes the scanner check it again. -/
  | packetSlotWatch (qid : Nat)
  /-- NOP_PACKET (R280). A NOP packet completes with its release and signal. -/
  | nopPacket (qid : Nat)
  /-- DISPATCH (R281). A DISPATCH packet launches one grid. -/
  | dispatch (qid : Nat)
  /-- FRAME (R386). A FRAME packet checks its view set, launches the meshlet grid and starts the frame. -/
  | frame (qid : Nat)
  /-- BARRIER_AND (R285). A BARRIER_AND packet holds its queue until all named signals read 0. -/
  | barrierAnd (qid : Nat)
  /-- BARRIER_AND_SATISFIED (R285). Every named signal reads 0, and the packet completes with its release and signal decrement. -/
  | barrierAndSatisfied (qid : Nat)
  /-- INDIRECT (R286). An INDIRECT packet executes the packets of a buffer in place. -/
  | indirect (qid : Nat)
  /-- TIMELINE_WAIT (R280). A TIMELINE_WAIT packet holds its queue until a u64 reaches n. -/
  | timelineWait (qid : Nat)
  /-- TIMELINE_WAIT_SATISFIED (R280). The watched u64 reaches n, and the packet completes. -/
  | timelineWaitSatisfied (qid : Nat)
  /-- TASK_POOL (R280). A TASK_POOL packet writes LIVE and PFLAGS into a pool record and clears FAULTS. -/
  | taskPool (qid : Nat)
  /-- GAZE (R392). A GAZE packet writes the pending gaze pairs of the masked views of a view set. -/
  | gaze (qid : Nat)
  /-- CACHE_CLASS (R222). A privileged CACHE_CLASS packet sets the L2 class and context quotas. -/
  | cacheClass (qid : Nat)
  /-- TEAM_PLACE (R291). The dispatcher places a team where resources are free, pre-empting or revoking as the rules require. -/
  | teamPlace (lid : Nat)
  /-- LAUNCH_COMPLETE (R283). When all teams and engine operations are done, the launch writes back, writes its completion record, releases and decrements SIGNAL. -/
  | launchComplete (lid : Nat)
  /-- CONTEXT_TEARDOWN (R297). A context is torn down: queues disabled, teams killed, and pending packets aborted with abort values. -/
  | contextTeardown (ctxid : Nat)
  /-- TKGET_WAKE (R311). A write to the pool's TAIL or LIVE line wakes a parked TKGET, which tries again. -/
  | tkgetWake (gid slot : Nat)
  /-- TASK_ENQUEUE_RETRY (R312). When a full ready queue's HEAD changes, the task unit retries a pending enqueue. -/
  | taskEnqueueRetry (oid : Nat)
  /-- COPY_PIECE_DELIVERY (R334). A copy piece or element is written and its bytes are counted at the barrier. -/
  | copyPieceDelivery (gid op piece : Nat)
  /-- COPY_OP_COMPLETE (R330). A copy operation completes, makes its residency report and advances the counter. -/
  | copyOpComplete (gid op : Nat)
  /-- ENGINE_FAULT (R341). An engine translation fails, stopping the operation and reporting it to the Treadle core. -/
  | engineFault (src : EngineSource)
  /-- ENGINE_FAULT_RESUME (R341). After the repair, the engine resumes the stopped operation with only the bytes not yet performed. -/
  | engineFaultResume (src : EngineSource)
  /-- GANG_OP_COMPLETE (R369). A gang operation finishes on the arrays, updating the tile, OVF and the gang counter. -/
  | gangOpComplete (gang op : Nat)
  /-- PREEMPT_REQUEST (R91). A pre-emption request naming a team makes its PC slots stop at safe points or at once. -/
  | preemptRequest (tid : Nat)
  /-- PREEMPT_TIMEOUT (R94). PREEMPT_WINDOW expires; a REPLAYABLE team is killed and rerun later, and other teams continue. -/
  | preemptTimeout (tid : Nat)
  /-- STRIP_LATCH (R392). At START_k a view latches its pending gaze and CLS_AREA for strip k. -/
  | stripLatch (frame view strip : Nat)
  /-- AMPLIFIER_PROJECT (R397). At commit the amplifier writes primitive records, then projects, clips and snaps each primitive per view. -/
  | amplifierProject (frame prim : Nat)
  /-- RASTERISE_TRIANGLE (R400). The classifier sends a fan triangle to the small path or to the fixed rasteriser, which writes visibility or launches fragment groups. -/
  | rasteriseTriangle (frame tri strip tile : Nat)
  /-- STRIP_END_ENTRIES (R403). After the meshlet grid completes, an end entry for each strip is enqueued on every small-triangle queue. -/
  | stripEndEntries (frame strip : Nat)
  /-- TILE_AREA_OPEN (R411). The raster engine opens a tile area for its next live strip, reallocating it to read 0. -/
  | tileAreaOpen (frame view tile : Nat)
  /-- FBWR_RETIRE (R404). A held blend write retires in scoreboard submission order. -/
  | fbwrRetire (frame view tile : Nat)
  /-- TRET_COMPLETE (R417). When the tile is complete, TRET counts covered samples, updates occlusion counts and writes STATE. -/
  | tretComplete (oid : Nat)
  /-- SAMPLER_OP_COMPLETE (R424). A sampler operation finishes its reads and results, and its counter advances. -/
  | samplerOpComplete (gid op : Nat)
  /-- RAY_OP_COMPLETE (R436). A ray query finishes its traversal and results, and its counter advances. -/
  | rayOpComplete (gid op : Nat)
  /-- EGRESS_ARRIVAL (R428). A tile's image has been read by the Selvedge, which writes pixels and the record, sets STATE and completes the operation. -/
  | egressArrival (ctxid stream op : Nat)
  /-- DEADLINE_RULE (R429). At a strip's deadline the Selvedge writes fallback tiles for tiles that have not arrived and flags them LATE. -/
  | deadlineRule (frame view strip : Nat)
  /-- FRAME_COMPLETE (R386). When the meshlet grid, the fragment launches and all hand-overs are done, the statistics record is written and the FRAME completes. -/
  | frameComplete (frame : Nat)
  /-- EVENT_TAKE (R442). Die 0 takes an event raised by either die, gives it a SEQ and writes it, holds it, or drops it. -/
  | eventTake (die : Nat)
  /-- BOOT_FETCH_COMPLETE (R446). The fetched image is verified and started, or BOOTSTAT reports the failure. -/
  | bootFetchComplete (die : Nat)
  /-- NOT_AN_INSTRUCTION (R55). A fetched word whose OP is unassigned, or whose fields no instruction allows, traps ILLEGAL_OPCODE or ILLEGAL_OPERAND without executing. -/
  | notAnInstruction (w : Word)
  /-- INSTRUCTION_FETCH_FAULT (R33). A fetch whose translation or access check fails traps PAGE_FAULT or ACCESS, with the fetch address as the faulting address, before any instruction is decoded. -/
  | instructionFetchFault (addr : Addr)
  /-- UNKNOWN_PACKET_OPCODE (R280). A valid packet with OPCODE 0x09 to 0xFF puts its queue into ERROR with cause 1. -/
  | unknownPacketOpcode (qid : Nat)
  /-- LDCAP_WINDOW_END (R89). At the end of each 4,096-cycle window LDCAP and the rotating load pointer are updated. -/
  | ldcapWindowEnd (core : Nat)
  /-- BEATER_BATCH (R271). The Beater forwards up to 8 shadow entries to the true queue with one MADD.64 and the stamp protocol. -/
  | beaterBatch (pad off : Nat)
  /-- BEATER_AGE_TIMEOUT (R271). 128 cycles after the oldest waiting entry was posted, the shadow becomes due for forwarding. -/
  | beaterAgeTimeout (pad off : Nat)
  /-- HARVEST_REVOKE (R95). Revocation parks harvest groups in the reserve banks, cancelling loads for replay, and reclaims lent spans. -/
  | harvestRevoke (tid : Nat)
  /-- WAITC_POLL (R187). Every 4,096 cycles an unwatched WAITC location is read again. -/
  | waitcPoll (gid slot : Nat)
  /-- REQUEST_COMBINE (R259). A matching combinable request entering a reed buffer combines with a held one. -/
  | requestCombine (held entering : Nat)
  /-- ARRAY_IDLE_RAMPDOWN (R370). A warm array idle for 256 cycles begins to ramp down. -/
  | arrayIdleRampdown (cluster array : Nat)
  /-- MBURST_HOLD_EXPIRY (R371). The MBURST warm hold ends 256 times k cycles after the array became warm. -/
  | mburstHoldExpiry (cluster array : Nat)
  /-- PAGE_WALK_COMPLETE (R208). A page-table walk for an L1 miss finishes and installs a translation or faults. -/
  | pageWalkComplete (unit asid va : Nat)
  /-- WAKE_EVENT (R196). A trap notification, scanner notice or host event wakes a halted firmware group, or is held for the next HALT. -/
  | wakeEvent (die : Nat)
  /-- SCANNER_RESCAN (R289). Every 4,096 cycles the scanner rescans unwatched queues and waits and retries setting their watches. -/
  | scannerRescan (die : Nat)
  /-- LINK_TRAIN (R264). A Weft link trains, assigning the module number and reading the partner's profile word. -/
  | linkTrain (port : Nat) (comb : Bool) (module : Nat) (reach : List Nat)
  /-- HOST_MEMORY_WRITE (R243). A host write to device memory arrives and acts as a release at SYSTEM scope. -/
  | hostMemoryWrite (pa : Nat) (bytes : List Byte)
  /-- HOST_MEMORY_READ (R243). A host read of device memory arrives and acts as an acquire at SYSTEM scope. -/
  | hostMemoryRead (pa n : Nat)
  /-- HOST_REGISTER_WRITE (R441). A host write to a host register that has no row of its own, such as EQBASE, EQCTL, EQRIDX, BOOTADDR, BOOTLEN or MBXREQ. -/
  | hostRegisterWrite (off : BitVec 16) (val : BitVec 64)
  /-- POWER_WINDOW_END (R451). At the end of each 1 ms power window, a die steps its clock down or up and posts a KIND 8 event. -/
  | powerWindowEnd (milliwatts0 milliwatts1 moduleMilliwatts : Nat)
  /-- THERMAL_SAMPLE (R450). Every 100 microseconds a die measures its junction temperature for the clock-step rule. -/
  | thermalSample (die : Nat) (decidegrees : Int)
  /-- REQUEST_FROM_ANOTHER_MODULE (R226). A read, write or atomic request arriving on a Weft port from another module is homed, combined where its mark allows, and performed at the local home slice. -/
  | requestFromAnotherModule (req : RemoteRequest)
  /-- REMOTE_HOME_INVALIDATION (R226). A remote home's invalidation of a line that this module's L1 caches from that module arrives over the Weft Link and drops the copy before the remote write completes. -/
  | remoteHomeInvalidation (module pa : Nat)
  /-- EQDROP_READ (R441). A read of EQDROP returns the dropped-event count and clears it. -/
  | eqdropRead
  /-- EVENT_QUEUED_WRITE (R442). As ring space frees, die 0 writes held events in SEQ order and advances EQWIDX. -/
  | eventQueuedWrite
  /-- BOOT_GO (R446). The host writes BOOTCTL.GO, and both dies start fetching the firmware image. -/
  | bootGo
  /-- CREATE_CONTEXT (R444). A mailbox request creates a context with its class, ASID, root table, save area and reservation. -/
  | createContext
  /-- DESTROY_CONTEXT (R444). A mailbox request tears down a context and removes its queues. -/
  | destroyContext
  /-- CREATE_QUEUE (R444). A mailbox request creates a user-mode queue. -/
  | createQueue
  /-- DESTROY_QUEUE (R444). A mailbox request removes a queue and discards its unconsumed packets. -/
  | destroyQueue
  /-- ENABLE_QUEUE (R444). A mailbox request returns a queue in ERROR to service, optionally skipping the offending packet. -/
  | enableQueue
  /-- FAULT_REPLY (R442). A mailbox request answers the page-fault events of a context and address as mapped or declined. -/
  | faultReply
  /-- INVALIDATE (R444). A mailbox request performs a TLB shootdown and replies once it has completed. -/
  | invalidate
  /-- ATTEST (R448). A mailbox request returns a signed attestation report over the host's nonce. -/
  | attest
  /-- RESET (R449). Reset puts the module into its reset state, and the boot ROM waits for GO. -/
  | reset
  /-- UNKNOWN_MAILBOX_OP (R445). A mailbox request with an OP other than 1 to 8 is answered with STATUS 1 and a KIND 9 event. -/
  | unknownMailboxOp
  deriving DecidableEq, Repr

end Sys2Proof
end

