-- ==== Sys2Proof/WellFormed.lean ====
section
/-! DEFINITION. Well-formed instructions: the conditions of R55 (condition 5) that the word alone decides, by
the operand codes of R41 and R43, the field kinds of R46, the field-reading table of R52 and the entries. An
instruction that is not well-formed traps ILLEGAL_OPERAND when it issues. -/

namespace Sys2Proof

/-- A source operand of `n` words: the highest legal bases of R43. -/
def srcOk (n : Nat) (c : Code) : Bool :=
  if c.toNat < 16 then c.toNat + n ≤ 16 else if c.toNat < 56 then c.toNat - 16 + n ≤ 40 else c.toNat - 56 + n ≤ 8

/-- A destination of `n` words: `_`, `~`, N or G; codes 2 to 15 are illegal (R41, R43). -/
def dstOk (n : Nat) (c : Code) : Bool := c.toNat < 2 || (16 ≤ c.toNat && srcOk n c)

/-- A destination of a long-latency instruction, which may not be `~` (R82). -/
def dstLate (n : Nat) (c : Code) : Bool := dstOk n c && c.toNat ≠ 1

/-- The C selector: X = 0 accumulates into D, which must then be N or G; X = 1 to 15 names an age (R35, R43). -/
def accOk (n : Nat) (d : Code) (x : BitVec 4) : Bool := if x.toNat = 0 then 16 ≤ d.toNat && srcOk n d else x.toNat - 1 + n ≤ 16

/-- A K field (R46). -/
def kOk (c : Code) : Bool := c.toNat < 8
/-- A tile field (R46). -/
def tOk (c : Code) : Bool := c.toNat < 16
/-- A scope field (R46). -/
def scopeOk (c : Code) : Bool := c.toNat ≤ 8
/-- The words of an access of this size code (R46, R169). -/
def sizeWords (x : Nat) : Nat := if x = 5 then 2 else if x = 6 then 4 else 1
/-- The bytes of an access of this size code (R46). -/
def sizeBytes (x : Nat) : Nat := if x ≤ 1 then 1 else if x ≤ 3 then 2 else if x = 4 then 4 else if x = 5 then 8 else 16
/-- The size codes that STREL takes (R172). -/
def strelSize (x : Nat) : Bool := x = 0 || x = 2 || x = 4 || x = 5 || x = 6

/-- The numbers of the system register directory (R192). -/
def sysRegKnown (r : Nat) : Bool :=
  r ≤ 8 || (0x10 ≤ r && r ≤ 0x16) || (0x20 ≤ r && r ≤ 0x22) || (0x40 ≤ r && r ≤ 0x54) || (0x60 ≤ r && r ≤ 0x62) ||
  (0x100 ≤ r && r ≤ 0x104)

/-- The conditions that the word alone decides (R55, condition 5; R40 for LIT). -/
def Instr.wellFormed : Instr → Bool
  | .nop _ => true
  | .lit m _ => !m.p
  | .setmImm _ wm v => (!wm.getLsbD 0 || v.toNat % 16 ≤ 9) && (!wm.getLsbD 1 || v.toNat / 16 % 8 ≤ 4)
  | .setmReg _ _ a => srcOk 1 a
  | .getm _ d => dstOk 1 d
  | .mov _ d a => dstOk 1 d && srcOk 1 a
  | .movi _ d _ => dstOk 1 d
  | .addi _ d a _ => dstOk 1 d && srcOk 1 a
  | .andi _ d a _ => dstOk 1 d && srcOk 1 a
  | .ori _ d a _ => dstOk 1 d && srcOk 1 a
  | .xori _ d a _ => dstOk 1 d && srcOk 1 a
  | .shli _ d a i => dstOk 1 d && srcOk 1 a && i.toNat < 64
  | .shri _ d a i => dstOk 1 d && srcOk 1 a && i.toNat < 64
  | .cmpi _ _ _ a _ => srcOk 1 a
  | .add _ d a b => dstOk 1 d && srcOk 1 a && srcOk 1 b
  | .sub _ d a b => dstOk 1 d && srcOk 1 a && srcOk 1 b
  | .mul _ d a b => dstOk 1 d && srcOk 1 a && srcOk 1 b
  | .mulh _ d a b => dstOk 1 d && srcOk 1 a && srcOk 1 b
  | .mad _ d a b c => dstOk 1 d && srcOk 1 a && srcOk 1 b && accOk 1 d c
  | .div _ d a b => dstLate 1 d && srcOk 1 a && srcOk 1 b
  | .rem _ d a b => dstLate 1 d && srcOk 1 a && srcOk 1 b
  | .min _ d a b => dstOk 1 d && srcOk 1 a && srcOk 1 b
  | .max _ d a b => dstOk 1 d && srcOk 1 a && srcOk 1 b
  | .abs _ d a => dstOk 1 d && srcOk 1 a
  | .neg _ d a => dstOk 1 d && srcOk 1 a
  | .cmp _ k a b c => kOk k && srcOk 1 a && srcOk 1 b && c.toNat < 8
  | .sel _ d a b _ _ => dstOk 1 d && srcOk 1 a && srcOk 1 b
  | .cvt _ d a t => dstOk 1 d && srcOk 1 a && t.toNat ≤ 9
  | .sqrt _ d a => dstLate 1 d && srcOk 1 a
  | .rcp _ d a => dstLate 1 d && srcOk 1 a
  | .rsq _ d a => dstLate 1 d && srcOk 1 a
  | .exp2 _ d a => dstLate 1 d && srcOk 1 a
  | .log2 _ d a => dstLate 1 d && srcOk 1 a
  | .sin _ d a => dstLate 1 d && srcOk 1 a
  | .cos _ d a => dstLate 1 d && srcOk 1 a
  | .flr _ d a => dstOk 1 d && srcOk 1 a
  | .cel _ d a => dstOk 1 d && srcOk 1 a
  | .rnd _ d a => dstOk 1 d && srcOk 1 a
  | .frc _ d a => dstOk 1 d && srcOk 1 a
  | .classOp _ d a => dstOk 1 d && srcOk 1 a
  | .lea _ d a b _ => dstOk 1 d && srcOk 1 a && srcOk 1 b
  | .and _ d a b => dstOk 1 d && srcOk 1 a && srcOk 1 b
  | .andn _ d a b => dstOk 1 d && srcOk 1 a && srcOk 1 b
  | .or _ d a b => dstOk 1 d && srcOk 1 a && srcOk 1 b
  | .xor _ d a b => dstOk 1 d && srcOk 1 a && srcOk 1 b
  | .shl _ d a b => dstOk 1 d && srcOk 1 a && srcOk 1 b
  | .shr _ d a b => dstOk 1 d && srcOk 1 a && srcOk 1 b
  | .sar _ d a b => dstOk 1 d && srcOk 1 a && srcOk 1 b
  | .rol _ d a b => dstOk 1 d && srcOk 1 a && srcOk 1 b
  | .fnl _ d a b c => dstOk 1 d && srcOk 1 a && srcOk 1 b && accOk 1 d c
  | .fnr _ d a b c => dstOk 1 d && srcOk 1 a && srcOk 1 b && accOk 1 d c
  | .bfx _ d a b => dstOk 1 d && srcOk 1 a && srcOk 1 b
  | .bfxs _ d a b => dstOk 1 d && srcOk 1 a && srcOk 1 b
  | .bfi _ d a b c => dstOk 1 d && srcOk 1 a && srcOk 1 b && accOk 1 d c
  | .bfis _ d a b c => dstOk 1 d && srcOk 1 a && srcOk 1 b && accOk 1 d c
  | .popc _ d a => dstOk 1 d && srcOk 1 a
  | .clz _ d a => dstOk 1 d && srcOk 1 a
  | .ctz _ d a => dstOk 1 d && srcOk 1 a
  | .brev _ d a => dstOk 1 d && srcOk 1 a
  | .pack2 _ d a b => dstOk 1 d && srcOk 1 a && srcOk 1 b
  | .unpk _ d a x => dstOk 1 d && srcOk 1 a && x.toNat ≤ 1
  | .kand _ k a b => kOk k && kOk a && kOk b
  | .kor _ k a b => kOk k && kOk a && kOk b
  | .kxor _ k a b => kOk k && kOk a && kOk b
  | .knot _ k a => kOk k && kOk a
  | .kmov _ k a => kOk k && kOk a
  | .vote _ d a => dstOk 2 d && kOk a
  | .kany _ k a => kOk k && kOk a
  | .kall _ k a => kOk k && kOk a
  | .xrot _ d a b => dstOk 1 d && srcOk 1 a && srcOk 1 b
  | .xxor _ d a b => dstOk 1 d && srcOk 1 a && srcOk 1 b
  | .xbc _ d a b => dstOk 1 d && srcOk 1 a && srcOk 1 b
  | .xred _ d a x => dstOk 1 d && srcOk 1 a && x.toNat ≤ 5
  | .xscan _ d a _ x => dstOk 1 d && srcOk 1 a && x.toNat ≤ 5
  | .qswpx _ d a => dstOk 1 d && srcOk 1 a
  | .qswpy _ d a => dstOk 1 d && srcOk 1 a
  | .qswpd _ d a => dstOk 1 d && srcOk 1 a
  | .qbcst _ d a x => dstOk 1 d && srcOk 1 a && x.toNat < 4
  | .ddx _ d a x => dstOk 1 d && srcOk 1 a && x.toNat ≤ 1
  | .ddy _ d a x => dstOk 1 d && srcOk 1 a && x.toNat ≤ 1
  | .bra _ _ _ _ => true
  | .brk _ _ _ _ jw => jw.toNat < 2 ^ 18
  | .join _ => true
  | .call _ _ _ _ => true
  | .ret _ => true
  | .jmpi _ a => srcOk 2 a
  | .yield _ => true
  | .exit _ => true
  | .grow _ x => 1 ≤ x.toNat && x.toNat ≤ 4
  | .trap _ _ => true
  | .mfs _ d i => dstOk 1 d && sysRegKnown i.toNat
  | .mts _ a i => srcOk 1 a && sysRegKnown i.toNat
  | .eret _ => true
  | .halt _ => true
  | .cinv _ a b x => srcOk 2 a && scopeOk b && x.toNat ≤ 1
  | .cwb _ a b x => srcOk 2 a && scopeOk b && x.toNat ≤ 1
  | .tlbi _ a b x => srcOk 2 a && srcOk 1 b && x.toNat ≤ 3
  | .rgrel _ a => srcOk 2 a
  | .ld8 _ d a _ => dstLate 1 d && srcOk 2 a
  | .ld8s _ d a _ => dstLate 1 d && srcOk 2 a
  | .ld16 _ d a _ => dstLate 1 d && srcOk 2 a
  | .ld16s _ d a _ => dstLate 1 d && srcOk 2 a
  | .ld32 _ d a _ => dstLate 1 d && srcOk 2 a
  | .ld64 _ d a _ => dstLate 2 d && srcOk 2 a
  | .ld128 _ d a _ => dstLate 4 d && srcOk 2 a
  | .st8 _ d a _ => srcOk 1 d && srcOk 2 a
  | .st16 _ d a _ => srcOk 1 d && srcOk 2 a
  | .st32 _ d a _ => srcOk 1 d && srcOk 2 a
  | .st64 _ d a _ => srcOk 2 d && srcOk 2 a
  | .st128 _ d a _ => srcOk 4 d && srcOk 2 a
  | .ldacq _ d a b x => x.toNat ≤ 6 && dstLate (sizeWords x.toNat) d && srcOk 2 a && scopeOk b
  | .strel _ d a b x => strelSize x.toNat && srcOk (sizeWords x.toNat) d && srcOk 2 a && scopeOk b
  | .fence _ b x => scopeOk b && 1 ≤ x.toNat && x.toNat ≤ 3
  | .acvt _ d a x => dstLate 2 d && srcOk 2 a && x.toNat ≤ 3
  | .atst _ k a x => kOk k && srcOk 2 a && x.toNat ≤ 3
  | .aadd _ d a b => dstLate 1 d && srcOk 2 a && srcOk 1 b
  | .amin _ d a b => dstLate 1 d && srcOk 2 a && srcOk 1 b
  | .aminU _ d a b => dstLate 1 d && srcOk 2 a && srcOk 1 b
  | .amax _ d a b => dstLate 1 d && srcOk 2 a && srcOk 1 b
  | .amaxU _ d a b => dstLate 1 d && srcOk 2 a && srcOk 1 b
  | .aand _ d a b => dstLate 1 d && srcOk 2 a && srcOk 1 b
  | .aor _ d a b => dstLate 1 d && srcOk 2 a && srcOk 1 b
  | .axor _ d a b => dstLate 1 d && srcOk 2 a && srcOk 1 b
  | .axch _ d a b => dstLate 1 d && srcOk 2 a && srcOk 1 b
  | .amax64 _ d a b => dstLate 2 d && srcOk 2 a && srcOk 2 b
  | .acas _ d a b c => dstLate 1 d && srcOk 2 a && srcOk 1 b && accOk 1 d c
  | .bari _ a i => srcOk 1 a && i.toNat < 512
  | .bara _ i => i.toNat < 512
  | .barw _ i => i.toNat < 512
  | .barx _ a i => srcOk 1 a && i.toNat < 512
  | .srpost _ a _ => srcOk 1 a
  | .srtake _ d _ => dstLate 1 d
  | .srwait _ _ => true
  | .waitc _ a b c => srcOk 2 a && srcOk 1 b && c.toNat ≤ 5
  | .tlwait _ a b x => srcOk 2 a && x.toNat ≤ 4 && (if x.toNat = 4 then srcOk 1 b else b.toNat = 0)
  | .tlread _ d b x => dstLate 2 d && x.toNat ≤ 4 && (if x.toNat = 4 then srcOk 1 b else b.toNat = 0)
  | .madd _ d a b n z => z.toNat ≤ 1 && srcOk 2 a && srcOk (z.toNat + 1) b && (if n then d.toNat = 0 else dstLate (z.toNat + 1) d)
  | .mmin _ d a b n _ z => z.toNat ≤ 1 && srcOk 2 a && srcOk (z.toNat + 1) b && (if n then d.toNat = 0 else dstLate (z.toNat + 1) d)
  | .mmax _ d a b n _ z => z.toNat ≤ 1 && srcOk 2 a && srcOk (z.toNat + 1) b && (if n then d.toNat = 0 else dstLate (z.toNat + 1) d)
  | .mand _ d a b n z => z.toNat ≤ 1 && srcOk 2 a && srcOk (z.toNat + 1) b && (if n then d.toNat = 0 else dstLate (z.toNat + 1) d)
  | .mor _ d a b n z => z.toNat ≤ 1 && srcOk 2 a && srcOk (z.toNat + 1) b && (if n then d.toNat = 0 else dstLate (z.toNat + 1) d)
  | .mxor _ d a b n z => z.toNat ≤ 1 && srcOk 2 a && srcOk (z.toNat + 1) b && (if n then d.toNat = 0 else dstLate (z.toNat + 1) d)
  | .mxch _ d a b n z => z.toNat ≤ 1 && srcOk 2 a && srcOk (z.toNat + 1) b && (if n then d.toNat = 0 else dstLate (z.toNat + 1) d)
  | .mcas _ d a b c => dstLate 1 d && srcOk 2 a && srcOk 1 b && accOk 1 d c
  | .mfcs _ d a => dstLate 1 d && srcOk 2 a
  | .mbim _ d a b c => dstLate 1 d && srcOk 2 a && srcOk 1 b && accOk 1 d c
  | .mpls _ d a b c => dstLate 1 d && srcOk 2 a && srcOk 1 b && accOk 1 d c
  | .mcas64 _ d a b c => dstLate 2 d && srcOk 2 a && srcOk 2 b && accOk 2 d c
  | .qenq _ d a b => dstLate 2 d && srcOk 2 a && srcOk 2 b
  | .qdeq _ d a b => dstLate 2 d && srcOk 2 a && srcOk 2 b
  | .qpost _ d a b _ => dstLate 1 d && srcOk 2 a && srcOk 2 b
  | .tkget _ d a b => dstLate 2 d && srcOk 2 a && srcOk 2 b
  | .tkdone _ d a => dstLate 1 d && srcOk 2 a
  | .tkarm _ d a b x => dstLate 1 d && srcOk 2 a && srcOk 1 b && x.toNat ≤ 4
  | .tkpost _ d a _ => dstLate 2 d && srcOk 2 a
  | .cpy _ d a _ => dstLate 2 d && srcOk 2 a
  | .cpym _ d a x => dstLate 2 d && srcOk 2 a && 1 ≤ x.toNat
  | .cpys _ d a _ => dstLate 2 d && srcOk 2 a
  | .cpyt _ d a _ => dstLate 2 d && srcOk 2 a
  | .cpyg _ d a _ _ => dstLate 2 d && srcOk 2 a
  | .cpyx _ d a _ _ => dstLate 2 d && srcOk 2 a
  | .cbmrd _ d a => dstLate 2 d && srcOk 2 a
  | .gang _ a x => srcOk 1 a && (x.toNat = 1 || x.toNat = 2 || x.toNat = 4)
  | .mma _ t a b _ => tOk t && 56 ≤ a.toNat && a.toNat ≤ 62 && 16 ≤ b.toNat && b.toNat ≤ 55
  | .mmaz _ t a b _ => tOk t && 56 ≤ a.toNat && a.toNat ≤ 62 && 16 ≤ b.toNat && b.toNat ≤ 55
  | .accld _ t a _ => tOk t && srcOk 2 a
  | .accst _ t a _ => tOk t && srcOk 2 a
  | .accrd _ d t w _ => w.toNat ≤ 1 && tOk t && (w.toNat = 0 || t.toNat % 2 = 0) && dstLate (w.toNat + 1) d
  | .mburst _ _ => true
  | .mfree _ t => tOk t
  | .fcvt _ d a _ _ => dstLate 1 d && srcOk 1 a
  | .tex _ d a b x => x.toNat ≤ 2 && dstLate 4 d && srcOk 2 a && srcOk 2 b
  | .texg _ d a b _ => dstLate 4 d && srcOk 2 a && srcOk 2 b
  | .emitv _ a b x => x.toNat ≤ 4 && srcOk 4 a && (if x.toNat = 0 then b.toNat = 0 else srcOk (4 * x.toNat) b)
  | .emitp _ a b => srcOk 1 a && srcOk 1 b
  | .fbrd _ d a b x => x.toNat ≤ 2 && srcOk 1 a && (if x.toNat = 2 then b.toNat = 0 else srcOk 1 b) && dstLate (if x.toNat = 0 then 1 else 2) d
  | .fbwr _ d a b x => x.toNat ≤ 4 && srcOk 1 d && srcOk 1 a && srcOk 1 b
  | .tret _ d a => dstLate 1 d && srcOk 1 a
  | .late _ d a => dstLate 1 d && srcOk 1 a
  | .ray _ d a b x => dstLate 4 d && srcOk (if x then 4 else 8) a && srcOk 2 b
  | .rayq _ d a b x => dstLate 1 d && srcOk (if x then 4 else 8) a && srcOk 2 b
  | .rgrp _ _ a _ => srcOk 1 a
  | .egrs _ d a b _ => dstLate 2 d && srcOk 1 a && srcOk 2 b
  | .longLatencyResultReturn _ => true
  | .farAtomicPerform _ => true
  | .requestCombine _ _ => true
  | .combiningStageExit _ => true
  | .replySplit _ => true
  | .homeFaultReplay _ => true
  | .pageWalkComplete _ _ _ => true
  | .shootdownComplete _ => true
  | .waitcWatchFire _ _ => true
  | .waitcPoll _ _ => true
  | .growGrant _ => true
  | .ldcapWindowEnd _ => true
  | .preemptRequest _ => true
  | .teamSave _ => true
  | .preemptTimeout _ => true
  | .teamResume _ => true
  | .harvestRevoke _ => true
  | .harvestResume _ => true
  | .firmwareTrapResume _ => true
  | .groupRestart _ => true
  | .taskFaultRepost _ => true
  | .accOwnerSpill _ => true
  | .wakeEvent _ => true
  | .queueNotify _ => true
  | .packetSlotWatch _ => true
  | .scannerRescan _ => true
  | .nopPacket _ => true
  | .dispatch _ => true
  | .frame _ => true
  | .barrierAnd _ => true
  | .barrierAndSatisfied _ => true
  | .indirect _ => true
  | .timelineWait _ => true
  | .timelineWaitSatisfied _ => true
  | .taskPool _ => true
  | .gaze _ => true
  | .cacheClass _ => true
  | .teamPlace _ => true
  | .launchComplete _ => true
  | .contextTeardown _ => true
  | .tkgetWake _ _ => true
  | .taskEnqueueRetry _ => true
  | .beaterBatch _ _ => true
  | .beaterAgeTimeout _ _ => true
  | .copyPieceDelivery _ _ _ => true
  | .copyOpComplete _ _ => true
  | .engineFault _ => true
  | .engineFaultResume _ => true
  | .gangOpComplete _ _ => true
  | .arrayIdleRampdown _ _ => true
  | .mburstHoldExpiry _ _ => true
  | .stripLatch _ _ _ => true
  | .amplifierProject _ _ => true
  | .rasteriseTriangle _ _ _ _ => true
  | .stripEndEntries _ _ => true
  | .tileAreaOpen _ _ _ => true
  | .fbwrRetire _ _ _ => true
  | .tretComplete _ => true
  | .samplerOpComplete _ _ => true
  | .rayOpComplete _ _ => true
  | .egressArrival _ _ _ => true
  | .deadlineRule _ _ _ => true
  | .frameComplete _ => true
  | .linkTrain _ _ _ _ => true
  | .hostMemoryWrite _ _ => true
  | .hostMemoryRead _ _ => true
  | .eqdropRead => true
  | .hostRegisterWrite _ _ => true
  | .eventQueuedWrite => true
  | .eventTake _ => true
  | .bootGo => true
  | .bootFetchComplete _ => true
  | .createContext => true
  | .destroyContext => true
  | .createQueue => true
  | .destroyQueue => true
  | .enableQueue => true
  | .faultReply => true
  | .invalidate => true
  | .attest => true
  | .reset => true
  | .powerWindowEnd _ _ _ => true
  | .thermalSample _ _ => true
  | .notAnInstruction _ => true
  | .instructionFetchFault _ => true
  | .unknownPacketOpcode _ => true
  | .unknownMailboxOp => true
  | .requestFromAnotherModule _ => true
  | .remoteHomeInvalidation _ _ => true

end Sys2Proof
end

