-- ==== Sys2Proof/Decode.lean ====
section
/-! DEFINITION. Decoding (R34, R35, R36, R50, R51, R52) and encoding of instruction words. The decoder is
total: it rejects by name a word whose OP is unassigned and a word whose fields no instruction allows. The
values of fields that R46 and the entries limit are checked when the instruction issues (R55, condition 5). -/

namespace Sys2Proof

/-- Why a word is no instruction (R55, conditions 2 and 5). -/
inductive DecodeError where
  /-- OP is unassigned in the opcode map (R50): the core traps ILLEGAL_OPCODE. -/
  | unassigned
  /-- a must-be-zero field is not zero, or X is not listed (R52): the core traps ILLEGAL_OPERAND. -/
  | badField
  deriving DecidableEq, Repr

namespace Fields

/-- Bits `lo + w - 1 : lo` of a word, as a number (R10). -/
def sub (n lo w : Nat) : Nat := n / 2 ^ lo % 2 ^ w

/-- Bits `lo + w - 1 : lo` of a word, as a field. -/
def fld (n lo w : Nat) : BitVec w := BitVec.ofNat w (n / 2 ^ lo)

/-- Bit `i` of a word. -/
def bit (n i : Nat) : Bool := n / 2 ^ i % 2 == 1

end Fields

open Fields in
/-- The instruction that a word of opcode `op` and bits `n` encodes, with the extension word that LIT and BRK
take (R36, R37, R39); the table of R50 and R52, row by row. -/
def decodeFields (m : Marks) (op n : Nat) (ext : Word) : Option Instr :=
  match op with
  | 0x01 => if sub n 0 22 = 0 then some (.nop m) else none
  | 0x02 => if sub n 0 22 = 0 then some (.lit m ext) else none
  | 0x03 => if sub n 12 4 = 0 ∧ sub n 20 2 = 0 then some (.setmImm m (fld n 16 4) (fld n 0 12)) else none
  | 0x04 => if sub n 0 10 = 0 ∧ sub n 20 2 = 0 then some (.setmReg m (fld n 16 4) (fld n 10 6)) else none
  | 0x05 => if sub n 0 16 = 0 then some (.getm m (fld n 16 6)) else none
  | 0x06 => if sub n 0 10 = 0 then some (.mov m (fld n 16 6) (fld n 10 6)) else none
  | 0x07 => some (.movi m (fld n 16 6) (fld n 0 16))
  | 0x08 => some (.addi m (fld n 16 6) (fld n 10 6) (fld n 0 10))
  | 0x09 => some (.andi m (fld n 16 6) (fld n 10 6) (fld n 0 10))
  | 0x0A => some (.ori m (fld n 16 6) (fld n 10 6) (fld n 0 10))
  | 0x0B => some (.xori m (fld n 16 6) (fld n 10 6) (fld n 0 10))
  | 0x0C => some (.shli m (fld n 16 6) (fld n 10 6) (fld n 0 10))
  | 0x0D => some (.shri m (fld n 16 6) (fld n 10 6) (fld n 0 10))
  | 0x0E => some (.cmpi m (fld n 19 3) (fld n 16 3) (fld n 10 6) (fld n 0 10))
  | 0x20 => if sub n 0 4 = 0 then some (.add m (fld n 16 6) (fld n 10 6) (fld n 4 6)) else none
  | 0x21 => if sub n 0 4 = 0 then some (.sub m (fld n 16 6) (fld n 10 6) (fld n 4 6)) else none
  | 0x22 => if sub n 0 4 = 0 then some (.mul m (fld n 16 6) (fld n 10 6) (fld n 4 6)) else none
  | 0x23 => if sub n 0 4 = 0 then some (.mulh m (fld n 16 6) (fld n 10 6) (fld n 4 6)) else none
  | 0x24 => some (.mad m (fld n 16 6) (fld n 10 6) (fld n 4 6) (fld n 0 4))
  | 0x25 => if sub n 0 4 = 0 then some (.div m (fld n 16 6) (fld n 10 6) (fld n 4 6)) else none
  | 0x26 => if sub n 0 4 = 0 then some (.rem m (fld n 16 6) (fld n 10 6) (fld n 4 6)) else none
  | 0x27 => if sub n 0 4 = 0 then some (.min m (fld n 16 6) (fld n 10 6) (fld n 4 6)) else none
  | 0x28 => if sub n 0 4 = 0 then some (.max m (fld n 16 6) (fld n 10 6) (fld n 4 6)) else none
  | 0x29 => if sub n 0 10 = 0 then some (.abs m (fld n 16 6) (fld n 10 6)) else none
  | 0x2A => if sub n 0 10 = 0 then some (.neg m (fld n 16 6) (fld n 10 6)) else none
  | 0x2B => some (.cmp m (fld n 16 6) (fld n 10 6) (fld n 4 6) (fld n 0 4))
  | 0x2C => some (.sel m (fld n 16 6) (fld n 10 6) (fld n 4 6) (bit n 3) (fld n 0 3))
  | 0x2D => if sub n 4 6 = 0 then some (.cvt m (fld n 16 6) (fld n 10 6) (fld n 0 4)) else none
  | 0x2E => if sub n 0 10 = 0 then some (.sqrt m (fld n 16 6) (fld n 10 6)) else none
  | 0x2F => if sub n 0 10 = 0 then some (.rcp m (fld n 16 6) (fld n 10 6)) else none
  | 0x30 => if sub n 0 10 = 0 then some (.rsq m (fld n 16 6) (fld n 10 6)) else none
  | 0x31 => if sub n 0 10 = 0 then some (.exp2 m (fld n 16 6) (fld n 10 6)) else none
  | 0x32 => if sub n 0 10 = 0 then some (.log2 m (fld n 16 6) (fld n 10 6)) else none
  | 0x33 => if sub n 0 10 = 0 then some (.sin m (fld n 16 6) (fld n 10 6)) else none
  | 0x34 => if sub n 0 10 = 0 then some (.cos m (fld n 16 6) (fld n 10 6)) else none
  | 0x35 => if sub n 0 10 = 0 then some (.flr m (fld n 16 6) (fld n 10 6)) else none
  | 0x36 => if sub n 0 10 = 0 then some (.cel m (fld n 16 6) (fld n 10 6)) else none
  | 0x37 => if sub n 0 10 = 0 then some (.rnd m (fld n 16 6) (fld n 10 6)) else none
  | 0x38 => if sub n 0 10 = 0 then some (.frc m (fld n 16 6) (fld n 10 6)) else none
  | 0x39 => if sub n 0 10 = 0 then some (.classOp m (fld n 16 6) (fld n 10 6)) else none
  | 0x3A => some (.lea m (fld n 16 6) (fld n 10 6) (fld n 4 6) (fld n 0 4))
  | 0x40 => if sub n 0 4 = 0 then some (.and m (fld n 16 6) (fld n 10 6) (fld n 4 6)) else none
  | 0x41 => if sub n 0 4 = 0 then some (.andn m (fld n 16 6) (fld n 10 6) (fld n 4 6)) else none
  | 0x42 => if sub n 0 4 = 0 then some (.or m (fld n 16 6) (fld n 10 6) (fld n 4 6)) else none
  | 0x43 => if sub n 0 4 = 0 then some (.xor m (fld n 16 6) (fld n 10 6) (fld n 4 6)) else none
  | 0x44 => if sub n 0 4 = 0 then some (.shl m (fld n 16 6) (fld n 10 6) (fld n 4 6)) else none
  | 0x45 => if sub n 0 4 = 0 then some (.shr m (fld n 16 6) (fld n 10 6) (fld n 4 6)) else none
  | 0x46 => if sub n 0 4 = 0 then some (.sar m (fld n 16 6) (fld n 10 6) (fld n 4 6)) else none
  | 0x47 => if sub n 0 4 = 0 then some (.rol m (fld n 16 6) (fld n 10 6) (fld n 4 6)) else none
  | 0x48 => some (.fnl m (fld n 16 6) (fld n 10 6) (fld n 4 6) (fld n 0 4))
  | 0x49 => some (.fnr m (fld n 16 6) (fld n 10 6) (fld n 4 6) (fld n 0 4))
  | 0x4A => if sub n 0 4 = 0 then some (.bfx m (fld n 16 6) (fld n 10 6) (fld n 4 6)) else none
  | 0x4B => if sub n 0 4 = 0 then some (.bfxs m (fld n 16 6) (fld n 10 6) (fld n 4 6)) else none
  | 0x4C => some (.bfi m (fld n 16 6) (fld n 10 6) (fld n 4 6) (fld n 0 4))
  | 0x4D => some (.bfis m (fld n 16 6) (fld n 10 6) (fld n 4 6) (fld n 0 4))
  | 0x4E => if sub n 0 10 = 0 then some (.popc m (fld n 16 6) (fld n 10 6)) else none
  | 0x4F => if sub n 0 10 = 0 then some (.clz m (fld n 16 6) (fld n 10 6)) else none
  | 0x50 => if sub n 0 10 = 0 then some (.ctz m (fld n 16 6) (fld n 10 6)) else none
  | 0x51 => if sub n 0 10 = 0 then some (.brev m (fld n 16 6) (fld n 10 6)) else none
  | 0x52 => if sub n 0 4 = 0 then some (.pack2 m (fld n 16 6) (fld n 10 6) (fld n 4 6)) else none
  | 0x53 => if sub n 4 6 = 0 then some (.unpk m (fld n 16 6) (fld n 10 6) (fld n 0 4)) else none
  | 0x60 => if sub n 0 4 = 0 then some (.kand m (fld n 16 6) (fld n 10 6) (fld n 4 6)) else none
  | 0x61 => if sub n 0 4 = 0 then some (.kor m (fld n 16 6) (fld n 10 6) (fld n 4 6)) else none
  | 0x62 => if sub n 0 4 = 0 then some (.kxor m (fld n 16 6) (fld n 10 6) (fld n 4 6)) else none
  | 0x63 => if sub n 0 10 = 0 then some (.knot m (fld n 16 6) (fld n 10 6)) else none
  | 0x64 => if sub n 0 10 = 0 then some (.kmov m (fld n 16 6) (fld n 10 6)) else none
  | 0x65 => if sub n 0 10 = 0 then some (.vote m (fld n 16 6) (fld n 10 6)) else none
  | 0x66 => if sub n 0 10 = 0 then some (.kany m (fld n 16 6) (fld n 10 6)) else none
  | 0x67 => if sub n 0 10 = 0 then some (.kall m (fld n 16 6) (fld n 10 6)) else none
  | 0x68 => if sub n 0 4 = 0 then some (.xrot m (fld n 16 6) (fld n 10 6) (fld n 4 6)) else none
  | 0x69 => if sub n 0 4 = 0 then some (.xxor m (fld n 16 6) (fld n 10 6) (fld n 4 6)) else none
  | 0x6A => if sub n 0 4 = 0 then some (.xbc m (fld n 16 6) (fld n 10 6) (fld n 4 6)) else none
  | 0x6B => if sub n 3 7 = 0 then some (.xred m (fld n 16 6) (fld n 10 6) (fld n 0 3)) else none
  | 0x6C => if sub n 4 6 = 0 then some (.xscan m (fld n 16 6) (fld n 10 6) (bit n 3) (fld n 0 3)) else none
  | 0x70 => if sub n 0 10 = 0 then some (.qswpx m (fld n 16 6) (fld n 10 6)) else none
  | 0x71 => if sub n 0 10 = 0 then some (.qswpy m (fld n 16 6) (fld n 10 6)) else none
  | 0x72 => if sub n 0 10 = 0 then some (.qswpd m (fld n 16 6) (fld n 10 6)) else none
  | 0x73 => if sub n 4 6 = 0 then some (.qbcst m (fld n 16 6) (fld n 10 6) (fld n 0 4)) else none
  | 0x74 => if sub n 4 6 = 0 then some (.ddx m (fld n 16 6) (fld n 10 6) (fld n 0 4)) else none
  | 0x75 => if sub n 4 6 = 0 then some (.ddy m (fld n 16 6) (fld n 10 6) (fld n 0 4)) else none
  | 0x80 => some (.bra m (bit n 21) (fld n 18 3) (fld n 0 18))
  | 0x81 => some (.brk m (bit n 21) (fld n 18 3) (fld n 0 18) ext)
  | 0x82 => if sub n 0 22 = 0 then some (.join m) else none
  | 0x83 => some (.call m (bit n 21) (fld n 18 3) (fld n 0 18))
  | 0x84 => if sub n 0 22 = 0 then some (.ret m) else none
  | 0x85 => if sub n 0 10 = 0 ∧ sub n 16 6 = 0 then some (.jmpi m (fld n 10 6)) else none
  | 0x86 => if sub n 0 22 = 0 then some (.yield m) else none
  | 0x87 => if sub n 0 22 = 0 then some (.exit m) else none
  | 0x88 => if sub n 4 18 = 0 then some (.grow m (fld n 0 4)) else none
  | 0x89 => if sub n 10 12 = 0 then some (.trap m (fld n 0 10)) else none
  | 0x8A => if sub n 10 6 = 0 then some (.mfs m (fld n 16 6) (fld n 0 10)) else none
  | 0x8B => if sub n 16 6 = 0 then some (.mts m (fld n 10 6) (fld n 0 10)) else none
  | 0x8C => if sub n 0 22 = 0 then some (.eret m) else none
  | 0x8D => if sub n 0 22 = 0 then some (.halt m) else none
  | 0x8E => if sub n 16 6 = 0 then some (.cinv m (fld n 10 6) (fld n 4 6) (fld n 0 4)) else none
  | 0x8F => if sub n 16 6 = 0 then some (.cwb m (fld n 10 6) (fld n 4 6) (fld n 0 4)) else none
  | 0x90 => if sub n 16 6 = 0 then some (.tlbi m (fld n 10 6) (fld n 4 6) (fld n 0 4)) else none
  | 0x91 => if sub n 0 10 = 0 ∧ sub n 16 6 = 0 then some (.rgrel m (fld n 10 6)) else none
  | 0xA0 => some (.ld8 m (fld n 16 6) (fld n 10 6) (fld n 0 10))
  | 0xA1 => some (.ld8s m (fld n 16 6) (fld n 10 6) (fld n 0 10))
  | 0xA2 => some (.ld16 m (fld n 16 6) (fld n 10 6) (fld n 0 10))
  | 0xA3 => some (.ld16s m (fld n 16 6) (fld n 10 6) (fld n 0 10))
  | 0xA4 => some (.ld32 m (fld n 16 6) (fld n 10 6) (fld n 0 10))
  | 0xA5 => some (.ld64 m (fld n 16 6) (fld n 10 6) (fld n 0 10))
  | 0xA6 => some (.ld128 m (fld n 16 6) (fld n 10 6) (fld n 0 10))
  | 0xA8 => some (.st8 m (fld n 16 6) (fld n 10 6) (fld n 0 10))
  | 0xA9 => some (.st16 m (fld n 16 6) (fld n 10 6) (fld n 0 10))
  | 0xAA => some (.st32 m (fld n 16 6) (fld n 10 6) (fld n 0 10))
  | 0xAB => some (.st64 m (fld n 16 6) (fld n 10 6) (fld n 0 10))
  | 0xAC => some (.st128 m (fld n 16 6) (fld n 10 6) (fld n 0 10))
  | 0xAD => some (.ldacq m (fld n 16 6) (fld n 10 6) (fld n 4 6) (fld n 0 4))
  | 0xAE => some (.strel m (fld n 16 6) (fld n 10 6) (fld n 4 6) (fld n 0 4))
  | 0xAF => if sub n 10 12 = 0 then some (.fence m (fld n 4 6) (fld n 0 4)) else none
  | 0xB0 => if sub n 4 6 = 0 then some (.acvt m (fld n 16 6) (fld n 10 6) (fld n 0 4)) else none
  | 0xB1 => if sub n 4 6 = 0 then some (.atst m (fld n 16 6) (fld n 10 6) (fld n 0 4)) else none
  | 0xB2 => if sub n 0 4 = 0 then some (.aadd m (fld n 16 6) (fld n 10 6) (fld n 4 6)) else if sub n 0 4 = 1 then some (.amin m (fld n 16 6) (fld n 10 6) (fld n 4 6)) else if sub n 0 4 = 2 then some (.aminU m (fld n 16 6) (fld n 10 6) (fld n 4 6)) else if sub n 0 4 = 3 then some (.amax m (fld n 16 6) (fld n 10 6) (fld n 4 6)) else if sub n 0 4 = 4 then some (.amaxU m (fld n 16 6) (fld n 10 6) (fld n 4 6)) else if sub n 0 4 = 5 then some (.aand m (fld n 16 6) (fld n 10 6) (fld n 4 6)) else if sub n 0 4 = 6 then some (.aor m (fld n 16 6) (fld n 10 6) (fld n 4 6)) else if sub n 0 4 = 7 then some (.axor m (fld n 16 6) (fld n 10 6) (fld n 4 6)) else if sub n 0 4 = 8 then some (.axch m (fld n 16 6) (fld n 10 6) (fld n 4 6)) else if sub n 0 4 = 9 then some (.amax64 m (fld n 16 6) (fld n 10 6) (fld n 4 6)) else none
  | 0xB3 => some (.acas m (fld n 16 6) (fld n 10 6) (fld n 4 6) (fld n 0 4))
  | 0xB4 => if sub n 16 6 = 0 then some (.bari m (fld n 10 6) (fld n 0 10)) else none
  | 0xB5 => if sub n 10 12 = 0 then some (.bara m (fld n 0 10)) else none
  | 0xB6 => if sub n 10 12 = 0 then some (.barw m (fld n 0 10)) else none
  | 0xB7 => if sub n 16 6 = 0 then some (.barx m (fld n 10 6) (fld n 0 10)) else none
  | 0xB8 => if sub n 2 8 = 0 ∧ sub n 16 6 = 0 then some (.srpost m (fld n 10 6) (fld n 0 2)) else none
  | 0xB9 => if sub n 2 14 = 0 then some (.srtake m (fld n 16 6) (fld n 0 2)) else none
  | 0xBA => if sub n 2 20 = 0 then some (.srwait m (fld n 0 2)) else none
  | 0xBB => if sub n 16 6 = 0 then some (.waitc m (fld n 10 6) (fld n 4 6) (fld n 0 4)) else none
  | 0xBC => if sub n 16 6 = 0 then some (.tlwait m (fld n 10 6) (fld n 4 6) (fld n 0 4)) else none
  | 0xBD => if sub n 10 6 = 0 then some (.tlread m (fld n 16 6) (fld n 4 6) (fld n 0 4)) else none
  | 0xC0 => if sub n 2 1 = 0 then some (.madd m (fld n 16 6) (fld n 10 6) (fld n 4 6) (bit n 3) (fld n 0 2)) else none
  | 0xC1 => some (.mmin m (fld n 16 6) (fld n 10 6) (fld n 4 6) (bit n 3) (bit n 2) (fld n 0 2))
  | 0xC2 => some (.mmax m (fld n 16 6) (fld n 10 6) (fld n 4 6) (bit n 3) (bit n 2) (fld n 0 2))
  | 0xC3 => if sub n 2 1 = 0 then some (.mand m (fld n 16 6) (fld n 10 6) (fld n 4 6) (bit n 3) (fld n 0 2)) else none
  | 0xC4 => if sub n 2 1 = 0 then some (.mor m (fld n 16 6) (fld n 10 6) (fld n 4 6) (bit n 3) (fld n 0 2)) else none
  | 0xC5 => if sub n 2 1 = 0 then some (.mxor m (fld n 16 6) (fld n 10 6) (fld n 4 6) (bit n 3) (fld n 0 2)) else none
  | 0xC6 => if sub n 2 1 = 0 then some (.mxch m (fld n 16 6) (fld n 10 6) (fld n 4 6) (bit n 3) (fld n 0 2)) else none
  | 0xC7 => some (.mcas m (fld n 16 6) (fld n 10 6) (fld n 4 6) (fld n 0 4))
  | 0xC8 => if sub n 0 10 = 0 then some (.mfcs m (fld n 16 6) (fld n 10 6)) else none
  | 0xC9 => some (.mbim m (fld n 16 6) (fld n 10 6) (fld n 4 6) (fld n 0 4))
  | 0xCA => some (.mpls m (fld n 16 6) (fld n 10 6) (fld n 4 6) (fld n 0 4))
  | 0xCB => some (.mcas64 m (fld n 16 6) (fld n 10 6) (fld n 4 6) (fld n 0 4))
  | 0xCC => if sub n 0 4 = 0 then some (.qenq m (fld n 16 6) (fld n 10 6) (fld n 4 6)) else none
  | 0xCD => if sub n 0 4 = 0 then some (.qdeq m (fld n 16 6) (fld n 10 6) (fld n 4 6)) else none
  | 0xCE => if sub n 1 3 = 0 then some (.qpost m (fld n 16 6) (fld n 10 6) (fld n 4 6) (bit n 0)) else none
  | 0xD0 => if sub n 0 4 = 0 then some (.tkget m (fld n 16 6) (fld n 10 6) (fld n 4 6)) else none
  | 0xD1 => if sub n 0 10 = 0 then some (.tkdone m (fld n 16 6) (fld n 10 6)) else none
  | 0xD2 => some (.tkarm m (fld n 16 6) (fld n 10 6) (fld n 4 6) (fld n 0 4))
  | 0xD3 => if sub n 1 9 = 0 then some (.tkpost m (fld n 16 6) (fld n 10 6) (bit n 0)) else none
  | 0xD8 => if sub n 1 9 = 0 then some (.cpy m (fld n 16 6) (fld n 10 6) (bit n 0)) else none
  | 0xD9 => if sub n 4 6 = 0 then some (.cpym m (fld n 16 6) (fld n 10 6) (fld n 0 4)) else none
  | 0xDA => if sub n 1 9 = 0 then some (.cpys m (fld n 16 6) (fld n 10 6) (bit n 0)) else none
  | 0xDB => if sub n 1 9 = 0 then some (.cpyt m (fld n 16 6) (fld n 10 6) (bit n 0)) else none
  | 0xDC => if sub n 2 8 = 0 then some (.cpyg m (fld n 16 6) (fld n 10 6) (bit n 1) (bit n 0)) else none
  | 0xDD => if sub n 2 8 = 0 then some (.cpyx m (fld n 16 6) (fld n 10 6) (bit n 1) (bit n 0)) else none
  | 0xDE => if sub n 0 10 = 0 then some (.cbmrd m (fld n 16 6) (fld n 10 6)) else none
  | 0xE0 => if sub n 4 6 = 0 ∧ sub n 16 6 = 0 then some (.gang m (fld n 10 6) (fld n 0 4)) else none
  | 0xE1 => if sub n 3 1 = 0 then some (.mma m (fld n 16 6) (fld n 10 6) (fld n 4 6) (fld n 0 3)) else if sub n 3 1 = 1 then some (.mmaz m (fld n 16 6) (fld n 10 6) (fld n 4 6) (fld n 0 3)) else none
  | 0xE2 => if sub n 3 7 = 0 then some (.accld m (fld n 16 6) (fld n 10 6) (fld n 0 3)) else none
  | 0xE3 => if sub n 3 7 = 0 then some (.accst m (fld n 16 6) (fld n 10 6) (fld n 0 3)) else none
  | 0xE4 => some (.accrd m (fld n 16 6) (fld n 10 6) (fld n 4 6) (fld n 0 4))
  | 0xE5 => if sub n 4 18 = 0 then some (.mburst m (fld n 0 4)) else none
  | 0xE6 => if sub n 0 16 = 0 then some (.mfree m (fld n 16 6)) else none
  | 0xE7 => if sub n 4 6 = 0 then some (.fcvt m (fld n 16 6) (fld n 10 6) (bit n 3) (fld n 0 3)) else none
  | 0xE8 => if sub n 2 2 = 0 then some (.tex m (fld n 16 6) (fld n 10 6) (fld n 4 6) (fld n 0 2)) else none
  | 0xE9 => if sub n 2 2 = 0 then some (.texg m (fld n 16 6) (fld n 10 6) (fld n 4 6) (fld n 0 2)) else none
  | 0xEC => if sub n 16 6 = 0 then some (.emitv m (fld n 10 6) (fld n 4 6) (fld n 0 4)) else none
  | 0xED => if sub n 0 4 = 0 ∧ sub n 16 6 = 0 then some (.emitp m (fld n 10 6) (fld n 4 6)) else none
  | 0xEE => some (.fbrd m (fld n 16 6) (fld n 10 6) (fld n 4 6) (fld n 0 4))
  | 0xEF => some (.fbwr m (fld n 16 6) (fld n 10 6) (fld n 4 6) (fld n 0 4))
  | 0xF0 => if sub n 0 10 = 0 then some (.tret m (fld n 16 6) (fld n 10 6)) else none
  | 0xF1 => if sub n 0 10 = 0 then some (.late m (fld n 16 6) (fld n 10 6)) else none
  | 0xF4 => if sub n 1 3 = 0 then some (.ray m (fld n 16 6) (fld n 10 6) (fld n 4 6) (bit n 0)) else none
  | 0xF5 => if sub n 1 3 = 0 then some (.rayq m (fld n 16 6) (fld n 10 6) (fld n 4 6) (bit n 0)) else none
  | 0xF6 => if sub n 4 6 = 0 ∧ sub n 17 5 = 0 then some (.rgrp m (bit n 16) (fld n 10 6) (fld n 0 4)) else none
  | 0xF8 => some (.egrs m (fld n 16 6) (fld n 10 6) (fld n 4 6) (fld n 0 4))
  | _ => none

/-- The opcodes that R50 assigns. -/
def opAssigned (op : Nat) : Bool :=
  (1 ≤ op && op ≤ 0x0E) || (0x20 ≤ op && op ≤ 0x3A) || (0x40 ≤ op && op ≤ 0x53) || (0x60 ≤ op && op ≤ 0x6C) ||
  (0x70 ≤ op && op ≤ 0x75) || (0x80 ≤ op && op ≤ 0x91) || (0xA0 ≤ op && op ≤ 0xA6) || (0xA8 ≤ op && op ≤ 0xBD) ||
  (0xC0 ≤ op && op ≤ 0xCE) || (0xD0 ≤ op && op ≤ 0xD3) || (0xD8 ≤ op && op ≤ 0xDE) || (0xE0 ≤ op && op ≤ 0xE9) ||
  (0xEC ≤ op && op ≤ 0xF1) || (0xF4 ≤ op && op ≤ 0xF6) || op == 0xF8

/-- The major opcode of a word (R34). -/
def opOf (w : Word) : Nat := w.toNat / 2 ^ 22 % 256

/-- Bits 31 and 30 of a word (R34). -/
def marksOf (w : Word) : Marks := ⟨Fields.bit w.toNat 31, Fields.bit w.toNat 30⟩

/-- Whether the instruction of this opcode takes an extension word that is an operand: LIT's literal word or
BRK's join word (R36, R39). -/
def takesExt (op : Nat) : Bool := op == 0x02 || op == 0x81

/-- Decode one word and, for LIT and BRK, the word after it. -/
def decodeWord (w ext : Word) : Except DecodeError Instr :=
  if opAssigned (opOf w) then
    match decodeFields (marksOf w) (opOf w) w.toNat ext with
    | some i => .ok i
    | none => .error .badField
  else .error .unassigned

/-- Decode the bytes at an instruction's address, giving the instruction and the bytes after it and its operand
extension word. Bytes that end too soon read as 0. -/
def decodeBytes (bs : List Byte) : Except DecodeError (Instr × List Byte) :=
  let w : Word := BitVec.ofNat 32 (ofBytes (bs.take 4))
  let ext : Word := BitVec.ofNat 32 (ofBytes ((bs.drop 4).take 4))
  match decodeWord w ext with
  | .ok i => .ok (i, bs.drop (if takesExt (opOf w) then 8 else 4))
  | .error e => .error e

/-- The bytes of a word in memory, little-endian (R33). -/
def wordBytes (w : Word) : List Byte := bytesOf w.toNat 4

/-- The instruction that the decoder reads from an instruction whose bits are `w` (the opcode table's numbering:
the first word in bits 31:0, an operand extension word above it); bits above `nbits` are 0. -/
def decodeTableWord (nbits w : Nat) : Option Instr :=
  match decodeBytes (bytesOf (w % 2 ^ nbits) 8) with
  | .ok (i, _) => some i
  | .error _ => none

/-- Bits 31 and 30 as a number (R34). -/
def marksBits (m : Marks) : Nat := m.s.toNat * 2147483648 + m.p.toNat * 1073741824

/-- Bits 29:0 of the first word of an instruction, and its operand extension word if it has one, from the
encoding tables (R34, R35, R50, R51, R52); none for the rows of the table that are no instruction words. -/
def encodeFields : Instr → Option (Marks × Nat × Option Word)
  | .lit m literal => some (m, 8388608, some literal)
  | .brk m n k i jw => some (m, 541065216 + n.toNat * 2097152 + k.toNat * 262144 + i.toNat, some jw)
  | .nop m => some (m, 4194304, none)
  | .setmImm m wm v => some (m, 12582912 + wm.toNat * 65536 + v.toNat * 1, none)
  | .setmReg m wm a => some (m, 16777216 + wm.toNat * 65536 + a.toNat * 1024, none)
  | .getm m d => some (m, 20971520 + d.toNat * 65536, none)
  | .mov m d a => some (m, 25165824 + d.toNat * 65536 + a.toNat * 1024, none)
  | .movi m d i => some (m, 29360128 + d.toNat * 65536 + i.toNat * 1, none)
  | .addi m d a i => some (m, 33554432 + d.toNat * 65536 + a.toNat * 1024 + i.toNat * 1, none)
  | .andi m d a i => some (m, 37748736 + d.toNat * 65536 + a.toNat * 1024 + i.toNat * 1, none)
  | .ori m d a i => some (m, 41943040 + d.toNat * 65536 + a.toNat * 1024 + i.toNat * 1, none)
  | .xori m d a i => some (m, 46137344 + d.toNat * 65536 + a.toNat * 1024 + i.toNat * 1, none)
  | .shli m d a i => some (m, 50331648 + d.toNat * 65536 + a.toNat * 1024 + i.toNat * 1, none)
  | .shri m d a i => some (m, 54525952 + d.toNat * 65536 + a.toNat * 1024 + i.toNat * 1, none)
  | .cmpi m c k a i => some (m, 58720256 + c.toNat * 524288 + k.toNat * 65536 + a.toNat * 1024 + i.toNat * 1, none)
  | .add m d a b => some (m, 134217728 + d.toNat * 65536 + a.toNat * 1024 + b.toNat * 16, none)
  | .sub m d a b => some (m, 138412032 + d.toNat * 65536 + a.toNat * 1024 + b.toNat * 16, none)
  | .mul m d a b => some (m, 142606336 + d.toNat * 65536 + a.toNat * 1024 + b.toNat * 16, none)
  | .mulh m d a b => some (m, 146800640 + d.toNat * 65536 + a.toNat * 1024 + b.toNat * 16, none)
  | .mad m d a b c => some (m, 150994944 + d.toNat * 65536 + a.toNat * 1024 + b.toNat * 16 + c.toNat * 1, none)
  | .div m d a b => some (m, 155189248 + d.toNat * 65536 + a.toNat * 1024 + b.toNat * 16, none)
  | .rem m d a b => some (m, 159383552 + d.toNat * 65536 + a.toNat * 1024 + b.toNat * 16, none)
  | .min m d a b => some (m, 163577856 + d.toNat * 65536 + a.toNat * 1024 + b.toNat * 16, none)
  | .max m d a b => some (m, 167772160 + d.toNat * 65536 + a.toNat * 1024 + b.toNat * 16, none)
  | .abs m d a => some (m, 171966464 + d.toNat * 65536 + a.toNat * 1024, none)
  | .neg m d a => some (m, 176160768 + d.toNat * 65536 + a.toNat * 1024, none)
  | .cmp m k a b c => some (m, 180355072 + k.toNat * 65536 + a.toNat * 1024 + b.toNat * 16 + c.toNat * 1, none)
  | .sel m d a b n k => some (m, 184549376 + d.toNat * 65536 + a.toNat * 1024 + b.toNat * 16 + n.toNat * 8 + k.toNat * 1, none)
  | .cvt m d a t => some (m, 188743680 + d.toNat * 65536 + a.toNat * 1024 + t.toNat * 1, none)
  | .sqrt m d a => some (m, 192937984 + d.toNat * 65536 + a.toNat * 1024, none)
  | .rcp m d a => some (m, 197132288 + d.toNat * 65536 + a.toNat * 1024, none)
  | .rsq m d a => some (m, 201326592 + d.toNat * 65536 + a.toNat * 1024, none)
  | .exp2 m d a => some (m, 205520896 + d.toNat * 65536 + a.toNat * 1024, none)
  | .log2 m d a => some (m, 209715200 + d.toNat * 65536 + a.toNat * 1024, none)
  | .sin m d a => some (m, 213909504 + d.toNat * 65536 + a.toNat * 1024, none)
  | .cos m d a => some (m, 218103808 + d.toNat * 65536 + a.toNat * 1024, none)
  | .flr m d a => some (m, 222298112 + d.toNat * 65536 + a.toNat * 1024, none)
  | .cel m d a => some (m, 226492416 + d.toNat * 65536 + a.toNat * 1024, none)
  | .rnd m d a => some (m, 230686720 + d.toNat * 65536 + a.toNat * 1024, none)
  | .frc m d a => some (m, 234881024 + d.toNat * 65536 + a.toNat * 1024, none)
  | .classOp m d a => some (m, 239075328 + d.toNat * 65536 + a.toNat * 1024, none)
  | .lea m d a b x => some (m, 243269632 + d.toNat * 65536 + a.toNat * 1024 + b.toNat * 16 + x.toNat * 1, none)
  | .and m d a b => some (m, 268435456 + d.toNat * 65536 + a.toNat * 1024 + b.toNat * 16, none)
  | .andn m d a b => some (m, 272629760 + d.toNat * 65536 + a.toNat * 1024 + b.toNat * 16, none)
  | .or m d a b => some (m, 276824064 + d.toNat * 65536 + a.toNat * 1024 + b.toNat * 16, none)
  | .xor m d a b => some (m, 281018368 + d.toNat * 65536 + a.toNat * 1024 + b.toNat * 16, none)
  | .shl m d a b => some (m, 285212672 + d.toNat * 65536 + a.toNat * 1024 + b.toNat * 16, none)
  | .shr m d a b => some (m, 289406976 + d.toNat * 65536 + a.toNat * 1024 + b.toNat * 16, none)
  | .sar m d a b => some (m, 293601280 + d.toNat * 65536 + a.toNat * 1024 + b.toNat * 16, none)
  | .rol m d a b => some (m, 297795584 + d.toNat * 65536 + a.toNat * 1024 + b.toNat * 16, none)
  | .fnl m d a b c => some (m, 301989888 + d.toNat * 65536 + a.toNat * 1024 + b.toNat * 16 + c.toNat * 1, none)
  | .fnr m d a b c => some (m, 306184192 + d.toNat * 65536 + a.toNat * 1024 + b.toNat * 16 + c.toNat * 1, none)
  | .bfx m d a b => some (m, 310378496 + d.toNat * 65536 + a.toNat * 1024 + b.toNat * 16, none)
  | .bfxs m d a b => some (m, 314572800 + d.toNat * 65536 + a.toNat * 1024 + b.toNat * 16, none)
  | .bfi m d a b c => some (m, 318767104 + d.toNat * 65536 + a.toNat * 1024 + b.toNat * 16 + c.toNat * 1, none)
  | .bfis m d a b c => some (m, 322961408 + d.toNat * 65536 + a.toNat * 1024 + b.toNat * 16 + c.toNat * 1, none)
  | .popc m d a => some (m, 327155712 + d.toNat * 65536 + a.toNat * 1024, none)
  | .clz m d a => some (m, 331350016 + d.toNat * 65536 + a.toNat * 1024, none)
  | .ctz m d a => some (m, 335544320 + d.toNat * 65536 + a.toNat * 1024, none)
  | .brev m d a => some (m, 339738624 + d.toNat * 65536 + a.toNat * 1024, none)
  | .pack2 m d a b => some (m, 343932928 + d.toNat * 65536 + a.toNat * 1024 + b.toNat * 16, none)
  | .unpk m d a x => some (m, 348127232 + d.toNat * 65536 + a.toNat * 1024 + x.toNat * 1, none)
  | .kand m k a b => some (m, 402653184 + k.toNat * 65536 + a.toNat * 1024 + b.toNat * 16, none)
  | .kor m k a b => some (m, 406847488 + k.toNat * 65536 + a.toNat * 1024 + b.toNat * 16, none)
  | .kxor m k a b => some (m, 411041792 + k.toNat * 65536 + a.toNat * 1024 + b.toNat * 16, none)
  | .knot m k a => some (m, 415236096 + k.toNat * 65536 + a.toNat * 1024, none)
  | .kmov m k a => some (m, 419430400 + k.toNat * 65536 + a.toNat * 1024, none)
  | .vote m d a => some (m, 423624704 + d.toNat * 65536 + a.toNat * 1024, none)
  | .kany m k a => some (m, 427819008 + k.toNat * 65536 + a.toNat * 1024, none)
  | .kall m k a => some (m, 432013312 + k.toNat * 65536 + a.toNat * 1024, none)
  | .xrot m d a b => some (m, 436207616 + d.toNat * 65536 + a.toNat * 1024 + b.toNat * 16, none)
  | .xxor m d a b => some (m, 440401920 + d.toNat * 65536 + a.toNat * 1024 + b.toNat * 16, none)
  | .xbc m d a b => some (m, 444596224 + d.toNat * 65536 + a.toNat * 1024 + b.toNat * 16, none)
  | .xred m d a x => some (m, 448790528 + d.toNat * 65536 + a.toNat * 1024 + x.toNat * 1, none)
  | .xscan m d a e x => some (m, 452984832 + d.toNat * 65536 + a.toNat * 1024 + e.toNat * 8 + x.toNat * 1, none)
  | .qswpx m d a => some (m, 469762048 + d.toNat * 65536 + a.toNat * 1024, none)
  | .qswpy m d a => some (m, 473956352 + d.toNat * 65536 + a.toNat * 1024, none)
  | .qswpd m d a => some (m, 478150656 + d.toNat * 65536 + a.toNat * 1024, none)
  | .qbcst m d a x => some (m, 482344960 + d.toNat * 65536 + a.toNat * 1024 + x.toNat * 1, none)
  | .ddx m d a x => some (m, 486539264 + d.toNat * 65536 + a.toNat * 1024 + x.toNat * 1, none)
  | .ddy m d a x => some (m, 490733568 + d.toNat * 65536 + a.toNat * 1024 + x.toNat * 1, none)
  | .bra m n k i => some (m, 536870912 + n.toNat * 2097152 + k.toNat * 262144 + i.toNat * 1, none)
  | .join m => some (m, 545259520, none)
  | .call m n k i => some (m, 549453824 + n.toNat * 2097152 + k.toNat * 262144 + i.toNat * 1, none)
  | .ret m => some (m, 553648128, none)
  | .jmpi m a => some (m, 557842432 + a.toNat * 1024, none)
  | .yield m => some (m, 562036736, none)
  | .exit m => some (m, 566231040, none)
  | .grow m x => some (m, 570425344 + x.toNat * 1, none)
  | .trap m i => some (m, 574619648 + i.toNat * 1, none)
  | .mfs m d i => some (m, 578813952 + d.toNat * 65536 + i.toNat * 1, none)
  | .mts m a i => some (m, 583008256 + a.toNat * 1024 + i.toNat * 1, none)
  | .eret m => some (m, 587202560, none)
  | .halt m => some (m, 591396864, none)
  | .cinv m a b x => some (m, 595591168 + a.toNat * 1024 + b.toNat * 16 + x.toNat * 1, none)
  | .cwb m a b x => some (m, 599785472 + a.toNat * 1024 + b.toNat * 16 + x.toNat * 1, none)
  | .tlbi m a b x => some (m, 603979776 + a.toNat * 1024 + b.toNat * 16 + x.toNat * 1, none)
  | .rgrel m a => some (m, 608174080 + a.toNat * 1024, none)
  | .ld8 m d a i => some (m, 671088640 + d.toNat * 65536 + a.toNat * 1024 + i.toNat * 1, none)
  | .ld8s m d a i => some (m, 675282944 + d.toNat * 65536 + a.toNat * 1024 + i.toNat * 1, none)
  | .ld16 m d a i => some (m, 679477248 + d.toNat * 65536 + a.toNat * 1024 + i.toNat * 1, none)
  | .ld16s m d a i => some (m, 683671552 + d.toNat * 65536 + a.toNat * 1024 + i.toNat * 1, none)
  | .ld32 m d a i => some (m, 687865856 + d.toNat * 65536 + a.toNat * 1024 + i.toNat * 1, none)
  | .ld64 m d a i => some (m, 692060160 + d.toNat * 65536 + a.toNat * 1024 + i.toNat * 1, none)
  | .ld128 m d a i => some (m, 696254464 + d.toNat * 65536 + a.toNat * 1024 + i.toNat * 1, none)
  | .st8 m d a i => some (m, 704643072 + d.toNat * 65536 + a.toNat * 1024 + i.toNat * 1, none)
  | .st16 m d a i => some (m, 708837376 + d.toNat * 65536 + a.toNat * 1024 + i.toNat * 1, none)
  | .st32 m d a i => some (m, 713031680 + d.toNat * 65536 + a.toNat * 1024 + i.toNat * 1, none)
  | .st64 m d a i => some (m, 717225984 + d.toNat * 65536 + a.toNat * 1024 + i.toNat * 1, none)
  | .st128 m d a i => some (m, 721420288 + d.toNat * 65536 + a.toNat * 1024 + i.toNat * 1, none)
  | .ldacq m d a b x => some (m, 725614592 + d.toNat * 65536 + a.toNat * 1024 + b.toNat * 16 + x.toNat * 1, none)
  | .strel m d a b x => some (m, 729808896 + d.toNat * 65536 + a.toNat * 1024 + b.toNat * 16 + x.toNat * 1, none)
  | .fence m b x => some (m, 734003200 + b.toNat * 16 + x.toNat * 1, none)
  | .acvt m d a x => some (m, 738197504 + d.toNat * 65536 + a.toNat * 1024 + x.toNat * 1, none)
  | .atst m k a x => some (m, 742391808 + k.toNat * 65536 + a.toNat * 1024 + x.toNat * 1, none)
  | .aadd m d a b => some (m, 746586112 + d.toNat * 65536 + a.toNat * 1024 + b.toNat * 16, none)
  | .amin m d a b => some (m, 746586113 + d.toNat * 65536 + a.toNat * 1024 + b.toNat * 16, none)
  | .aminU m d a b => some (m, 746586114 + d.toNat * 65536 + a.toNat * 1024 + b.toNat * 16, none)
  | .amax m d a b => some (m, 746586115 + d.toNat * 65536 + a.toNat * 1024 + b.toNat * 16, none)
  | .amaxU m d a b => some (m, 746586116 + d.toNat * 65536 + a.toNat * 1024 + b.toNat * 16, none)
  | .aand m d a b => some (m, 746586117 + d.toNat * 65536 + a.toNat * 1024 + b.toNat * 16, none)
  | .aor m d a b => some (m, 746586118 + d.toNat * 65536 + a.toNat * 1024 + b.toNat * 16, none)
  | .axor m d a b => some (m, 746586119 + d.toNat * 65536 + a.toNat * 1024 + b.toNat * 16, none)
  | .axch m d a b => some (m, 746586120 + d.toNat * 65536 + a.toNat * 1024 + b.toNat * 16, none)
  | .amax64 m d a b => some (m, 746586121 + d.toNat * 65536 + a.toNat * 1024 + b.toNat * 16, none)
  | .acas m d a b c => some (m, 750780416 + d.toNat * 65536 + a.toNat * 1024 + b.toNat * 16 + c.toNat * 1, none)
  | .bari m a i => some (m, 754974720 + a.toNat * 1024 + i.toNat * 1, none)
  | .bara m i => some (m, 759169024 + i.toNat * 1, none)
  | .barw m i => some (m, 763363328 + i.toNat * 1, none)
  | .barx m a i => some (m, 767557632 + a.toNat * 1024 + i.toNat * 1, none)
  | .srpost m a q => some (m, 771751936 + a.toNat * 1024 + q.toNat * 1, none)
  | .srtake m d q => some (m, 775946240 + d.toNat * 65536 + q.toNat * 1, none)
  | .srwait m q => some (m, 780140544 + q.toNat * 1, none)
  | .waitc m a b c => some (m, 784334848 + a.toNat * 1024 + b.toNat * 16 + c.toNat * 1, none)
  | .tlwait m a b x => some (m, 788529152 + a.toNat * 1024 + b.toNat * 16 + x.toNat * 1, none)
  | .tlread m d b x => some (m, 792723456 + d.toNat * 65536 + b.toNat * 16 + x.toNat * 1, none)
  | .madd m d a b n z => some (m, 805306368 + d.toNat * 65536 + a.toNat * 1024 + b.toNat * 16 + n.toNat * 8 + z.toNat * 1, none)
  | .mmin m d a b n u z => some (m, 809500672 + d.toNat * 65536 + a.toNat * 1024 + b.toNat * 16 + n.toNat * 8 + u.toNat * 4 + z.toNat * 1, none)
  | .mmax m d a b n u z => some (m, 813694976 + d.toNat * 65536 + a.toNat * 1024 + b.toNat * 16 + n.toNat * 8 + u.toNat * 4 + z.toNat * 1, none)
  | .mand m d a b n z => some (m, 817889280 + d.toNat * 65536 + a.toNat * 1024 + b.toNat * 16 + n.toNat * 8 + z.toNat * 1, none)
  | .mor m d a b n z => some (m, 822083584 + d.toNat * 65536 + a.toNat * 1024 + b.toNat * 16 + n.toNat * 8 + z.toNat * 1, none)
  | .mxor m d a b n z => some (m, 826277888 + d.toNat * 65536 + a.toNat * 1024 + b.toNat * 16 + n.toNat * 8 + z.toNat * 1, none)
  | .mxch m d a b n z => some (m, 830472192 + d.toNat * 65536 + a.toNat * 1024 + b.toNat * 16 + n.toNat * 8 + z.toNat * 1, none)
  | .mcas m d a b c => some (m, 834666496 + d.toNat * 65536 + a.toNat * 1024 + b.toNat * 16 + c.toNat * 1, none)
  | .mfcs m d a => some (m, 838860800 + d.toNat * 65536 + a.toNat * 1024, none)
  | .mbim m d a b c => some (m, 843055104 + d.toNat * 65536 + a.toNat * 1024 + b.toNat * 16 + c.toNat * 1, none)
  | .mpls m d a b c => some (m, 847249408 + d.toNat * 65536 + a.toNat * 1024 + b.toNat * 16 + c.toNat * 1, none)
  | .mcas64 m d a b c => some (m, 851443712 + d.toNat * 65536 + a.toNat * 1024 + b.toNat * 16 + c.toNat * 1, none)
  | .qenq m d a b => some (m, 855638016 + d.toNat * 65536 + a.toNat * 1024 + b.toNat * 16, none)
  | .qdeq m d a b => some (m, 859832320 + d.toNat * 65536 + a.toNat * 1024 + b.toNat * 16, none)
  | .qpost m d a b f => some (m, 864026624 + d.toNat * 65536 + a.toNat * 1024 + b.toNat * 16 + f.toNat * 1, none)
  | .tkget m d a b => some (m, 872415232 + d.toNat * 65536 + a.toNat * 1024 + b.toNat * 16, none)
  | .tkdone m d a => some (m, 876609536 + d.toNat * 65536 + a.toNat * 1024, none)
  | .tkarm m d a b x => some (m, 880803840 + d.toNat * 65536 + a.toNat * 1024 + b.toNat * 16 + x.toNat * 1, none)
  | .tkpost m d a n => some (m, 884998144 + d.toNat * 65536 + a.toNat * 1024 + n.toNat * 1, none)
  | .cpy m d a x => some (m, 905969664 + d.toNat * 65536 + a.toNat * 1024 + x.toNat * 1, none)
  | .cpym m d a x => some (m, 910163968 + d.toNat * 65536 + a.toNat * 1024 + x.toNat * 1, none)
  | .cpys m d a x => some (m, 914358272 + d.toNat * 65536 + a.toNat * 1024 + x.toNat * 1, none)
  | .cpyt m d a x => some (m, 918552576 + d.toNat * 65536 + a.toNat * 1024 + x.toNat * 1, none)
  | .cpyg m d a f x => some (m, 922746880 + d.toNat * 65536 + a.toNat * 1024 + f.toNat * 2 + x.toNat * 1, none)
  | .cpyx m d a f x => some (m, 926941184 + d.toNat * 65536 + a.toNat * 1024 + f.toNat * 2 + x.toNat * 1, none)
  | .cbmrd m d a => some (m, 931135488 + d.toNat * 65536 + a.toNat * 1024, none)
  | .gang m a x => some (m, 939524096 + a.toNat * 1024 + x.toNat * 1, none)
  | .mma m t a b x => some (m, 943718400 + t.toNat * 65536 + a.toNat * 1024 + b.toNat * 16 + x.toNat * 1, none)
  | .mmaz m t a b x => some (m, 943718408 + t.toNat * 65536 + a.toNat * 1024 + b.toNat * 16 + x.toNat * 1, none)
  | .accld m t a x => some (m, 947912704 + t.toNat * 65536 + a.toNat * 1024 + x.toNat * 1, none)
  | .accst m t a x => some (m, 952107008 + t.toNat * 65536 + a.toNat * 1024 + x.toNat * 1, none)
  | .accrd m d t w x => some (m, 956301312 + d.toNat * 65536 + t.toNat * 1024 + w.toNat * 16 + x.toNat * 1, none)
  | .mburst m x => some (m, 960495616 + x.toNat * 1, none)
  | .mfree m t => some (m, 964689920 + t.toNat * 65536, none)
  | .fcvt m d a r x => some (m, 968884224 + d.toNat * 65536 + a.toNat * 1024 + r.toNat * 8 + x.toNat * 1, none)
  | .tex m d a b x => some (m, 973078528 + d.toNat * 65536 + a.toNat * 1024 + b.toNat * 16 + x.toNat * 1, none)
  | .texg m d a b x => some (m, 977272832 + d.toNat * 65536 + a.toNat * 1024 + b.toNat * 16 + x.toNat * 1, none)
  | .emitv m a b x => some (m, 989855744 + a.toNat * 1024 + b.toNat * 16 + x.toNat * 1, none)
  | .emitp m a b => some (m, 994050048 + a.toNat * 1024 + b.toNat * 16, none)
  | .fbrd m d a b x => some (m, 998244352 + d.toNat * 65536 + a.toNat * 1024 + b.toNat * 16 + x.toNat * 1, none)
  | .fbwr m d a b x => some (m, 1002438656 + d.toNat * 65536 + a.toNat * 1024 + b.toNat * 16 + x.toNat * 1, none)
  | .tret m d a => some (m, 1006632960 + d.toNat * 65536 + a.toNat * 1024, none)
  | .late m d a => some (m, 1010827264 + d.toNat * 65536 + a.toNat * 1024, none)
  | .ray m d a b x => some (m, 1023410176 + d.toNat * 65536 + a.toNat * 1024 + b.toNat * 16 + x.toNat * 1, none)
  | .rayq m d a b x => some (m, 1027604480 + d.toNat * 65536 + a.toNat * 1024 + b.toNat * 16 + x.toNat * 1, none)
  | .rgrp m f a x => some (m, 1031798784 + f.toNat * 65536 + a.toNat * 1024 + x.toNat * 1, none)
  | .egrs m d a b x => some (m, 1040187392 + d.toNat * 65536 + a.toNat * 1024 + b.toNat * 16 + x.toNat * 1, none)
  | .longLatencyResultReturn _ => none
  | .farAtomicPerform _ => none
  | .requestCombine _ _ => none
  | .combiningStageExit _ => none
  | .replySplit _ => none
  | .homeFaultReplay _ => none
  | .pageWalkComplete _ _ _ => none
  | .shootdownComplete _ => none
  | .waitcWatchFire _ _ => none
  | .waitcPoll _ _ => none
  | .growGrant _ => none
  | .ldcapWindowEnd _ => none
  | .preemptRequest _ => none
  | .teamSave _ => none
  | .preemptTimeout _ => none
  | .teamResume _ => none
  | .harvestRevoke _ => none
  | .harvestResume _ => none
  | .firmwareTrapResume _ => none
  | .groupRestart _ => none
  | .taskFaultRepost _ => none
  | .accOwnerSpill _ => none
  | .wakeEvent _ => none
  | .queueNotify _ => none
  | .packetSlotWatch _ => none
  | .scannerRescan _ => none
  | .nopPacket _ => none
  | .dispatch _ => none
  | .frame _ => none
  | .barrierAnd _ => none
  | .barrierAndSatisfied _ => none
  | .indirect _ => none
  | .timelineWait _ => none
  | .timelineWaitSatisfied _ => none
  | .taskPool _ => none
  | .gaze _ => none
  | .cacheClass _ => none
  | .teamPlace _ => none
  | .launchComplete _ => none
  | .contextTeardown _ => none
  | .tkgetWake _ _ => none
  | .taskEnqueueRetry _ => none
  | .beaterBatch _ _ => none
  | .beaterAgeTimeout _ _ => none
  | .copyPieceDelivery _ _ _ => none
  | .copyOpComplete _ _ => none
  | .engineFault _ => none
  | .engineFaultResume _ => none
  | .gangOpComplete _ _ => none
  | .arrayIdleRampdown _ _ => none
  | .mburstHoldExpiry _ _ => none
  | .stripLatch _ _ _ => none
  | .amplifierProject _ _ => none
  | .rasteriseTriangle _ _ _ _ => none
  | .stripEndEntries _ _ => none
  | .tileAreaOpen _ _ _ => none
  | .fbwrRetire _ _ _ => none
  | .tretComplete _ => none
  | .samplerOpComplete _ _ => none
  | .rayOpComplete _ _ => none
  | .egressArrival _ _ _ => none
  | .deadlineRule _ _ _ => none
  | .frameComplete _ => none
  | .linkTrain _ _ _ _ => none
  | .hostMemoryWrite _ _ => none
  | .hostMemoryRead _ _ => none
  | .eqdropRead => none
  | .hostRegisterWrite _ _ => none
  | .eventQueuedWrite => none
  | .eventTake _ => none
  | .bootGo => none
  | .bootFetchComplete _ => none
  | .createContext => none
  | .destroyContext => none
  | .createQueue => none
  | .destroyQueue => none
  | .enableQueue => none
  | .faultReply => none
  | .invalidate => none
  | .attest => none
  | .reset => none
  | .powerWindowEnd _ _ _ => none
  | .thermalSample _ _ => none
  | .notAnInstruction _ => none
  | .instructionFetchFault _ => none
  | .unknownPacketOpcode _ => none
  | .unknownMailboxOp => none
  | .requestFromAnotherModule _ => none
  | .remoteHomeInvalidation _ _ => none

/-- The words of an instruction in memory order (without the live mask word that P adds, which is no operand). -/
def encode (i : Instr) : List Word :=
  match encodeFields i with
  | some (m, bits, ext) => BitVec.ofNat 32 (marksBits m + bits) :: ext.toList
  | none => []

end Sys2Proof
end

