-- ==== Sys2Proof/Machine/Exact.lean ====
section
/-! DEFINITION. Exact arithmetic and IEEE rounding (R110, R111, R347, R352): fractions of integers, floating
values, one rounding. Every operation is computed exactly and rounded once. -/

namespace Sys2Proof.Machine

/-! ## Fractions -/

/-- The exact rational `num / den`; `den` is positive in every use. -/
structure Frac where
  num : Int
  den : Nat
  deriving DecidableEq, Repr

namespace Frac

def ofInt (z : Int) : Frac := ⟨z, 1⟩
def add (a b : Frac) : Frac := if a.den = b.den then ⟨a.num + b.num, a.den⟩ else ⟨a.num * b.den + b.num * a.den, a.den * b.den⟩
def neg (a : Frac) : Frac := ⟨-a.num, a.den⟩
def sub (a b : Frac) : Frac := a.add b.neg
def mul (a b : Frac) : Frac := ⟨a.num * b.num, a.den * b.den⟩
/-- `a / b` for `b ≠ 0`. -/
def div (a b : Frac) : Frac := if b.num < 0 then ⟨-(a.num * b.den), a.den * b.num.natAbs⟩ else ⟨a.num * b.den, a.den * b.num.natAbs⟩
/-- `a × 2^k`. -/
def shift (a : Frac) (k : Int) : Frac := if 0 ≤ k then ⟨a.num * 2 ^ k.toNat, a.den⟩ else ⟨a.num, a.den * 2 ^ (-k).toNat⟩
def lt (a b : Frac) : Bool := a.num * b.den < b.num * a.den
def le (a b : Frac) : Bool := a.num * b.den ≤ b.num * a.den
def beq (a b : Frac) : Bool := a.num * b.den = b.num * a.den
def isZero (a : Frac) : Bool := a.num = 0
def abs (a : Frac) : Frac := ⟨(a.num.natAbs : Int), a.den⟩
def max (a b : Frac) : Frac := if a.lt b then b else a
def min (a b : Frac) : Frac := if b.lt a then b else a
/-- The largest integer not above `a`. -/
def floor (a : Frac) : Int := a.num / (a.den : Int)
def ceil (a : Frac) : Int := -(a.neg.floor)
/-- Truncation toward zero. -/
def trunc (a : Frac) : Int := if 0 ≤ a.num then a.floor else a.ceil
def sum (l : List Frac) : Frac := l.foldl add ⟨0, 1⟩

end Frac

/-! ## Rounding -/

/-- The largest exponent e with 2^e ≤ p / q, for positive p and q. -/
def floorLog2 (p q : Nat) : Int :=
  let e : Int := (Nat.log2 p : Int) - (Nat.log2 q : Int)
  let below : Bool := if 0 ≤ e then p < q * 2 ^ e.toNat else p * 2 ^ (-e).toNat < q
  if below then e - 1 else e

/-- The magnitude num / den rounded to an integer: 0 RNE, 1 RTZ, 2 RDN, 3 RUP, 4 RNA, for a value of this sign. -/
def roundMag (rm : Nat) (neg : Bool) (num den : Nat) : Nat :=
  let q := num / den
  let r := num % den
  let up : Bool :=
    match rm with
    | 0 => den < 2 * r || (2 * r = den && q % 2 = 1)
    | 1 => false
    | 2 => neg && 0 < r
    | 3 => !neg && 0 < r
    | _ => den ≤ 2 * r
  if up then q + 1 else q

/-- `x` rounded to an integer under `rm`. -/
def roundInt (rm : Nat) (x : Frac) : Int :=
  if x.num < 0 then -(roundMag rm true x.num.natAbs x.den : Int) else roundMag rm false x.num.natAbs x.den

/-- A binary floating format (R110, R347): exponent bits, fraction bits, bias, whether E all ones means infinities and
NaN, whether E and M all ones is the one NaN. -/
structure FFmt where
  e : Nat
  m : Nat
  bias : Nat
  ieee : Bool
  oneNan : Bool
  deriving DecidableEq, Repr

def f64 : FFmt := ⟨11, 52, 1023, true, false⟩
def f32 : FFmt := ⟨8, 23, 127, true, false⟩
def f16 : FFmt := ⟨5, 10, 15, true, false⟩
def bf16 : FFmt := ⟨8, 7, 127, true, false⟩

namespace FFmt

def width (f : FFmt) : Nat := 1 + f.e + f.m
/-- The magnitude code of the largest finite value. -/
def maxCode (f : FFmt) : Nat :=
  if f.ieee then (2 ^ f.e - 1) * 2 ^ f.m - 1 else if f.oneNan then 2 ^ (f.e + f.m) - 2 else 2 ^ (f.e + f.m) - 1
/-- The magnitude code of infinity. -/
def infCode (f : FFmt) : Nat := (2 ^ f.e - 1) * 2 ^ f.m
def signBit (f : FFmt) (neg : Bool) : Nat := if neg then 2 ^ (f.e + f.m) else 0
/-- Whether the format has NaN codes. -/
def hasNan (f : FFmt) : Bool := f.ieee || f.oneNan
/-- The default NaN (R111, R347). -/
def nan (f : FFmt) : Nat := if f.ieee then f.infCode + 2 ^ (f.m - 1) else 2 ^ (f.e + f.m) - 1
def emin (f : FFmt) : Int := 1 - (f.bias : Int)

end FFmt

/-- The value of a floating code. -/
inductive FVal where
  | nan (neg signalling : Bool)
  | inf (neg : Bool)
  | zero (neg : Bool)
  | fin (x : Frac)
  deriving DecidableEq, Repr

/-- The exact value of a code (R110, R347). -/
def decodeF (f : FFmt) (c : Nat) : FVal :=
  let neg : Bool := c / 2 ^ (f.e + f.m) % 2 = 1
  let mag := c % 2 ^ (f.e + f.m)
  let ex := mag / 2 ^ f.m
  let fr := mag % 2 ^ f.m
  if f.ieee && ex = 2 ^ f.e - 1 then
    if fr = 0 then .inf neg else .nan neg (fr / 2 ^ (f.m - 1) = 0)
  else if f.oneNan && mag = 2 ^ (f.e + f.m) - 1 then .nan neg false
  else if mag = 0 then .zero neg
  else
    let sig : Nat := if ex = 0 then fr else 2 ^ f.m + fr
    let p : Int := (if ex = 0 then 1 else (ex : Int)) - f.bias - f.m
    .fin ((Frac.ofInt (if neg then -(sig : Int) else sig)).shift p)

/-- The value of a code that is not NaN or infinite, as a fraction. -/
def FVal.frac : FVal → Frac
  | .fin x => x
  | _ => ⟨0, 1⟩

def FVal.isNan : FVal → Bool
  | .nan _ _ => true
  | _ => false

def FVal.isSnan : FVal → Bool
  | .nan _ s => s
  | _ => false

def FVal.isNeg : FVal → Bool
  | .nan n _ => n
  | .inf n => n
  | .zero n => n
  | .fin x => x.num < 0

def FVal.isInf : FVal → Bool
  | .inf _ => true
  | _ => false

def FVal.isZero : FVal → Bool
  | .zero _ => true
  | _ => false

/-- The event bits of R112: NaN, infinity, overflow, underflow; and of R113: divide by zero, range. -/
def evNan : Nat := 1
def evInf : Nat := 2
def evOver : Nat := 4
def evUnder : Nat := 8
def evDiv0 : Nat := 16
def evRange : Nat := 32

/-- Round a non-zero magnitude p / q into the format with no bound on the exponent above: the magnitude code, which
lies past `maxCode` on overflow; whether it was inexact. -/
def roundCode (f : FFmt) (rm : Nat) (neg : Bool) (p q : Nat) : Nat × Bool :=
  let e := floorLog2 p q
  let qe : Int := max e f.emin - f.m
  let num := if 0 ≤ qe then p else p * 2 ^ (-qe).toNat
  let den := if 0 ≤ qe then q * 2 ^ qe.toNat else q
  let n := roundMag rm neg num den
  let code : Int := if e < f.emin then n else (qe + f.m + f.bias - 1) * 2 ^ f.m + n
  (code.toNat, num % den ≠ 0)

/-- Whether the value rounded to the format's precision with an unbounded exponent lies below the smallest normal
magnitude: tininess after rounding (R110). -/
def tinyAfter (f : FFmt) (rm : Nat) (neg : Bool) (p q : Nat) : Bool :=
  let e := floorLog2 p q
  if f.emin ≤ e then false
  else
    let qe : Int := e - f.m
    let num := if 0 ≤ qe then p else p * 2 ^ (-qe).toNat
    let den := if 0 ≤ qe then q * 2 ^ qe.toNat else q
    !(roundMag rm neg num den = 2 ^ (f.m + 1) && e + 1 = f.emin)

/-- The IEEE result of an overflow (R110): infinity or the largest finite value. -/
def overflowCode (f : FFmt) (rm : Nat) (neg : Bool) : Nat :=
  let toInf : Bool := match rm with
    | 0 => true
    | 1 => false
    | 2 => neg
    | 3 => !neg
    | _ => true
  f.signBit neg + (if toInf then f.infCode else f.maxCode)

/-- `round_to` for a non-zero exact value (R72, R110): the code and the events. -/
def roundTo (f : FFmt) (rm : Nat) (x : Frac) : Nat × Nat :=
  let neg : Bool := x.num < 0
  let (c, inexact) := roundCode f rm neg x.num.natAbs x.den
  if f.maxCode < c then (overflowCode f rm neg, evOver)
  else (f.signBit neg + c, if inexact && tinyAfter f rm neg x.num.natAbs x.den then evUnder else 0)

/-- `round_to`, where an exact zero takes the sign given. -/
def roundZ (f : FFmt) (rm : Nat) (zeroNeg : Bool) (x : Frac) : Nat × Nat :=
  if x.num = 0 then (f.signBit zeroNeg, 0) else roundTo f rm x

/-! ## NaN results (R111) -/

/-- A NaN code with its quiet bit set. -/
def quiet (f : FFmt) (c : Nat) : Nat := if c / 2 ^ (f.m - 1) % 2 = 1 then c else c + 2 ^ (f.m - 1)

/-- The result when an operand is a NaN: the first NaN, quieted; and the NaN event if an operand signals. -/
def nanOf (f : FFmt) (cs : List Nat) : Option (Nat × Nat) :=
  match cs.find? (fun c => (decodeF f c).isNan) with
  | some c => some (quiet f c, if cs.any (fun c => (decodeF f c).isSnan) then evNan else 0)
  | none => none

/-! ## Operations (R125, R126, R127, R132) -/

/-- a × b + c, rounded once (R126). -/
def fMad (f : FFmt) (rm a b c : Nat) : Nat × Nat :=
  let va := decodeF f a
  let vb := decodeF f b
  let vc := decodeF f c
  let pneg := va.isNeg != vb.isNeg
  let invalid := (va.isInf && vb.isZero) || (va.isZero && vb.isInf)
  match nanOf f [a, b, c] with
  | some (r, ev) => (r, if invalid then evNan else ev)
  | none =>
    if invalid then (f.nan, evNan)
    else if va.isInf || vb.isInf then
      if vc.isInf && vc.isNeg != pneg then (f.nan, evNan) else (f.signBit pneg + f.infCode, 0)
    else if vc.isInf then (c, 0)
    else
      let x := (va.frac.mul vb.frac).add vc.frac
      let pz := va.isZero || vb.isZero
      let zneg := if pz && vc.isZero && pneg = vc.isNeg then pneg else rm = 2
      roundZ f rm zneg x

/-- a + b. -/
def fAdd (f : FFmt) (rm a b : Nat) : Nat × Nat :=
  let va := decodeF f a
  let vb := decodeF f b
  match nanOf f [a, b] with
  | some r => r
  | none =>
    if va.isInf && vb.isInf && va.isNeg != vb.isNeg then (f.nan, evNan)
    else if va.isInf then (a, 0)
    else if vb.isInf then (b, 0)
    else
      let zneg := if va.isZero && vb.isZero && va.isNeg = vb.isNeg then va.isNeg else rm = 2
      roundZ f rm zneg (va.frac.add vb.frac)

/-- The sign bit inverted (R128). -/
def fNeg (f : FFmt) (a : Nat) : Nat := if a / 2 ^ (f.e + f.m) % 2 = 1 then a - 2 ^ (f.e + f.m) else a + 2 ^ (f.e + f.m)
/-- The sign bit cleared (R128). -/
def fAbs (f : FFmt) (a : Nat) : Nat := a % 2 ^ (f.e + f.m)

/-- a − b; a NaN operand is delivered as R111 says, with its own sign. -/
def fSub (f : FFmt) (rm a b : Nat) : Nat × Nat :=
  match nanOf f [a, b] with
  | some r => r
  | none => fAdd f rm a (fNeg f b)

/-- a × b. -/
def fMul (f : FFmt) (rm a b : Nat) : Nat × Nat :=
  let va := decodeF f a
  let vb := decodeF f b
  let neg := va.isNeg != vb.isNeg
  match nanOf f [a, b] with
  | some r => r
  | none =>
    if (va.isInf && vb.isZero) || (va.isZero && vb.isInf) then (f.nan, evNan)
    else if va.isInf || vb.isInf then (f.signBit neg + f.infCode, 0)
    else roundZ f rm neg (va.frac.mul vb.frac)

/-- a ÷ b (R127). -/
def fDiv (f : FFmt) (rm a b : Nat) : Nat × Nat :=
  let va := decodeF f a
  let vb := decodeF f b
  let neg := va.isNeg != vb.isNeg
  match nanOf f [a, b] with
  | some r => r
  | none =>
    if (va.isInf && vb.isInf) || (va.isZero && vb.isZero) then (f.nan, evNan)
    else if va.isInf then (f.signBit neg + f.infCode, 0)
    else if vb.isInf then (f.signBit neg, 0)
    else if vb.isZero then (f.signBit neg + f.infCode, evInf)
    else roundZ f rm neg (va.frac.div vb.frac)

/-- a − b × trunc(a ÷ b) (R127). -/
def fRem (f : FFmt) (a b : Nat) : Nat × Nat :=
  let va := decodeF f a
  let vb := decodeF f b
  match nanOf f [a, b] with
  | some r => r
  | none =>
    if va.isInf || vb.isZero then (f.nan, evNan)
    else if vb.isInf || va.isZero then (a, 0)
    else roundZ f 0 va.isNeg (va.frac.sub (vb.frac.mul (Frac.ofInt (va.frac.div vb.frac).trunc)))

/-- Whether a < b, for codes that are not NaN; −0 equals +0. -/
def fLt (f : FFmt) (a b : Nat) : Bool :=
  match decodeF f a, decodeF f b with
  | .inf n, .inf m => n && !m
  | .inf n, _ => n
  | _, .inf m => !m
  | va, vb => va.frac.lt vb.frac

/-- Whether a = b, for codes that are not NaN; −0 equals +0. -/
def fEq (f : FFmt) (a b : Nat) : Bool :=
  match decodeF f a, decodeF f b with
  | .inf n, .inf m => n = m
  | .inf _, _ => false
  | _, .inf _ => false
  | va, vb => va.frac.beq vb.frac

/-- minimumNumber and maximumNumber (R125): a NaN operand is ignored, −0 < +0, an sNaN raises the NaN event. -/
def fMinMax (f : FFmt) (isMax : Bool) (a b : Nat) : Nat × Nat :=
  let va := decodeF f a
  let vb := decodeF f b
  let ev := if va.isSnan || vb.isSnan then evNan else 0
  if va.isNan && vb.isNan then (quiet f a, ev)
  else if va.isNan then (b, ev)
  else if vb.isNan then (a, ev)
  else if fEq f a b then (if va.isNeg = isMax then b else a, ev)
  else (if fLt f a b = isMax then b else a, ev)

/-- Bit-by-bit integer square root with `fuel` bits. -/
def isqrtAux (n : Nat) : Nat → Nat → Nat
  | 0, r => r
  | k + 1, r => let t := r + 2 ^ k; isqrtAux n k (if t * t ≤ n then t else r)

/-- The integer square root of `n`. -/
def isqrt (n : Nat) : Nat := isqrtAux n (Nat.log2 n / 2 + 1) 0

/-- A fraction that rounds as the square root of p / q does to any precision of at most `bits` bits: the root
truncated far below, with a half unit added when it is not exact. -/
def sqrtFrac (p q bits : Nat) : Frac :=
  let e := floorLog2 p q
  let k : Int := 2 * (bits : Int) + 4 - e + e % 2
  let x := (Frac.mk p q).shift k
  let n := x.floor.toNat
  let r := isqrt n
  let exact : Bool := r * r = n && x.num = (n : Int) * x.den
  (Frac.mk (if exact then 2 * r else 2 * r + 1) 2).shift (-(k / 2))

/-- √a (R132, R133). -/
def fSqrt (f : FFmt) (rm a : Nat) : Nat × Nat :=
  match nanOf f [a] with
  | some r => r
  | none =>
    match decodeF f a with
    | .zero _ => (a, 0)
    | .inf false => (a, 0)
    | .fin x => if x.num < 0 then (f.nan, evNan) else roundTo f rm (sqrtFrac x.num.natAbs x.den (f.m + 4))
    | _ => (f.nan, evNan)

/-- Round to an integral value in the same format (R134). -/
def fIntegral (f : FFmt) (rm a : Nat) : Nat × Nat :=
  match nanOf f [a] with
  | some r => r
  | none =>
    match decodeF f a with
    | .fin x => (((roundZ f 0 (x.num < 0) (Frac.ofInt (roundInt rm x))).1), 0)
    | _ => (a, 0)

/-- a − FLR(a) under RDN, in [+0, 1) (R134). -/
def fFrac (f : FFmt) (a : Nat) : Nat × Nat :=
  match nanOf f [a] with
  | some r => r
  | none =>
    match decodeF f a with
    | .fin x => ((roundZ f 2 false (x.sub (Frac.ofInt x.floor))).1, 0)
    | .zero _ => (0, 0)
    | _ => (f.nan, evNan)

/-- The class bits of R135. -/
def fClass (f : FFmt) (a : Nat) : Nat :=
  let sub : Bool := a % 2 ^ (f.e + f.m) < 2 ^ f.m
  match decodeF f a with
  | .nan _ true => 1
  | .nan _ false => 2
  | .inf true => 4
  | .inf false => 512
  | .zero true => 32
  | .zero false => 64
  | .fin x => if x.num < 0 then (if sub then 16 else 8) else (if sub then 128 else 256)

/-- Convert between vector formats (R131): NaN quieted with its payload at the top of the fraction, truncated. -/
def fConvert (src dst : FFmt) (rm a : Nat) : Nat × Nat :=
  match decodeF src a with
  | .nan neg s =>
    let payload := quiet src a % 2 ^ src.m
    let p := if src.m ≤ dst.m then payload * 2 ^ (dst.m - src.m) else payload / 2 ^ (src.m - dst.m)
    (dst.signBit neg + dst.infCode + p, if s then evNan else 0)
  | .inf neg => (dst.signBit neg + dst.infCode, 0)
  | .zero neg => (dst.signBit neg, 0)
  | .fin x => roundTo dst rm x

end Sys2Proof.Machine
end

