-- ==== Sys2Proof/Config.lean ====
section
/-! DEFINITION. What one ZL-9640 fixes and the manual does not give: free values. An opaque constant has no value
that a proof can see, so a statement holds whatever the part has (log 2, 9, 10, 11). -/

namespace Sys2Proof.Config

/-- How far, in units in the last place, the value that RCP, RSQ, EXP2, LOG2, SIN or COS delivers lies from the
correctly rounded one, by function (0 RCP .. 5 COS), format (0 F64, 1 F32) and operand. The model keeps it within
the bounds of R133 (log 10). -/
opaque ulpStep : Nat → Nat → Nat → Int

/-- IDENT.STEP, the silicon stepping (R441; log 9). -/
opaque stepping : BitVec 16

/-- LPCAP.CAP, the second-tier capacity fitted to the module, in units of 16 GiB, at most 1 TiB (R214, R441; log 9). -/
opaque lpcap : Fin 65

/-- What a byte of the device register window reads as, by counter and physical address: R214 places no register there (log 23). -/
opaque deviceByte : Nat → Nat → BitVec 8

/-- What a helper lane gets from an instruction whose write is not performed for it, by counter and lane (R401; log 92). -/
opaque helperValue : Nat → Nat → BitVec 128

/-- How many watches the monitor table of a home slice holds (R289 gives no number; log 38). -/
opaque monitorSlots : Nat

/-- The 32-byte seed of the device identity key, which the boot ROM derives from a fused secret (R448; log 11). -/
opaque deviceSeed : List Byte

/-- The public-key hash in fuses (R446; log 11). -/
opaque keyHash : List Byte

/-- The fused minimum version (R446; log 11). -/
opaque minSvn : Nat

/-- The physical address at which the firmware body is loaded (R446 gives none; log 11). -/
opaque firmwareBase : Nat

/-- The address of the HALT that the firmware enters at boot (R447; log 11). -/
opaque firmwareHalt : BitVec 64

/-- The root table that the firmware of a die translates by, if it sets one up (R210; log 13). -/
opaque firmwareRoot : Nat → Option Nat

/-- Whether a request between two ring stops that are equally far both ways takes the ring to the next stop (R260). -/
opaque ringNext : Nat → Nat → Bool

/-- Whether a triangle faces front where the ray's edge functions are not negative, rather than not positive (R434 says
only that a face has an orientation; log 21). -/
opaque rayFront : Bool

/-- A free value of `w` bits drawn at a counter (log 2). -/
opaque freeBits : (w : Nat) → Nat → BitVec w

/-- Which of two permitted results the part takes at a counter (log 2). -/
opaque freeChoice : Nat → Bool

end Sys2Proof.Config
end

