-- ==== Sys2Proof/Machine/State.lean ====
section
/-! DEFINITION. The state of a ZL-9640 module as plain data: what INVENTORY.md lists under State, and nothing of
a function type. Groups, teams, launches and results carry identifiers of the model's own (log 1). -/

namespace Sys2Proof.Machine

/-- The model raises no fault: every trap, engine fault and error that the manual describes is a next state. The
one constructor is never answered by a step. -/
inductive Fault where
  /-- raised by nothing; safe, because a step never answers it -/
  | never
  deriving DecidableEq, Repr

/-- Why a step is refused. -/
inductive Refusal where
  /-- raised by an arm of exec whose row has no meaning yet; safe, because nothing is proved of such a step -/
  | notModelled (mnemonic : String)
  deriving DecidableEq, Repr

/-- Bytes by address, in canonical form: addresses strictly rising, no byte equal to what an unlisted address reads as. -/
abbrev Memory := List Host.Cell

/-! ## Turns -/

/-- Whose turn it is. -/
inductive Turn where
  /-- PC slot `slot` of group `gid` gets an issue opportunity (R88) -/
  | issue (gid slot : Nat)
  /-- the event `i`, a row of the opcode table that is no word -/
  | event (i : Instr)
  /-- an L1 line of a core is evicted (R231) -/
  | evict (core line : Nat)
  /-- `n` cycles pass -/
  | idle (n : Nat)
  deriving DecidableEq, Repr

/-- The model's own control data (log 1, log 2) and the clock (R4). -/
structure Ctl where
  agenda : List Turn
  gid : Nat
  slot : Nat
  freeCtr : Nat
  nextId : Nat
  cycle : Nat
  deriving DecidableEq, Repr

/-! ## Groups -/

/-- The roles of R19, in the coding of R282. -/
inductive Role where | copy | matrix | vector | any
  deriving DecidableEq, Repr

/-- A lane that WAITC has not satisfied yet: its address and value (R187). -/
structure WaitLane where
  lane : Nat
  addr : Nat
  val : Nat
  deriving DecidableEq, Repr

/-- What a WAITC waits for: the condition, the location's words, whether signed, the lanes left (R187). -/
structure WaitFor where
  cond : Nat
  words : Nat
  signed : Bool
  left : List WaitLane
  deriving DecidableEq, Repr

/-- What a PC slot is parked in (R91, R92, R196, R414). `len` is the bytes to the successor, where the slot goes on
once the wait is over; a slot parked in the others issues its instruction again. -/
inductive Park where
  | grow (len : Nat)
  | waitc (w : WaitFor) (len : Nat)
  | tlwait | srpost | srtake | srwait
  /-- parked at a barrier for the phase with this value (R180) -/
  | barw (bar : Nat) (phase : Bool) (len : Nat)
  /-- a TKGET: whether it waits for its turn behind the group's earlier task work, rather than on its pool (R309, R311), and whether it
  may issue again -/
  | tkget (len : Nat) (turn again : Bool)
  /-- in the RGRP rendezvous, with `.ring`, the payload's words and the key's code (R437) -/
  | rgrp (ring : Bool) (n key len : Nat)
  | halt (len : Nat) | gang
  /-- an access of its instruction has met a home fault, and the edge unit replays it once (R252) -/
  | replay
  /-- waiting for its strip to latch (R414) -/
  | latch
  deriving DecidableEq, Repr

/-- The literal of an issue unit: the address of its LIT, the literal word, the S bit of the LIT (R39). -/
structure Literal where
  addr : Addr
  word : Word
  sw : Bool
  deriving DecidableEq, Repr

/-- A live PC slot: a fragment (R84) and how it stands with stops (R91). -/
structure Slot where
  pc : Addr
  mask : LaneMask
  join : Option Nat
  lit : Option Literal
  issued : Nat
  park : Option Park
  /-- the mask word of the safe point at which it stopped, if it has stopped -/
  stop : Option Word
  deriving DecidableEq, Repr

/-- An entry of a result queue (R79): 64 lanes; the long-latency result and its word that the entry belongs to; the
pending bit; the transient mark. -/
structure QEntry where
  vals : List Word
  src : Option (Nat × Nat)
  pend : Bool
  transient : Bool
  deriving DecidableEq, Repr

/-- An entry of the divergence stack (R84, R106), oldest first in the list. -/
inductive DEntry where
  | frag (pc : Addr) (mask : LaneMask) (join : Option Nat)
  | record (id : Nat) (addr : Addr) (expected arrived : LaneMask) (parent : Option Nat)
  deriving DecidableEq, Repr

/-- The registers of a group: N by register and lane, G, K, and the codes of pending named registers (R75, R81). -/
structure Regs where
  n : List (List Word)
  g : List Word
  k : List LaneMask
  pend : List Nat
  deriving DecidableEq, Repr

/-- The trap record (R99). -/
structure TrapRec where
  code : Nat
  aux : Nat
  mask : Word
  pc : Addr
  addr : Addr
  lanes : LaneMask
  deriving DecidableEq, Repr

/-- How far firmware is with a group's trap (R101, R304): told of it; its page fault posted to the host; the page reported
mapped, or declined. `task` and `taskRepaired` are posted and mapped under R316, `taskPosting` has its TKPOST under way as a result of the
task unit. -/
inductive TrapPhase where
  | none | notified | posted | repaired | declined | task | taskRepaired
  | taskPosting (oid : Nat)
  deriving DecidableEq, Repr

/-- The timeline of an asynchronous context (R27): operations accepted, the counter, numbers completed above it. -/
structure Timeline where
  accepted : Nat
  counter : Nat
  done : List Nat
  deriving DecidableEq, Repr

/-- What a load is, so that it can be performed again: destination, words, size code, address of each lane, the acquire's
scope for LDACQ, the PC slot (R95), and the physical bytes of a load that is to be performed late (R234). -/
structure Replay where
  dst : Code
  words : Nat
  size : Nat
  addrs : List (Nat × Addr)
  acq : Option Nat
  slot : Nat
  spots : List (Nat × Nat)
  deriving DecidableEq, Repr

/-- A piece or element on its way into scratchpads (R248): its number, the address it is written to, the bytes read, the pages through which
they were (base and size in bits), for each target the allocation, offset and length of its parts, and a mask of the words of 4 bytes that are
written already. -/
structure CopyWay where
  part : Nat
  dst : Nat
  bytes : List Byte
  pages : List (Nat × Nat)
  targets : List (List (Nat × Nat × Nat))
  written : Nat
  deriving DecidableEq, Repr

/-- A copy operation (R326..R332): the opcode, the descriptor's bytes, X, the pieces performed or skipped, and those on their way. -/
structure CopyOp where
  n : Nat
  op : Nat
  desc : List Byte
  x : Nat
  done : List Nat
  ways : List CopyWay
  fault : Option (Nat × Bool)
  /-- the host has reported the page of its fault mapped -/
  repaired : Bool
  deriving DecidableEq, Repr

/-- A sampler operation (R419, R420): TEXG or TEX, X, the record's bytes, the A operand of each lane. -/
structure SampOp where
  n : Nat
  oid : Nat
  gather : Bool
  x : Nat
  record : List Byte
  args : List Nat
  mask : LaneMask
  /-- the group's quads were dissolved when it issued (R421) -/
  dissolved : Bool
  fault : Option Nat
  repaired : Bool
  deriving DecidableEq, Repr

/-- A ray query (R435): RAYQ or RAY, `.view` or `.exp`, the header's address, the A operand of each lane. -/
structure RayOp where
  n : Nat
  oid : Nat
  anyHit : Bool
  view : Bool
  header : Addr
  args : List Nat
  mask : LaneMask
  fault : Option Nat
  repaired : Bool
  deriving DecidableEq, Repr

/-- A vertex staging slot (R393): emitted, the four position words, the sixteen attribute words. -/
structure VSlot where
  emitted : Bool
  pos : List Word
  attr : List Word
  deriving DecidableEq, Repr

/-- An emitted primitive (R395): index, view mask, three vertices. -/
structure EPrim where
  p : Nat
  mask : Nat
  verts : List VSlot
  deriving DecidableEq, Repr

/-- What part of a frame a group serves (R393, R400, R409). -/
inductive FramePart where
  | none
  | meshlet (frame m : Nat)
  | tile (frame : Nat)
  | fragment (frame batch : Nat)
  deriving DecidableEq, Repr

/-- A group (R17, R70, R73, R105). -/
structure Group where
  gid : Nat
  tid : Nat
  grpId : Nat
  role : Role
  fw : Bool
  core : Nat
  islot : Nat
  resid : Nat
  /-- its position in the 12-position rotation of its issue slot, if its context is of the compatibility policy (R90) -/
  pos : Nat
  /-- the PC slot that issued last (R84) -/
  turn : Nat
  allot : Nat
  grown : Bool
  localSlot : Nat
  mode : Word
  regs : Regs
  slot0 : Option Slot
  slot1 : Option Slot
  q0 : List QEntry
  q1 : List QEntry
  dstack : List DEntry
  oscount : Nat
  trap : TrapRec
  phase : TrapPhase
  /-- the slot that trapped -/
  trapSlot : Nat
  /-- the slots whose next instruction raises no ARITH (R113) -/
  arithSkip : List Nat
  quadFault : Bool
  spanLost : List Word
  dissolved : Bool
  yielded : Bool
  relScope : Option Nat
  lastRead : List Nat
  /-- the PC slot whose WAITC its last read instruction is, while that is parked (R238) -/
  readIn : Option Nat
  copy : Timeline
  samp : Timeline
  ray : Timeline
  gangTl : Timeline
  gang : Option Nat
  copyOps : List CopyOp
  sampOps : List SampOp
  rayOps : List RayOp
  task : Option Nat
  part : FramePart
  vslots : List VSlot
  eprims : List EPrim
  /-- what its EMITPs add to ERRPRIM once it ends (R395, R407) -/
  emitErr : Nat
  helper : LaneMask
  deriving DecidableEq, Repr

/-! ## Results under way -/

/-- A lane of QENQ or QDEQ that waits for its slot's stamp (R266, R267): its index and its queue, or the descriptor at which the
index is still to be taken; whether an access of it has met a home fault, so that it is replayed (R252); the scope of a FENCE.rel whose
release its writes are (R238). -/
structure StampWait where
  lane : Nat
  enq : Bool
  index : Nat
  ring : Nat
  stamps : Nat
  log2n : Nat
  entry : Addr
  desc : Option Nat
  retried : Bool
  rel : Option Nat
  deriving DecidableEq, Repr

/-- What a task instruction still has to do (R310, R312, R313): the TCB, the successors not yet decremented, the
task that waits for room in its pool, the enqueue that waits for its slot's stamp, the count, the pool; the context and
the core it works for; the scope of a FENCE.rel whose release its writes are (R238). -/
structure TaskWork where
  tcb : Nat
  succs : List Nat
  blocked : Option Nat
  stamp : Option StampWait
  count : Nat
  pool : Nat
  ctx : Nat
  core : Nat
  rel : Option Nat
  deriving DecidableEq, Repr

/-- An index that outlives the instruction that took it (R268): its wait, the entry to publish, and whether it dequeues a task. -/
structure Orphan where
  wait : StampWait
  entry : List Byte
  task : Bool
  deriving DecidableEq, Repr

/-- What a result under way waits for. -/
inductive OutKind where
  | alu
  | load (r : Replay)
  | far
  | queue (ws : List StampWait)
  /-- the indexes that the QENQs, QDEQs and TKGETs of a killed or restarted group hold (R268): context and core -/
  | orphan (ctx core : Nat) (ws : List Orphan)
  /-- a TKGET that holds an index; once its entry is there `desc` is the TCB, whose STATE is still to be written (R311) -/
  | tkget (w : StampWait)
  /-- a TKGET's result that is no TCB address (R309) -/
  | noTask
  | task (w : TaskWork)
  | post (w : TaskWork)
  | arm (w : TaskWork)
  | tret (frame view strip tile : Nat)
  | engine
  /-- an FCVT: the event counts that its delivery adds (R360) -/
  | narrow (counts : List Nat)
  deriving DecidableEq, Repr

/-- An outstanding long-latency result (R81): where it goes, the lanes it writes, the value of each lane, the
lanes or parts still awaited. A load of a harvest group that has returned while an earlier one has not stays with 1 awaited,
one that a revocation has cancelled with 2 (the replay record of R95), and one that is performed only when it returns with 3 (R234).
`retried`: an access after issue has met its first fault, which is replayed (R252). -/
structure Outst where
  oid : Nat
  gid : Nat
  slot : Nat
  dst : Code
  words : Nat
  mask : LaneMask
  vals : List Nat
  left : Nat
  kind : OutKind
  /-- the address of the instruction (R252) -/
  pc : Addr
  retried : Bool
  deriving DecidableEq, Repr

/-! ## Requests in the network -/

/-- Who receives a reply (R251, R259, R271). -/
inductive Member where
  | lane (oid lane : Nat)
  | wait (wid : Nat)
  | silent
  /-- the module that sent the request (R226) -/
  | outside
  /-- the Beater, for the shadow at an offset of a pad (R271) -/
  | beater (pad off : Nat)
  deriving DecidableEq, Repr

/-- A hop of a request's way home: the switch point and the input port (R260). -/
structure Hop where
  point : Nat
  port : Nat
  deriving DecidableEq, Repr

/-- A far-atomic request (R251, R258): its group, the slot and address of the instruction, opcode, unsigned mark, size in bytes, location, operand, third operand; the
requests of lanes that it stands for. -/
structure Req where
  rid : Nat
  gid : Nat
  slot : Nat
  pc : Addr
  core : Nat
  asid : Nat
  cls : Nat
  op : Nat
  unsigned : Bool
  size : Nat
  va : Nat
  pa : Nat
  /-- log2 of the size of the page that the address lies in, and whether it is an SO page -/
  bits : Nat
  so : Bool
  /-- the lane that it comes from -/
  lane : Nat
  v : Nat
  c : Nat
  member : Member
  noCombine : Bool
  faulted : Bool
  release : Option Nat
  route : List Hop
  entry : Nat
  origs : List Nat
  deriving DecidableEq, Repr

/-- A wait entry (R259): the two members, the first one's operand, the operation, and the reply once it is back. -/
structure WaitEntry where
  wid : Nat
  first : Member
  second : Member
  a : Nat
  op : Nat
  unsigned : Bool
  size : Nat
  point : Nat
  reply : Option Nat
  deriving DecidableEq, Repr

/-- A Weft port: trained, and the partner's COMB bit (R264). -/
structure Link where
  trained : Bool
  comb : Bool
  deriving DecidableEq, Repr

/-- The network's state: requests under way in order of arrival, and every lane's request that is not yet performed
as its edge unit holds it (R252); where the class arbitration of each switch point stands. -/
structure Net where
  requests : List Req
  origs : List Req
  waits : List WaitEntry
  links : List Link
  reach : List Nat
  moduleNo : Nat
  /-- by switch point, how many SV requests went since one of BK or since BK had none waiting (R221) -/
  turns : List (Nat × Nat)
  deriving DecidableEq, Repr

/-! ## The memory system -/

/-- The page kinds of R209. -/
inductive PageKind where | rc | so | uo
  deriving DecidableEq, Repr

/-- A translation (R208, R209): base addresses, log2 of the page size, permissions. -/
structure Tlb where
  unit : Nat
  asid : Nat
  vbase : Nat
  bits : Nat
  pbase : Nat
  kind : PageKind
  u : Bool
  x : Bool
  w : Bool
  deriving DecidableEq, Repr

/-- An L1 line (R205, R206): tag, physical line, the page size (as a log2) and permissions of the translation that filled it, dirty
bytes. -/
structure L1Line where
  core : Nat
  asid : Nat
  vline : Nat
  pline : Nat
  bits : Nat
  kind : PageKind
  u : Bool
  x : Bool
  w : Bool
  dirty : Memory
  /-- residency number of the group that last touched it (R89) -/
  touch : Nat
  deriving DecidableEq, Repr

/-- A TLBI broadcast (R198, R213): kind, ASID, address, the group and slot or the mailbox that waits for it. -/
structure Shootdown where
  sid : Nat
  kind : Nat
  asid : Nat
  va : Nat
  waiter : Option (Nat × Nat)
  deriving DecidableEq, Repr

/-- An L2 line (R222, R223): slice, set, line number, class, context, when it was last used. -/
structure L2Line where
  slice : Nat
  set : Nat
  line : Nat
  cls : Nat
  ctx : Nat
  used : Nat
  deriving DecidableEq, Repr

/-- A recorded releaser of a synchronisation line (R242). -/
structure Release where
  line : Nat
  core : Nat
  asid : Nat
  scope : Nat
  deriving DecidableEq, Repr

/-- What waits for a write to a watched line (R187, R288, R289, R311). -/
inductive Watcher where
  | waitc (gid slot : Nat)
  | tkget (gid slot : Nat)
  | notify (qid : Nat)
  | packet (qid : Nat)
  | enqueue (oid : Nat)
  deriving DecidableEq, Repr

/-- A watch: a memory line, or a location of a pad; whether a write has reached it. -/
structure Monitor where
  who : Watcher
  pad : Option Nat
  addr : Nat
  /-- of a location in a pad, its bytes -/
  len : Nat
  fired : Bool
  deriving DecidableEq, Repr

/-- The caches, translations and tables of the memory system (f07, R242, R252). -/
structure MemSys where
  badLines : List Nat
  l1 : List L1Line
  tlb : List Tlb
  shootdowns : List Shootdown
  region : List (Nat × Nat)
  guests : List (Nat × Nat)
  l2 : List L2Line
  l2Clock : Nat
  svQuota : Nat
  bkQuota : Nat
  releases : List Release
  monitors : List Monitor
  deriving DecidableEq, Repr

/-! ## Teams, pads, rings, barriers -/

/-- A stage ring (R183). -/
structure Ring where
  head : Nat
  count : Nat
  phases : List Bool
  slots : List (List Word)
  /-- the cycle of the last ring instruction accepted, and the issue slot that it came from (R24) -/
  mark : Option (Nat × Nat)
  deriving DecidableEq, Repr

/-- A named barrier (R180). -/
structure Barrier where
  expect : Nat
  arrived : Nat
  balance : Int
  phase : Bool
  posted : Bool
  deriving DecidableEq, Repr

/-- A scratchpad allocation (R203, R204): core, first word, bytes of its SCRATCH window, bytes written. -/
structure Pad where
  pid : Nat
  core : Nat
  base : Nat
  ringBytes : Nat
  len : Nat
  bytes : Memory
  deriving DecidableEq, Repr

/-- Where a team is (R93, R94, R95). -/
inductive TeamPlace where | running | saved | revoked | replay | gone
  deriving DecidableEq, Repr

/-- A team (R17, R104, R180, R183, R291). -/
structure Team where
  tid : Nat
  lid : Nat
  ctx : Nat
  linear : Nat
  ix : Nat
  iy : Nat
  iz : Nat
  rank : Nat
  clusterNo : Nat
  core : Nat
  pad : Nat
  place : TeamPlace
  admission : Nat
  harvest : Bool
  rings : List Ring
  ringMask : Nat
  barriers : List Barrier
  preempt : Option Nat
  timedOut : Bool
  recOff : Nat
  recLen : Nat
  stop : Nat
  revoked : Nat
  lost : List Nat
  /-- the team of its grid for which R293 has evicted it -/
  evictedFor : Option Nat
  deriving DecidableEq, Repr

/-! ## Launches, queues, contexts -/

/-- A kernel descriptor as read (R282). -/
structure KDesc where
  ngroups : Nat
  allot : Nat
  gflags : Nat
  classes : Nat
  roles : Nat
  scratch : Nat
  rings : Nat
  nbar : Nat
  code : Nat
  entry : Nat
  restart : Nat
  slots : List Nat
  deriving DecidableEq, Repr

/-- What kind of launch it is (R281, R386, R400, R409). -/
inductive LaunchKind where
  | grid
  | meshlets (frame : Nat)
  | tiles (frame cluster : Nat)
  | fragment (frame batch : Nat)
  deriving DecidableEq, Repr

/-- A launch in flight (R281, R283, R294). -/
structure Launch where
  lid : Nat
  kind : LaunchKind
  ctx : Nat
  qid : Option Nat
  die : Nat
  kdAddr : Nat
  kd : KDesc
  args : Nat
  gx : Nat
  gy : Nat
  gz : Nat
  tlimit : Nat
  clsize : Nat
  lflags : Nat
  lsize : Nat
  lslots : Nat
  lbase : Nat
  signal : Nat
  crec : Nat
  acq : Nat
  rel : Nat
  prio : Nat
  next : Nat
  exited : Nat
  replayed : Bool
  killed : Bool
  cores : List Nat
  /-- the step of R283 at which a fault holds its completion, and whether the page has been repaired -/
  held : Option (Nat × Nat)
  repaired : Bool
  deriving DecidableEq, Repr

/-- An INDIRECT packet's progress (R286): next byte, the piece's snapshot and its first byte. -/
structure Indirect where
  addr : Nat
  len : Nat
  pos : Nat
  pieceAt : Nat
  piece : List Byte
  deriving DecidableEq, Repr

/-- A user-mode queue (R275, R276, R290). -/
structure Queue where
  qid : Nat
  die : Nat
  ring : Nat
  ridxAddr : Nat
  widxAddr : Nat
  notify : Nat
  log2sz : Nat
  prio : Nat
  cls : Nat
  state : Nat
  asid : Nat
  qflags : Nat
  ctxid : Nat
  errrec : Nat
  ridx : Nat
  /-- the packet at which it stands may be taken; of an unmapped queue, that the scanner's rounds look at it (R289, R290) -/
  awake : Bool
  indirect : Option Indirect
  /-- a BARRIER_AND or TIMELINE_WAIT holds the queue: the packet's bytes (R279) -/
  waiting : Option (List Byte)
  /-- a BARRIER_AND that is satisfied waits for its signal's page (R283) -/
  held : Option Nat
  repaired : Bool
  /-- the cycle of its die in which it last stopped having a packet in progress (R290) -/
  idleSince : Nat
  deriving DecidableEq, Repr

/-- An operation of an egress stream (R427, R428); once its tile has arrived, the cycle of that and the image as read. -/
structure EgrOp where
  n : Nat
  frame : Nat
  view : Nat
  strip : Nat
  tile : Nat
  core : Nat
  pad : Nat
  off : Nat
  discarded : Bool
  fault : Option Nat
  repaired : Bool
  arrived : Option (Nat × List Byte)
  deriving DecidableEq, Repr

/-- An egress stream (R427). -/
structure Stream where
  tl : Timeline
  ops : List EgrOp
  deriving DecidableEq, Repr

/-- A context (R102, R444). -/
structure Ctx where
  ctxid : Nat
  cls : Nat
  asid : Nat
  root : Nat
  save : Nat
  saveBytes : Nat
  resv : List Nat
  lend : Nat
  nslot : Nat
  gimgBytes : Nat
  trapArith : Bool
  compat : Bool
  quota : Nat
  fpx : List Nat
  fpxThr : Nat
  fired : List Bool
  streams : List Stream
  killed : Bool
  deriving DecidableEq, Repr

/-! ## Frames -/

/-- A strip of a view (R388). -/
structure Strip where
  row0 : Nat
  start : Nat
  deadline : Nat
  deriving DecidableEq, Repr

/-- An egress target record as read (R425). -/
structure Target where
  addr : Nat
  kind : Nat
  slots : Nat
  base : Nat
  slotBytes : Nat
  pitch : Nat
  recs : Nat
  deriving DecidableEq, Repr

/-- A view descriptor as read (R388), its egress target and frame number (R425). -/
structure View where
  m : List Word
  wd : Nat
  hd : Nat
  tx : Nat
  ty : Nat
  flags : Nat
  cx : Int
  cy : Int
  lens : Nat
  xk : List (Nat × Nat)
  yk : List (Nat × Nat)
  strips : List Strip
  target : Target
  frameNo : Nat
  frameNoDone : Bool
  /-- the host has reported the page of its egress target mapped -/
  repaired : Bool
  deriving DecidableEq, Repr

/-- A committed primitive (R393, R396): id, view mask, the vertices, the address of its record if it got
one, whether projected. -/
structure Prim where
  pid : Nat
  mask : Nat
  verts : List VSlot
  record : Option Nat
  projected : Bool
  deriving DecidableEq, Repr

/-- A fan triangle of a primitive in a view (R397): snapped X and Y, depths, c_w, D, the original clip
coordinates, the (strip, tile) pairs delivered. -/
structure Tri where
  trid : Nat
  pid : Nat
  view : Nat
  fan : Nat
  xs : List Int
  ys : List Int
  zs : List Word
  ws : List Word
  d : Int
  clip : List (List Word)
  delivered : List (Nat × Nat)
  deriving DecidableEq, Repr

/-- A blend write held by the scoreboard (R404, R406): its batch and place in it, the tile its handle names. -/
structure Blend where
  gid : Nat
  batch : Nat
  view : Nat
  strip : Nat
  tile : Nat
  seq : Nat
  pid : Nat
  op : Nat
  sample : Nat
  colour : Word
  /-- the release that the write carries, of a FENCE.rel before it (R238, R242) -/
  rel : Option Release
  deriving DecidableEq, Repr

/-- A tile area (R411, R412): view and tile, owner core, place in the pool, the strip it is open for, the strips
whose TRET has returned, the strips handed over. -/
structure Area where
  view : Nat
  tile : Nat
  core : Nat
  off : Nat
  strip : Option Nat
  retired : List Nat
  handed : List Nat
  deriving DecidableEq, Repr

/-- A fragment batch (R400, R401, R406): triangle, strip, tile, quads as (u, v), and whether it has ended. -/
structure Batch where
  bid : Nat
  tri : Nat
  pid : Nat
  view : Nat
  strip : Nat
  tile : Nat
  quads : List (Nat × Nat)
  covered : LaneMask
  ended : Bool
  deriving DecidableEq, Repr

/-- Counters of a view (R407). -/
structure ViewStats where
  emitted : Nat
  culled : Nat
  rasterised : Nat
  small : Nat
  fragGroups : Nat
  deriving DecidableEq, Repr

/-- A frame in flight (R386, R387, R391, R408, R411). -/
structure Frame where
  fid : Nat
  lid : Nat
  ctx : Nat
  die : Nat
  vset : Nat
  cores : List Nat
  views : List View
  primRing : Nat
  primSlots : Nat
  setupRing : Nat
  setupSlots : Nat
  stq : Nat
  fkAddr : Nat
  fk : KDesc
  fargs : Nat
  stats : Nat
  qrange : List (Nat × Nat)
  prims : List Prim
  tris : List Tri
  setups : Nat
  areas : List Area
  batches : List Batch
  blends : List Blend
  ends : List Nat
  /-- small-path entries and end entries that wait for a slot in a queue: core index, entry bytes -/
  queued : List (Nat × List Byte)
  /-- accepted EGRS per (view, strip, tile): the first that counts -/
  claimed : List (Nat × Nat × Nat)
  deadlines : List (Nat × Nat)
  counters : List ViewStats
  errPrim : Nat
  /-- what each meshlet group that has ended adds to ERRPRIM (R407) -/
  emitErrs : List (Nat × Nat)
  occ : List Nat
  pads : List (Nat × Nat)
  meshDone : Bool
  fault : Option Nat
  repaired : Bool
  deriving DecidableEq, Repr

/-! ## Dies, clusters, cores -/

/-- Gaze and classifier values that a view latched for a strip (R392). -/
structure Latch where
  view : Nat
  strip : Nat
  gx : Word
  gy : Word
  area : Nat
  deriving DecidableEq, Repr

/-- A view set's registers (R194, R386, R392): the pending gaze pairs and CLS_AREA; the latched ones by view and strip, of which those that
are not listed hold R194's reset values; the strips of the frame in flight that have latched. -/
structure ViewSet where
  gzx : List Word
  gzy : List Word
  clsArea : Nat
  latches : List Latch
  latched : List (Nat × Nat)
  start : Nat
  deriving DecidableEq, Repr

/-- An event on its way to the event ring (R442). -/
structure Event where
  kind : Nat
  die : Nat
  ctx : Nat
  a : Nat
  b : Nat
  deriving DecidableEq, Repr

/-- What a shared engine of a die has to choose from (R30): its number; the context that it has chosen, which later work does not displace;
the contexts with work there, the next in turn first. -/
structure Arb where
  engine : Nat
  chosen : Option Nat
  order : List Nat
  deriving DecidableEq, Repr

/-- A die: firmware, scanner, dispatcher, view sets, clock (R195, R196, R290, R291, R392, R451). `lastQueue` and
`lastLaunch` are where the round robins of R294 stand. -/
structure Die where
  wakeHeld : Bool
  notices : List Nat
  fwvec : BitVec 64
  fwepc : BitVec 64
  fwcause : Word
  /-- the root table that its firmware group translates by, once firmware runs; none: it runs on physical addresses (log 13) -/
  fwRoot : Option Nat
  clockStep : Nat
  /-- how far the die's count of cycles is behind that of a die at step 0, in tenths of a cycle (R4, R451) -/
  lag : Nat
  cool : Nat
  temperature : Int
  raised : List Event
  rot : Nat
  lastQueue : Nat
  lastLaunch : Nat
  mapped : List Nat
  viewSets : List ViewSet
  boot : Nat
  /-- the image that its boot ROM has fetched and verifies or runs (R446) -/
  image : List Byte
  arb : List Arb
  deriving DecidableEq, Repr

/-- An accumulator tile (R362): words by index, OVF, OWNER, RMARK. -/
structure Tile where
  words : List Word
  ovf : Nat
  owner : Option Nat
  rmark : Bool
  deriving DecidableEq, Repr

/-- How a multiplier array stands (R370, R371): cold; warm or warming since a cycle; ramping down since a cycle;
the cycle of its last MMA; the hold of MBURST. -/
inductive Ramp where
  | cold
  | up (since : Nat)
  | down (since : Nat)
  deriving DecidableEq, Repr

/-- A multiplier array. -/
structure MArray where
  ramp : Ramp
  lastMma : Nat
  hold : Nat
  deriving DecidableEq, Repr

/-- A shadow that the Beater has been notified of (R269, R271): pad and byte offset of its header, owning team, the
posting context, the cycle and the core of each post that waits, oldest first. -/
structure Shadow where
  pad : Nat
  off : Nat
  tid : Nat
  ctx : Nat
  posted : List (Nat × Nat)
  flush : Bool
  due : Bool
  fault : Option Nat
  repaired : Bool
  /-- a batch reserved in the true queue: first index, entries written, entries in all (R271, steps 2 and 3) -/
  batch : Option (Nat × Nat × Nat)
  /-- its MADD on the true queue's TAIL is under way, by this many entries; the home answers with the first index (R271, step 2) -/
  asked : Option Nat
  deriving DecidableEq, Repr

/-- A cluster: tiles, arrays, shadows. -/
structure Cluster where
  tiles : List Tile
  arrays : List MArray
  shadows : List Shadow
  deriving DecidableEq, Repr

/-- A held gang operation (R365, R369): number, the first issuer's word, opcode, D field, X field, the members that
issued it, the address of each member's block and the pad that holds it, the copied B part of each member, the scale
vector. -/
structure GangOp where
  k : Nat
  insn : Word
  op : Nat
  t : Nat
  x : Nat
  by_ : List Nat
  addrs : List (Nat × Addr)
  pads : List (Nat × Nat)
  parts : List (Nat × List Byte)
  scale : List Byte
  deriving DecidableEq, Repr

/-- A gang context (R364): word, members (member number, group), joined, formed, closed, and the held operations. -/
structure Gang where
  gid : Nat
  cluster : Nat
  ctx : Nat
  lid : Nat
  clusterNo : Nat
  word : Word
  size : Nat
  joined : List (Nat × Nat)
  left : List Nat
  formed : Bool
  closed : Bool
  ops : List GangOp
  deriving DecidableEq, Repr

/-- A tag of the victim array (R89): an evicted L1 line, its ASID (R205), and the residency number of the group that last touched it. -/
structure Victim where
  vline : Nat
  asid : Nat
  resid : Nat
  deriving DecidableEq, Repr

/-- A core: LDCAP and its window, with the cycle at which it began (R89); for each issue slot the residency number that issued last
(R88) and the position of its 12-position rotation (R90). -/
structure Core where
  ldcap : Nat
  ldPtr : Nat
  ldWindow : Nat
  remiss : Nat
  victims : List Victim
  rr : List Nat
  rot : List Nat
  deriving DecidableEq, Repr

/-! ## The host's registers -/

/-- The host register block (R441, R443). -/
structure HostRegs where
  eqbase : BitVec 64
  eqctl : Word
  eqridx : Word
  eqwidx : Word
  eqdrop : Word
  bootaddr : BitVec 64
  bootlen : Word
  bootgo : Bool
  mbxreq : BitVec 64
  mbxgo : Bool
  mbxdone : BitVec 16
  /-- of the running image (R448): its digest, its SVN -/
  digest : List Byte
  svn : Nat
  deriving DecidableEq, Repr

/-- A page-fault event that awaits the host's reply (R442): context, address, what it holds. -/
structure FaultWait where
  ctx : Nat
  addr : Nat
  src : Option EngineSource
  gid : Nat
  deriving DecidableEq, Repr

/-- Events (R442): the last SEQ, events held for room, page faults that await a reply, and the value that the host or another
module was last given (the model's own, log 1). -/
structure EvRing where
  seq : Nat
  held : List (Nat × Event)
  waiting : List FaultWait
  lastRead : List Byte
  deriving DecidableEq, Repr

/-- The state of the module. -/
structure State where
  ctl : Ctl
  mem : Memory
  msys : MemSys
  net : Net
  dies : List Die
  clusters : List Cluster
  cores : List Core
  pads : List Pad
  contexts : List Ctx
  queues : List Queue
  launches : List Launch
  teams : List Team
  groups : List Group
  outs : List Outst
  gangs : List Gang
  frames : List Frame
  host : HostRegs
  events : EvRing
  deriving DecidableEq, Repr

/-! ## Reset (R449) -/

/-- A tile at reset: no owner, reads zero (R362). -/
def Tile.reset : Tile := ⟨[], 0, none, false⟩
/-- An array at reset (log 7). -/
def MArray.reset : MArray := ⟨.cold, 0, 0⟩
/-- A cluster at reset. -/
def Cluster.reset : Cluster := ⟨List.replicate 16 Tile.reset, List.replicate 4 MArray.reset, []⟩
/-- A core at reset: LDCAP 48 (R449). -/
def Core.reset : Core := ⟨48, 0, 0, 0, [], [0, 0, 0, 0], [0, 0, 0, 0]⟩
/-- A view set at reset: gaze 0, CLS_AREA 4.0 (R194, R392). -/
def ViewSet.reset : ViewSet := ⟨List.replicate 16 0, List.replicate 16 0, 0x0040, [], [], 0⟩
/-- A die at reset. -/
def Die.reset : Die := ⟨false, [], 0, 0, 0, none, 0, 0, 0, 0, [], 0, 0, 0, [], List.replicate 16 ViewSet.reset, 0, [], []⟩
/-- The host registers at reset (R441). -/
def HostRegs.reset : HostRegs := ⟨0, 0, 0, 0, 0, 0, 0, false, 0, false, 0, [], 0⟩
/-- The memory system at reset: nothing cached, the region table empty, the quotas 6 and 6 (R222, R449). -/
def MemSys.reset : MemSys := ⟨[], [], [], [], [], [], [], 0, 6, 6, [], []⟩
/-- The network at reset: 12 untrained ports, no module number (R193, R225). -/
def Net.reset : Net := ⟨[], [], [], List.replicate 12 ⟨false, false⟩, [], 0, []⟩
/-- The model's control data at reset (log 1). -/
def Ctl.reset : Ctl := ⟨[], 0, 0, 0, 1, 0⟩

/-- The module right after reset (R449): no context, no queue, no team; the boot ROMs wait for GO (R446). -/
def State.reset : State where
  ctl := Ctl.reset
  mem := []
  msys := MemSys.reset
  net := Net.reset
  dies := List.replicate 2 Die.reset
  clusters := List.replicate 96 Cluster.reset
  cores := List.replicate 384 Core.reset
  pads := []
  contexts := []
  queues := []
  launches := []
  teams := []
  groups := []
  outs := []
  gangs := []
  frames := []
  host := HostRegs.reset
  events := ⟨0, [], [], []⟩

end Sys2Proof.Machine
end

