-- ==== Sys2Proof/Machine/Memory.lean ====
section
/-! DEFINITION. Bytes by address in one canonical form (R10, R204, R449): the named operations over a Memory. -/

namespace Sys2Proof.Machine

/-- What a byte that nothing has written reads as: 0. Scratchpad words read 0 by R204; for HBM4E and the second
tier R449 gives no contents, and 0 is the model's choice (log 3). -/
def Memory.unlisted : Byte := 0

/-- The byte at an address. -/
def Memory.byte : Memory → Nat → Byte
  | [], _ => Memory.unlisted
  | (k, b) :: t, a => if k = a then b else if a < k then Memory.unlisted else Memory.byte t a

/-- The entry for a byte at the head of a memory, if it needs one. -/
def Memory.cons (a : Nat) (b : Byte) (m : Memory) : Memory := if b = Memory.unlisted then m else (a, b) :: m

/-- Write one byte, keeping the canonical form. -/
def Memory.poke : Memory → Nat → Byte → Memory
  | [], a, b => Memory.cons a b []
  | (k, c) :: t, a, b =>
    if k = a then Memory.cons a b t
    else if a < k then Memory.cons a b ((k, c) :: t)
    else (k, c) :: Memory.poke t a b

/-- Whether every address of a memory lies above `a`. -/
def Memory.above (a : Nat) : Memory → Bool
  | [] => true
  | (k, _) :: _ => a < k

/-- The canonical form: addresses strictly rising, no entry equal to what an unlisted address reads as. -/
def Memory.wf : Memory → Bool
  | [] => true
  | (k, b) :: t => Memory.above k t && b ≠ Memory.unlisted && Memory.wf t

/-- The `n` bytes from an address upward. -/
def Memory.read (m : Memory) (a n : Nat) : List Byte := (List.range n).map fun i => Memory.byte m (a + i)

/-- Write bytes from an address upward. -/
def Memory.write (m : Memory) (a : Nat) : List Byte → Memory
  | [] => m
  | b :: bs => Memory.write (Memory.poke m a b) (a + 1) bs

/-- Every byte of a range set to what an unlisted address reads as: a fresh allocation (R204). -/
def Memory.clear (m : Memory) (a n : Nat) : Memory := m.filter fun c => !(a ≤ c.1 && c.1 < a + n)

end Sys2Proof.Machine
end

