-- ==== Sys2Proof/Machine/Access.lean ====
section
/-! DEFINITION. Named updates of the state, one per field, and the lookup of groups, teams, launches and the
other numbered things that State holds. -/

namespace Sys2Proof.Machine

/-! ## One update per field -/

def State.setCtl (s : State) (v : Ctl) : State := { s with ctl := v }
def State.setMem (s : State) (v : Memory) : State := { s with mem := v }
def State.setMsys (s : State) (v : MemSys) : State := { s with msys := v }
def State.setNet (s : State) (v : Net) : State := { s with net := v }
def State.setDies (s : State) (v : List Die) : State := { s with dies := v }
def State.setClusters (s : State) (v : List Cluster) : State := { s with clusters := v }
def State.setCores (s : State) (v : List Core) : State := { s with cores := v }
def State.setPads (s : State) (v : List Pad) : State := { s with pads := v }
def State.setContexts (s : State) (v : List Ctx) : State := { s with contexts := v }
def State.setQueues (s : State) (v : List Queue) : State := { s with queues := v }
def State.setLaunches (s : State) (v : List Launch) : State := { s with launches := v }
def State.setTeams (s : State) (v : List Team) : State := { s with teams := v }
def State.setGroups (s : State) (v : List Group) : State := { s with groups := v }
def State.setOuts (s : State) (v : List Outst) : State := { s with outs := v }
def State.setGangs (s : State) (v : List Gang) : State := { s with gangs := v }
def State.setFrames (s : State) (v : List Frame) : State := { s with frames := v }
def State.setHost (s : State) (v : HostRegs) : State := { s with host := v }
def State.setEvents (s : State) (v : EvRing) : State := { s with events := v }

/-! ## Lists of numbered things -/

/-- The element with key `k`. -/
def pick {α : Type} (key : α → Nat) (k : Nat) (l : List α) : Option α := l.find? fun x => key x = k
/-- The list with the elements of `x`'s key replaced by `x`. -/
def put {α : Type} (key : α → Nat) (x : α) (l : List α) : List α := l.map fun y => if key y = key x then x else y
/-- The list without the elements of key `k`. -/
def without {α : Type} (key : α → Nat) (k : Nat) (l : List α) : List α := l.filter fun x => key x ≠ k
/-- The list with `f` applied to the elements that `p` picks. -/
def mapWhere {α : Type} (p : α → Bool) (f : α → α) (l : List α) : List α := l.map fun x => if p x then f x else x

namespace State

def group? (s : State) (k : Nat) : Option Group := pick Group.gid k s.groups
def putGroup (s : State) (x : Group) : State := s.setGroups (put Group.gid x s.groups)
def addGroup (s : State) (x : Group) : State := s.setGroups (s.groups ++ [x])
def dropGroup (s : State) (k : Nat) : State := s.setGroups (without Group.gid k s.groups)
def team? (s : State) (k : Nat) : Option Team := pick Team.tid k s.teams
def putTeam (s : State) (x : Team) : State := s.setTeams (put Team.tid x s.teams)
def addTeam (s : State) (x : Team) : State := s.setTeams (s.teams ++ [x])
def dropTeam (s : State) (k : Nat) : State := s.setTeams (without Team.tid k s.teams)
def launch? (s : State) (k : Nat) : Option Launch := pick Launch.lid k s.launches
def putLaunch (s : State) (x : Launch) : State := s.setLaunches (put Launch.lid x s.launches)
def addLaunch (s : State) (x : Launch) : State := s.setLaunches (s.launches ++ [x])
def dropLaunch (s : State) (k : Nat) : State := s.setLaunches (without Launch.lid k s.launches)
def ctx? (s : State) (k : Nat) : Option Ctx := pick Ctx.ctxid k s.contexts
def putCtx (s : State) (x : Ctx) : State := s.setContexts (put Ctx.ctxid x s.contexts)
def addCtx (s : State) (x : Ctx) : State := s.setContexts (s.contexts ++ [x])
def dropCtx (s : State) (k : Nat) : State := s.setContexts (without Ctx.ctxid k s.contexts)
def queue? (s : State) (k : Nat) : Option Queue := pick Queue.qid k s.queues
def putQueue (s : State) (x : Queue) : State := s.setQueues (put Queue.qid x s.queues)
def addQueue (s : State) (x : Queue) : State := s.setQueues (s.queues ++ [x])
def dropQueue (s : State) (k : Nat) : State := s.setQueues (without Queue.qid k s.queues)
def pad? (s : State) (k : Nat) : Option Pad := pick Pad.pid k s.pads
def putPad (s : State) (x : Pad) : State := s.setPads (put Pad.pid x s.pads)
def addPad (s : State) (x : Pad) : State := s.setPads (s.pads ++ [x])
def dropPad (s : State) (k : Nat) : State := s.setPads (without Pad.pid k s.pads)
def out? (s : State) (k : Nat) : Option Outst := pick Outst.oid k s.outs
def putOut (s : State) (x : Outst) : State := s.setOuts (put Outst.oid x s.outs)
def addOut (s : State) (x : Outst) : State := s.setOuts (s.outs ++ [x])
def dropOut (s : State) (k : Nat) : State := s.setOuts (without Outst.oid k s.outs)
def gang? (s : State) (k : Nat) : Option Gang := pick Gang.gid k s.gangs
def putGang (s : State) (x : Gang) : State := s.setGangs (put Gang.gid x s.gangs)
def addGang (s : State) (x : Gang) : State := s.setGangs (s.gangs ++ [x])
def dropGang (s : State) (k : Nat) : State := s.setGangs (without Gang.gid k s.gangs)
def frame? (s : State) (k : Nat) : Option Frame := pick Frame.fid k s.frames
def putFrame (s : State) (x : Frame) : State := s.setFrames (put Frame.fid x s.frames)
def addFrame (s : State) (x : Frame) : State := s.setFrames (s.frames ++ [x])
def dropFrame (s : State) (k : Nat) : State := s.setFrames (without Frame.fid k s.frames)

def die (s : State) (d : Nat) : Die := s.dies.getD d Die.reset
def modDie (s : State) (d : Nat) (f : Die → Die) : State := s.setDies (s.dies.modify d f)
def cluster (s : State) (c : Nat) : Cluster := s.clusters.getD c Cluster.reset
def modCluster (s : State) (c : Nat) (f : Cluster → Cluster) : State := s.setClusters (s.clusters.modify c f)
def core (s : State) (c : Nat) : Core := s.cores.getD c Core.reset
def modCore (s : State) (c : Nat) (f : Core → Core) : State := s.setCores (s.cores.modify c f)

/-- The count of cycles of a die (R4): `ctl.cycle` counts those of a die at clock step 0. -/
def clock (s : State) (die : Nat) : Nat := (10 * s.ctl.cycle - (s.die die).lag) / 10

/-- An unused identifier and the state in which it is used (log 1). -/
def fresh (s : State) : Nat × State := (s.ctl.nextId, s.setCtl { s.ctl with nextId := s.ctl.nextId + 1 })
/-- The counter of free values advances (log 2). -/
def tick (s : State) : State := s.setCtl { s.ctl with freeCtr := s.ctl.freeCtr + 1 }
/-- A free choice between two permitted results (log 2). -/
def choose (s : State) : Bool × State :=
  (Config.freeChoice s.ctl.freeCtr, s.setCtl { s.ctl with freeCtr := s.ctl.freeCtr + 1 })

/-- The address space of a group in FIRMWARE mode that has no context, apart from every ASID of 16 bits. -/
def firmwareAsid : Nat := 2 ^ 16

/-! ## Who belongs to what (R2, R17, R215) -/

/-- The team of a group. -/
def teamOf (s : State) (g : Group) : Option Team := s.team? g.tid
/-- The context of a group. -/
def ctxOf (s : State) (g : Group) : Option Ctx := (s.teamOf g).bind fun t => s.ctx? t.ctx
/-- The launch of a group. -/
def launchOf (s : State) (g : Group) : Option Launch := (s.teamOf g).bind fun t => s.launch? t.lid
/-- The context of a group, or the empty context of a group in FIRMWARE mode that has none. -/
def ctxIdOf (s : State) (g : Group) : Nat := ((s.ctxOf g).map (·.ctxid)).getD 0
def asidOf (s : State) (g : Group) : Nat := ((s.ctxOf g).map (·.asid)).getD firmwareAsid
/-- The traffic class of a group's context (R29); the Treadle core's own requests travel as SV. -/
def clsOf (s : State) (g : Group) : Nat := ((s.ctxOf g).map (·.cls)).getD 1
/-- The groups of a team. -/
def groupsOf (s : State) (tid : Nat) : List Group := s.groups.filter fun g => g.tid = tid

end State

/-- The cluster of a core, 0 to 95; its die; its sector, 0 to 5. -/
def coreCluster (core : Nat) : Nat := core / 4
def coreDie (core : Nat) : Nat := core / 192
def clusterSector (c : Nat) : Nat := c / 16

/-- Whether two cores are within a scope of one another, on one module (R228). -/
def scopeIncludes (scope coreA coreB : Nat) : Bool :=
  if scope ≤ 2 then coreA = coreB
  else if scope = 3 then coreA / 4 = coreB / 4
  else if scope = 4 then coreA / 64 = coreB / 64
  else if scope = 5 then coreA / 192 = coreB / 192
  else true

end Sys2Proof.Machine
end

