-- ==== Sys2Proof/Machine/Fabric.lean ====
section
/-! DEFINITION. The memory fabric (f07, f08): apertures, translation, the L1 with its dirty bytes, homing, guest
copies, L2 lines, lazy release and its write-backs. Local memory is keyed by physical address; a byte of module M
by 2^52 + M × 2^46 + its address there (log 12). -/

namespace Sys2Proof.Machine

/-- Who makes an access: its core, edge unit, address space, and what decides the checks (R207, R208, R54); whether it runs on physical
addresses (log 13), and whether its accesses pass by the core's L1 (R205, R246). -/
structure Agent where
  core : Nat
  unit : Nat
  asid : Nat
  root : Nat
  fw : Bool
  cls : Nat
  ctx : Nat
  resid : Nat
  tid : Nat
  lslot : Nat
  flat : Bool
  bypass : Bool
  deriving DecidableEq, Repr

/-- The agent that a group is (R227). Firmware without a context translates by its die's own root table, or by none (log 13). -/
def State.agentOf (s : State) (g : Group) : Agent :=
  let c := s.ctxOf g
  let own := (s.die (coreDie g.core)).fwRoot
  { core := g.core, unit := coreCluster g.core, asid := (c.map (·.asid)).getD firmwareAsid, root := (c.map (·.root)).getD (own.getD 0),
    fw := g.fw, cls := (c.map (·.cls)).getD 1, ctx := (c.map (·.ctxid)).getD 0, resid := g.resid, tid := g.tid,
    lslot := g.localSlot, flat := g.fw && c.isNone && own.isNone, bypass := false }

/-- The agent that an engine or Selvedge is on behalf of a context, through an edge unit (R207). -/
def Ctx.agent (c : Ctx) (core unit : Nat) : Agent :=
  { core := core, unit := unit, asid := c.asid, root := c.root, fw := false, cls := c.cls, ctx := c.ctxid, resid := 0, tid := 0, lslot := 0, flat := false,
    bypass := true }

/-! ## Apertures (R200, R201, R202) -/

/-- Where a piece of an access lies: a scratchpad allocation and offset, or a virtual address. -/
inductive Place where
  | pad (pid off : Nat)
  | va (a : Nat)
  deriving DecidableEq, Repr

/-- A piece of an access that lies in one place: up to a page (R237), of a core's access up to a line. -/
structure Piece where
  place : Place
  len : Nat
  deriving DecidableEq, Repr

def scratchBase : Nat := 0xFF00 * 2 ^ 48
def clusterBase : Nat := 0xFF01 * 2 ^ 48
def localBase : Nat := 0xFF02 * 2 ^ 48

/-- A range of virtual addresses cut at the multiples of `k`. -/
def cutAt (k a n : Nat) : List Piece :=
  let first := a / k
  (List.range ((a + n - 1) / k - first + 1)).map fun i =>
    let lo := max a ((first + i) * k)
    ⟨.va lo, min (a + n) ((first + i + 1) * k) - lo⟩

/-- The pieces of a core's access: every line that it touches has its own tag, checks and translation (R205, R206), and no line spans pages. -/
def vaPieces (a n : Nat) : List Piece := cutAt 64 a n

/-- The pieces of an engine's transfer, of any length: one for each page (R237). -/
def vaRange (a n : Nat) : List Piece := cutAt 4096 a n

/-- The GLOBAL byte of byte `o` of lane `lane`'s stack (R201). LBASE has no upper limit: a byte that falls past 2^56 is walked by its address
bits 55:12 like any other (log 115). -/
def localByte (l : Launch) (slot lane o : Nat) : Nat := l.lbase + slot * W * l.lsize + o / 4 * (4 * W) + 4 * lane + o % 4

/-- The pieces of `n` bytes at offset `o` of a lane's stack: one for each aligned word it touches. -/
def localPieces (l : Launch) (slot lane o n : Nat) : List Piece :=
  (List.range ((o % 4 + n + 3) / 4)).map fun i =>
    let first := if i = 0 then o else (o / 4 + i) * 4
    ⟨.va (localByte l slot lane first), min (o + n) ((o / 4 + i + 1) * 4) - first⟩

/-- Whether a launch runs tile teams, whose frame pools outlive them until their frame completes (R409). -/
def Launch.isTiles (l : Launch) : Bool := match l.kind with | .tiles _ _ => true | _ => false

/-- The allocation that window `r` of a team's cluster launch names (R18, R200): a sibling that has exited has none, but for a frame pool; the
team's own serves its engine operations behind its end (R164). -/
def State.siblingPad (s : State) (t : Team) (r : Nat) : Option Pad :=
  match s.launch? t.lid with
  | none => none
  | some l =>
    if l.clsize = 0 then none
    else (s.teams.find? fun u => u.lid = t.lid && u.clusterNo = t.clusterNo && u.rank = r && (u.place ≠ .gone || l.isTiles || u.tid = t.tid)).bind
      fun u => s.pad? u.pad

/-- The aperture of `n` bytes at a generic address and the pieces they are in, or nothing where R167 and R200
reject the access: apertures 0 LOCAL, 1 SCRATCH, 2 CLUSTER, 3 GLOBAL. -/
def State.decodeAddr (s : State) (ag : Agent) (lane a n : Nat) : Option (Nat × List Piece) :=
  if a < 2 ^ 56 then if a + n ≤ 2 ^ 56 then some (3, vaPieces a n) else none
  else if a < scratchBase then none
  else if a < clusterBase then
    match (s.team? ag.tid).bind fun t => s.pad? t.pad with
    | some p => if a - scratchBase + n ≤ p.len then some (1, [⟨.pad p.pid (a - scratchBase), n⟩]) else none
    | none => none
  else if a < localBase then
    let o := a - clusterBase
    if 2 ^ 21 ≤ o then none
    else match (s.team? ag.tid).bind fun t => s.siblingPad t (o / 2 ^ 19) with
      | some p => if o % 2 ^ 19 + n ≤ p.len then some (2, [⟨.pad p.pid (o % 2 ^ 19), n⟩]) else none
      | none => none
  else
    let o := a - localBase
    match (s.team? ag.tid).bind fun t => s.launch? t.lid with
    | some l => if l.lslots ≠ 0 && o + n ≤ l.lsize then some (0, localPieces l ag.lslot lane o n) else none
    | none => none

/-! ## Page tables (R208, R209, R210) -/

/-- The physical key of address `a` on module `m` (R225). -/
def remoteBase : Nat := 2 ^ 52
def modulePa (s : State) (m a : Nat) : Nat := if m = s.net.moduleNo then a else remoteBase + m * 2 ^ 46 + a

/-- The page kind of a KIND field; 11 is reserved. -/
def pageKind (k : Nat) : Option PageKind := if k = 0 then some .rc else if k = 1 then some .so else if k = 2 then some .uo else none

/-- The translation that a leaf at a level gives, or nothing where R210 faults. -/
def leafOf (s : State) (unit asid va level e : Nat) : Option Tlb :=
  let s64 := e / 2 ^ 7 % 2
  let bits := if level = 2 then 30 else if level = 1 then 21 else if s64 = 1 then 16 else 12
  let addr := e / 2 ^ 12 % 2 ^ 40 * 2 ^ 12
  let rm := e / 2 ^ 11 % 2
  let mod := e / 2 ^ 52 % 2 ^ 10
  match pageKind (e / 2 ^ 5 % 4) with
  | none => none
  | some k =>
    if e / 2 ^ 62 ≠ 0 || e / 2 ^ 8 % 8 ≠ 0 || addr % 2 ^ bits ≠ 0 || (s64 = 1 && level ≠ 0) || (rm = 0 && mod ≠ 0) ||
       (rm = 1 && 2 ^ 46 ≤ addr) then none
    else some { unit := unit, asid := asid, vbase := va / 2 ^ bits * 2 ^ bits, bits := bits,
                pbase := if rm = 1 then modulePa s mod addr else addr, kind := k, u := e / 16 % 2 = 1, x := e / 8 % 2 = 1, w := e / 4 % 2 = 1 }

def Tlb.pa (t : Tlb) (va : Nat) : Nat := t.pbase + (va - t.vbase)

/-- Whether a physical address is in the device register window, whose registers the manual does not place (R214). -/
def devicePa (pa : Nat) : Bool := 0x3F0000000000 ≤ pa && pa < 0x400000000000
/-- Whether module-local address `a` is backed, with `cap` units of 16 GiB of second tier (R214). -/
def backedLocal (cap a : Nat) : Bool :=
  a < 0x7735940000 || (0x100000000000 ≤ a && a < 0x200000000000) || devicePa a || (0x10000000000 ≤ a && a < 0x10000000000 + cap * 2 ^ 34)
/-- Whether a physical address is backed and reachable (R214, R225). LPCAP tells what second tier this module has; another module's is taken
as fully fitted, since no rule lets this module read its capacity (log 101). -/
def State.backed (s : State) (pa : Nat) : Bool :=
  if pa < remoteBase then backedLocal Config.lpcap.val pa
  else s.net.reach.contains ((pa - remoteBase) / 2 ^ 46) && backedLocal 64 ((pa - remoteBase) % 2 ^ 46)

/-- What an access does: read, write, fetch, or a far atomic's read and write. -/
inductive Acc where | rd | wr | fetch | far
  deriving DecidableEq, Repr

/-- Whether a translation allows an access (R206, R210, R214). The home answers a far atomic to a module out of reach, after issue
(R252). -/
def State.allows (s : State) (ag : Agent) (acc : Acc) (t : Tlb) (va : Nat) : Bool :=
  (t.u || ag.fw) && ((acc ≠ .wr && acc ≠ .far) || t.w) && (acc ≠ .fetch || t.x) && (s.backed (t.pa va) || (acc = .far && remoteBase ≤ t.pa va))

/-! ## Write-back, homes and copies -/

/-- Whether a watch covers a byte. -/
def Monitor.covers (m : Monitor) (pad : Option Nat) (a : Nat) : Bool :=
  m.pad = pad && (match pad with | none => m.addr / 64 = a / 64 | some _ => m.addr / 4 * 4 ≤ a && a < m.addr + m.len)

/-- Watches that cover any of `n` bytes at a place fire (R187, R288). -/
def fireMonitors (ms : List Monitor) (pad : Option Nat) (a n : Nat) : List Monitor :=
  ms.map fun m => if (List.range n).any (fun i => m.covers pad (a + i)) then { m with fired := true } else m

/-- Invalidate the guest copies of the lines that `p` picks: the home's directory and the L2 lines that hold them (R217). -/
def MemSys.dropGuests (m : MemSys) (p : Nat → Bool) : MemSys :=
  { m with guests := m.guests.filter fun g => !p g.1
           l2 := m.l2.filter fun l => !(p l.line && m.guests.contains (l.line, l.slice)) }

/-- Write bytes at their home: the home's guest copies of the lines are invalidated and watches fire (R217, R230). -/
def State.writeHome (s : State) (pa : Nat) (bs : List Byte) : State :=
  (s.setMem (Memory.write s.mem pa bs)).setMsys
    { s.msys.dropGuests (fun ln => pa / 64 ≤ ln && ln ≤ (pa + bs.length - 1) / 64) with
      monitors := fireMonitors s.msys.monitors none pa bs.length }

/-- The 64 KiB region of a physical address (R216). -/
def regionOf (pa : Nat) : Nat := pa % 2 ^ 46 / 2 ^ 16

/-- The home a first touch gives, by requester: an edge unit of a cluster, a Selvedge's unit (96 + die), or the host
or another module (98) (R216). -/
def firstHome (unit region : Nat) : Nat :=
  if unit < 96 then unit else if unit < 98 then 48 * (unit - 96) + region % 48 else region % 96

/-- The first request to an empty region entry homes the region; device registers and other modules have no home
here (R215, R216, R226). -/
def State.touchHome (s : State) (unit pa : Nat) : State :=
  if remoteBase ≤ pa || devicePa pa then s
  else if s.msys.region.any fun r => r.1 = regionOf pa then s
  else s.setMsys { s.msys with region := s.msys.region ++ [(regionOf pa, firstHome unit (regionOf pa))] }

/-- The requests for a range home each region that it touches; they allocate no L2 line (log 75). -/
def State.touchRange (s : State) (unit a n : Nat) : State :=
  if n = 0 then s
  else (List.range ((a + n - 1) / 65536 - a / 65536 + 1)).foldl (fun (s : State) i => s.touchHome unit (65536 * (a / 65536 + i))) s

/-- Write each of a line's dirty bytes back to its home; a line whose region has lost its home gives it one (R216, R231). -/
def State.writeBack (s : State) (l : L1Line) : State :=
  if l.dirty = [] then s else l.dirty.foldl (fun s c => s.writeHome c.1 [c.2]) (s.touchHome (coreCluster l.core) (64 * l.pline))

/-- Write back the dirty bytes of the L1 lines that `p` picks; the lines stay, clean. -/
def State.cleanLines (s : State) (p : L1Line → Bool) : State :=
  let s' := (s.msys.l1.filter p).foldl State.writeBack s
  s'.setMsys { s'.msys with l1 := mapWhere p (fun l => { l with dirty := [] }) s'.msys.l1 }

/-- Force the releasers whose records `hit` picks to write back their dirty RC bytes, and drop the records (R241, R242): those of every
ASID, for a write of another context may happen before the release too, through an acquire on the releasing core (R240; log 111). -/
def State.force (s : State) (hit : Release → Bool) : State :=
  let cores := (s.msys.releases.filter hit).map (·.core)
  let s : State := s.cleanLines fun l => decide (l.kind = PageKind.rc) && cores.contains l.core
  s.setMsys { s.msys with releases := s.msys.releases.filter fun r => !hit r }

/-- Write back and drop the L1 lines that `p` picks (R206, R213, R231). -/
def State.dropLines (s : State) (p : L1Line → Bool) : State :=
  let s' := s.cleanLines p
  s'.setMsys { s'.msys with l1 := s'.msys.l1.filter fun l => !p l }

/-- Write back a core's dirty bytes of one physical line: its own later accesses at the home then follow them. -/
def State.flushLine (s : State) (core pline : Nat) : State := s.cleanLines fun l => l.core = core && l.pline = pline

/-- The unit through which firmware, command processor and dispatcher of a die request: that of the Treadle core's cluster (log 98). -/
def firmwareUnit (die : Nat) : Nat := 48 * die + 47

/-- The home slice of a physical address, once homed. -/
def State.homeOf (s : State) (pa : Nat) : Nat := ((s.msys.region.find? fun r => r.1 = regionOf pa).map (·.2)).getD 0

/-- The hash lane of a line (R219). -/
def hashLane (pa : Nat) : Nat := (List.range 10).foldl (fun x i => x ^^^ (pa / 2 ^ (6 + 4 * i) % 16)) 0

/-! ### L2 lines (R222, R223) -/

/-- The class quota in ways (R222). -/
def MemSys.classQuota (m : MemSys) (cls : Nat) : Nat := if cls = 0 then 4 else if cls = 1 then m.svQuota else if cls = 2 then m.bkQuota else 0

/-- The context's quota of ways. -/
def State.ctxQuota (s : State) (ctx cls : Nat) : Nat := ((s.ctx? ctx).map (·.quota)).getD (s.msys.classQuota cls)

/-- Whether a line of a set is above quota (R222). -/
def State.aboveQuota (s : State) (inSet : List L2Line) (l : L2Line) : Bool :=
  s.msys.classQuota l.cls < (inSet.filter fun k => k.cls = l.cls).length ||
  s.ctxQuota l.ctx l.cls < (inSet.filter fun k => k.ctx = l.ctx && k.cls = l.cls).length

/-- The least recently used of some lines. -/
def lruOf (ls : List L2Line) : Option L2Line :=
  ls.foldl (fun b l => match b with | none => some l | some k => if l.used < k.used then some l else some k) none

/-- The victim of a fill by class and context (R223): nothing to evict, a line, or no allocation. -/
def State.l2Victim (s : State) (inSet : List L2Line) (cls ctx : Nat) : Option (Option L2Line) :=
  if inSet.length < 16 then some none
  else match lruOf (inSet.filter fun l => l.cls = 3) with
    | some v => some (some v)
    | none =>
      if cls = 3 then none
      else
        let hi := inSet.filter (s.aboveQuota inSet)
        match lruOf (hi.filter fun l => l.cls = 2), lruOf (hi.filter fun l => l.cls = 1), lruOf (hi.filter fun l => l.cls = 0) with
        | some v, _, _ => some (some v)
        | none, some v, _ => some (some v)
        | none, none, some v => some (some v)
        | none, none, none =>
          match lruOf (inSet.filter fun l => l.ctx = ctx) with
          | some v => some (some v)
          | none => none

/-- An access to a line in a slice: a hit is used again, a miss fills; a guest copy that is evicted leaves its directory. -/
def State.l2Access (s : State) (slice pa cls ctx : Nat) : State :=
  let line := pa / 64
  let set := line % 2048
  let now := s.msys.l2Clock + 1
  if s.msys.l2.any fun l => l.slice = slice && l.line = line then
    s.setMsys { s.msys with l2Clock := now, l2 := mapWhere (fun l => l.slice = slice && l.line = line) (fun l => { l with used := now }) s.msys.l2 }
  else
    let inSet := s.msys.l2.filter fun l => l.slice = slice && l.set = set
    match s.l2Victim inSet cls ctx with
    | none => s
    | some v =>
      let kept := match v with | none => s.msys.l2 | some x => s.msys.l2.filter fun l => l ≠ x
      let guests := match v with | none => s.msys.guests | some x => s.msys.guests.filter fun g => g ≠ (x.line, x.slice)
      s.setMsys { s.msys with l2Clock := now, l2 := kept ++ [⟨slice, set, line, cls, ctx, now⟩], guests := guests }

/-- A request of a unit for a line at its home: first touch, the home's L2 line, and for a read of an RC or UO page
from another sector a guest copy (R216, R217, R223). -/
def State.request (s : State) (unit pa cls ctx : Nat) (guest : Bool) : State :=
  if remoteBase ≤ pa || devicePa pa then s
  else
    let s := s.touchHome unit pa
    let h := s.homeOf pa
    let s := s.l2Access h pa cls ctx
    if guest && unit < 96 && clusterSector unit ≠ h / 16 then
      let g := 16 * clusterSector unit + hashLane pa
      let s := s.l2Access g pa cls ctx
      if s.msys.guests.contains (pa / 64, g) || !(s.msys.l2.any fun l => l.slice = g && l.line = pa / 64) then s
      else s.setMsys { s.msys with guests := s.msys.guests ++ [(pa / 64, g)] }
    else s

/-! ### Walks (R207, R208, R210) -/

/-- The dirty bytes of RC pages that an acquire at a line, at MODULE scope and from outside every core, has written back (R208, R241). -/
def State.forcedCells (s : State) (line : Nat) : Memory :=
  (s.msys.l1.filter fun l => decide (l.kind = PageKind.rc) &&
    s.msys.releases.any fun r => r.line = line && 6 ≤ r.scope && r.core = l.core).flatMap (·.dirty)

/-- Memory once a walk has made its acquires at some lines. -/
def State.memSeen (s : State) (seen : List Nat) : Memory :=
  seen.foldl (fun m line => (s.forcedCells line).foldl (fun m c => Memory.poke m c.1 c.2) m) s.mem

/-- The address of the entry that a walk reads in a table at a level. -/
def entryAddr (va level table : Nat) : Nat :=
  table + 8 * (if level = 3 then va / 2 ^ 39 % 2 ^ 17 else va / 2 ^ (12 + 9 * level) % 512)

/-- An entry as the walker reads it at its home slice, as an LDACQ.64 at MODULE scope would, behind its acquires at the lines in `seen`. One
in the device register window is a free value (log 23); one at an address that is not backed is not valid (log 100). -/
def State.entry (s : State) (seen : List Nat) (a : Nat) : Nat :=
  if devicePa a then ofBytes ((List.range 8).map fun i => Config.deviceByte s.ctl.freeCtr (a + i))
  else if !s.backed a then 0
  else ofBytes (Memory.read (s.memSeen (seen ++ [a / 64])) a 8)

/-- The table that an entry at a level leads to; nothing where the walk ends there. -/
def nextTable (level e : Nat) : Option Nat :=
  if e % 2 = 0 || e / 2 % 2 = 1 || level = 0 || e / 2 ^ 52 ≠ 0 || e / 4 % 2 ^ 10 ≠ 0 then none else some (e / 2 ^ 12 % 2 ^ 40 * 2 ^ 12)

/-- The entries that a walk reads, from a table at a level downward. -/
def walkEntries (s : State) (va : Nat) : Nat → List Nat → Nat → List Nat
  | 0, _, _ => []
  | level + 1, seen, table =>
    let a := entryAddr va level table
    a :: match nextTable level (s.entry seen a) with
      | some t => walkEntries s va level (seen ++ [a / 64]) t
      | none => []

/-- The walk from a table at a level downward. -/
def walkFrom (s : State) (unit asid va : Nat) : Nat → List Nat → Nat → Option Tlb
  | 0, _, _ => none
  | level + 1, seen, table =>
    let a := entryAddr va level table
    let e := s.entry seen a
    let leaf := e / 2 % 2
    if e % 2 = 0 then none
    else if leaf = 1 then if level = 3 then none else leafOf s unit asid va level e
    else match nextTable level e with
      | some t => walkFrom s unit asid va level (seen ++ [a / 64]) t
      | none => none

/-- The translation that a walk of an agent's tables gives for a virtual address. Firmware that has no root table runs on physical
addresses, of 52 bits, executable and writable, page by page (log 13). -/
def State.walk (s : State) (ag : Agent) (va : Nat) : Option Tlb :=
  if ag.flat then if va < remoteBase then some ⟨ag.unit, ag.asid, va / 4096 * 4096, 12, va / 4096 * 4096, .so, false, true, true⟩ else none
  else walkFrom s ag.unit ag.asid va 4 [] ag.root

/-- The translation held by the agent's edge unit (R207). -/
def State.tlbHit (s : State) (ag : Agent) (va : Nat) : Option Tlb :=
  s.msys.tlb.find? fun t => t.unit = ag.unit && t.asid = ag.asid && t.vbase = va / 2 ^ t.bits * 2 ^ t.bits

/-- The L1 line of the agent's core that holds a virtual address (R205, R206), as the translation that filled it. -/
def State.l1Hit (s : State) (ag : Agent) (va : Nat) : Option Tlb :=
  (s.msys.l1.find? fun l => l.core = ag.core && l.asid = ag.asid && l.vline = va / 64).map fun l =>
    let base := l.vline * 64 / 2 ^ l.bits * 2 ^ l.bits
    ⟨ag.unit, ag.asid, base, l.bits, l.pline * 64 - (l.vline * 64 - base), l.kind, l.u, l.x, l.w⟩

/-- The translation of a virtual address: from the L1's own tag, for what goes through the L1; the edge unit; or a walk; and whether a walk
of tables. -/
def State.pageOf (s : State) (ag : Agent) (va : Nat) : Option (Tlb × Bool) :=
  match if ag.bypass then none else s.l1Hit ag va with
  | some t => some (t, false)
  | none => match s.tlbHit ag va with
    | some t => some (t, false)
    | none => (s.walk ag va).map fun t => (t, !ag.flat)

/-- What a walk does at the homes of the entries that it reads: requests in the class of the miss, each an acquire at MODULE scope. -/
def State.walkHomes (s : State) (ag : Agent) (va : Nat) : State :=
  (walkEntries s va 4 [] ag.root).foldl (fun (s : State) a =>
    (s.force fun r => r.line = a / 64 && 6 ≤ r.scope).request ag.unit a ag.cls ag.ctx false) s

/-- A walk that has found a translation installs it in the unit, unless the unit has it by now, from a walk for another miss on the page;
its 4,096 entries give up the oldest (log 4). -/
def State.install (s : State) (ag : Agent) (t : Tlb) (va : Nat) : State :=
  if (s.tlbHit ag va).isSome then s
  else
    let s := s.walkHomes ag va
    let mine := s.msys.tlb.filter fun x => x.unit = t.unit
    let kept := match mine with
      | old :: _ => if mine.length < 4096 then s.msys.tlb else s.msys.tlb.erase old
      | [] => s.msys.tlb
    s.setMsys { s.msys with tlb := kept ++ [t] }

/-- What a walk for a virtual address leaves, where it needs one (R207, R208): it has gone to the homes of its entries, and installs the
translation that it has found if `ok` has it so. -/
def State.walkVa (s : State) (ag : Agent) (ok : Tlb → Bool) (va : Nat) : State :=
  match s.pageOf ag va with
  | some (t, true) => if ok t then s.install ag t va else s.walkHomes ag va
  | some (_, false) => s
  | none => if ag.flat then s else s.walkHomes ag va

/-- What an access that faults leaves of its walks: a translation that forbids the access is not installed (R210). -/
def State.tryPieces (s : State) (ag : Agent) (acc : Acc) (ps : List Piece) : State :=
  ps.foldl (fun (s : State) p => match p.place with | .va a => s.walkVa ag (fun t => s.allows ag acc t a) a | .pad _ _ => s) s

/-! ### The L1 (R205, R206, R89) -/

/-- An L1 line leaves for another, or at a turn that evicts it: its dirty bytes go home, and the victim array records its tag. -/
def State.evictLine (s : State) (old : L1Line) : State :=
  (s.dropLines fun l => l.core = old.core && l.vline = old.vline && l.asid = old.asid).modCore old.core fun c =>
    { c with victims := (⟨old.vline, old.asid, old.touch⟩ :: c.victims).take 256 }

/-- A miss translates to a physical line: the same L1's line of it under another tag is written back and dropped (R206). -/
def State.dropAlias (s : State) (ag : Agent) (t : Tlb) (va : Nat) : State :=
  s.dropLines fun l => l.core = ag.core && l.pline = t.pa va / 64 && !(l.vline = va / 64 && l.asid = ag.asid)

/-- Hold a line for an agent: a full set gives up its oldest line (log 4), whose tag the victim array records. -/
def State.fillL1 (s : State) (ag : Agent) (t : Tlb) (va : Nat) : State :=
  let pl := t.pa va / 64
  let vl := va / 64
  let inSet := s.msys.l1.filter fun l => l.core = ag.core && l.vline % 256 = vl % 256
  let s := match inSet with
    | old :: _ =>
      if inSet.length < 8 then s else s.evictLine old
    | [] => s
  s.setMsys { s.msys with l1 := s.msys.l1 ++ [⟨ag.core, ag.asid, vl, pl, t.bits, t.kind, t.u, t.x, t.w, [], ag.resid⟩] }

/-- Make the line of a cached access present: an L1 hit, or a miss, whose translation is in the unit or is walked and installed there, and
which requests the line and fills it. A load miss on a line that the victim array records for its group is a re-miss. -/
def State.bringLine (s : State) (ag : Agent) (t : Tlb) (va : Nat) (load : Bool) : State :=
  if (s.l1Hit ag va).isSome then
    s.setMsys { s.msys with l1 := mapWhere (fun l => l.core = ag.core && l.asid = ag.asid && l.vline = va / 64) (fun l => { l with touch := ag.resid }) s.msys.l1 }
  else
    let s := if ag.flat then s else s.install ag t va
    let s := if load && (s.core ag.core).victims.contains ⟨va / 64, ag.asid, ag.resid⟩
      then s.modCore ag.core fun c => { c with remiss := c.remiss + 1 } else s
    let s := (s.dropAlias ag t va).request ag.unit (t.pa va) ag.cls ag.ctx (load && t.kind ≠ .so)
    if t.kind = .so then s else s.fillL1 ag t va

/-- A byte as a core sees it: its own dirty byte, or the home's. -/
def State.byteAt (s : State) (core pa : Nat) : Byte :=
  match s.msys.l1.find? fun l => l.core = core && l.pline = pa / 64 with
  | some l => match l.dirty.find? fun c => c.1 = pa with
    | some c => c.2
    | none => Memory.byte s.mem pa
  | none => Memory.byte s.mem pa

/-- Keep a dirty byte in its line, in order of address. -/
def setDirty : Memory → Nat → Byte → Memory
  | [], a, b => [(a, b)]
  | (k, c) :: t, a, b => if k = a then (a, b) :: t else if a < k then (a, b) :: (k, c) :: t else (k, c) :: setDirty t a b

/-- A plain store of one byte: dirty in the L1 for RC and UO, at the home for SO (R231). -/
def State.storeByte (s : State) (ag : Agent) (kind : PageKind) (pa : Nat) (b : Byte) : State :=
  if kind = .so then s.writeHome pa [b]
  else s.setMsys { s.msys with l1 := mapWhere (fun l => l.core = ag.core && l.pline = pa / 64) (fun l => { l with dirty := setDirty l.dirty pa b }) s.msys.l1 }

/-! ## Lazy release (R238 to R243) -/

/-- An acquire at a line by a core at a scope: the recorded releasers within reach of both scopes write back their
dirty RC bytes, and their records are dropped (R229, R241, R242). -/
def State.acquireLine (s : State) (core scope line : Nat) : State :=
  if scope ≤ 2 then s
  else
    s.force fun r => r.line = line && r.core ≠ core && scopeIncludes r.scope r.core core && scopeIncludes scope core r.core

/-- An acquire from outside every core, which releases of scope `least` or wider reach: 8 for the host port (R243), 7
for another module. -/
def State.acquireOutside (s : State) (least line : Nat) : State := s.force fun r => r.line = line && least ≤ r.scope

/-- A release recorded at a line: at most four; a fifth forces the oldest to write back (R242). -/
def State.recordRelease (s : State) (core asid scope line : Nat) : State :=
  if scope ≤ 2 then s
  else
    let others := s.msys.releases.filter fun r => r.line = line && !(r.core = core && r.asid = asid && r.scope = scope)
    let s := match others with
      | old :: _ => if others.length < 4 then s else s.force fun r => r = old
      | [] => s
    let new : Release := ⟨line, core, asid, scope⟩
    s.setMsys { s.msys with releases := (s.msys.releases.filter fun r => r ≠ new) ++ [new] }

/-! ## Scratchpad (R203, R204, R236) -/

/-- The bytes of an allocation. -/
def State.padBytes (s : State) (pid off n : Nat) : List Byte :=
  match s.pad? pid with
  | some p => Memory.read p.bytes off n
  | none => List.replicate n 0

/-- Write bytes of an allocation; watched words fire (R187). -/
def State.writePad (s : State) (pid off : Nat) (bs : List Byte) : State :=
  match s.pad? pid with
  | some p =>
    let s := s.putPad { p with bytes := Memory.write p.bytes off bs }
    s.setMsys { s.msys with monitors := fireMonitors s.msys.monitors (some pid) off bs.length }
  | none => s

/-! ## Accesses piece by piece -/

/-- A translated piece: scratchpad, or memory with its page, and whether its translation came from a walk. -/
inductive Spot where
  | pad (pid off : Nat)
  | mem (va : Nat) (page : Tlb) (walked : Bool)
  deriving DecidableEq, Repr

/-- A translated piece and its length. -/
structure Bit where
  spot : Spot
  len : Nat
  deriving DecidableEq, Repr

/-- The outcome of checking a piece (R168 from HARVEST_SO on): the trap code it raises, or the translated piece.
A harvest context (class 3) on an SO page raises HARVEST_SO; an instruction fetch does not: R33 gives a fetch that fails PAGE_FAULT or
ACCESS alone, though it has the checks of a data read (log 85). -/
def State.checkPiece (s : State) (ag : Agent) (acc : Acc) (p : Piece) : Except Nat Bit :=
  match p.place with
  | .pad pid off => .ok ⟨.pad pid off, p.len⟩
  | .va a =>
    match s.pageOf ag a with
    | none => .error 0x08
    | some (t, walked) =>
      if ag.cls = 3 && t.kind = .so && acc ≠ .fetch then .error 0x10
      else if s.allows ag acc t a then .ok ⟨.mem a t walked, p.len⟩
      else .error 0x09

/-- The rank of a trap in the order of R168. -/
def trapRank (c : Nat) : Nat := if c = 0x07 then 1 else if c = 0x0A then 2 else if c = 0x10 then 3 else if c = 0x08 then 4 else 5

/-- The first of several trap codes in the order of R168. -/
def firstTrap (cs : List Nat) : Option Nat :=
  cs.foldl (fun b c => match b with | none => some c | some d => if trapRank c < trapRank d then some c else some d) none

/-- The codes that some pieces raise, or all of them translated. -/
def State.checkPieces (s : State) (ag : Agent) (acc : Acc) : List Piece → Except Nat (List Bit)
  | [] => .ok []
  | p :: ps =>
    match s.checkPiece ag acc p, s.checkPieces ag acc ps with
    | .ok b, .ok bs => .ok (b :: bs)
    | .error c, .ok _ => .error c
    | .ok _, .error c => .error c
    | .error c, .error d => .error (if trapRank d < trapRank c then d else c)

/-- Check `n` bytes at a generic address for a lane, with an alignment: the trap code or the translated pieces
(R167, R168); `aps` are the apertures that the instruction reaches. -/
def State.checkAccess (s : State) (ag : Agent) (acc : Acc) (aps : List Nat) (align lane a n : Nat) : Except Nat (List Bit) :=
  if a % align ≠ 0 then .error 0x07
  else match s.decodeAddr ag lane a n with
    | none => .error 0x0A
    | some (ap, ps) => if aps.contains ap then s.checkPieces ag acc ps else .error 0x0A

/-- Whether a translated piece lies in the device register window. -/
def Bit.isDevice (b : Bit) : Bool :=
  match b.spot with
  | .pad _ _ => false
  | .mem va t _ => devicePa (t.pa va)

/-- Make the line of a translated piece of a core's load or store present. -/
def State.bringBit (s : State) (ag : Agent) (load : Bool) (b : Bit) : State :=
  match b.spot with
  | .pad _ _ => s
  | .mem va t _ => if b.isDevice then s.tick else s.bringLine ag t va load

/-- The bytes of a translated piece as a core sees them; a device register reads as a free value (log 23). -/
def State.readBit (s : State) (core : Nat) (b : Bit) : List Byte :=
  match b.spot with
  | .pad pid off => s.padBytes pid off b.len
  | .mem va t _ => (List.range b.len).map fun i => if b.isDevice then Config.deviceByte s.ctl.freeCtr (t.pa va + i) else s.byteAt core (t.pa va + i)

def State.readBits (s : State) (core : Nat) (bs : List Bit) : List Byte := bs.flatMap (s.readBit core)

/-- Store bytes to a translated piece as a plain store; the device register window holds no register that the manual places (log 23). -/
def State.storeBit (s : State) (ag : Agent) (b : Bit) (bs : List Byte) : State :=
  match b.spot with
  | .pad pid off => s.writePad pid off (bs.take b.len)
  | .mem va t _ =>
    if b.isDevice then s else
    (List.range b.len).foldl (fun s i => s.storeByte ag t.kind (t.pa va + i) (bs.getD i 0)) s

/-- A key for 64 bytes of scratchpad among the synchronisation lines of R242, above every memory line. -/
def padLine (pid off : Nat) : Nat := 2 ^ 60 + pid * 2 ^ 20 + off / 64

/-- The lines that a translated piece touches. -/
def Bit.lines (b : Bit) : List Nat :=
  match b.spot with
  | .pad pid off => (List.range ((off + b.len - 1) / 64 - off / 64 + 1)).map fun i => padLine pid (off + 64 * i)
  | .mem va t _ => (List.range ((t.pa va + b.len - 1) / 64 - t.pa va / 64 + 1)).map fun i => t.pa va / 64 + i

/-- Write back a core's dirty bytes of every line that a piece touches: its own later accesses at the homes then follow them. -/
def State.flushBit (s : State) (core : Nat) (b : Bit) : State := s.cleanLines fun l => l.core = core && b.lines.contains l.pline

/-- The requests of an agent for the lines of a translated piece. -/
def State.requestBit (s : State) (ag : Agent) (guest : Bool) (b : Bit) : State :=
  b.lines.foldl (fun (s : State) ln => s.request ag.unit (64 * ln) ag.cls ag.ctx guest) s

/-- Store bytes to a translated piece at its home at once, behind the core's own dirty bytes (R231, R170). -/
def State.homeBit (s : State) (ag : Agent) (b : Bit) (bs : List Byte) : State :=
  match b.spot with
  | .pad pid off => s.writePad pid off (bs.take b.len)
  | .mem va t _ =>
    if b.isDevice then s else ((s.flushBit ag.core b).requestBit ag false b).writeHome (t.pa va) (bs.take b.len)

/-- Give each piece its share of a value's bytes. -/
def overBits {α : Type} (f : α → Bit → List Byte → α) : α → List Bit → List Byte → α
  | s, [], _ => s
  | s, b :: bs, v => overBits f (f s b v) bs (v.drop b.len)

def State.storeBits (s : State) (ag : Agent) (bs : List Bit) (v : List Byte) : State := overBits (fun s b v => s.storeBit ag b v) s bs v
def State.homeBits (s : State) (ag : Agent) (bs : List Bit) (v : List Byte) : State := overBits (fun s b v => s.homeBit ag b v) s bs v

/-! ## Engine accesses: at the home, behind the issuing core's own dirty bytes (R246) -/

/-- The bytes an engine reads at a translated piece. -/
def State.engineRead (s : State) (ag : Agent) (b : Bit) : State × List Byte :=
  match b.spot with
  | .pad pid off => (s, s.padBytes pid off b.len)
  | .mem va t walked =>
    let s := if walked then s.install ag t va else s
    if b.isDevice then (s.tick, s.readBit ag.core b) else
    let s := (s.flushBit ag.core b).requestBit ag (t.kind ≠ .so) b
    (s, Memory.read s.mem (t.pa va) b.len)

/-- The bytes an engine reads at translated pieces, in order. -/
def State.engineReads (s : State) (ag : Agent) : List Bit → State × List Byte
  | [] => (s, [])
  | b :: bs =>
    let (s, v) := s.engineRead ag b
    let (s, w) := s.engineReads ag bs
    (s, v ++ w)

/-- An engine's write of a translated piece. -/
def State.engineWrite (s : State) (ag : Agent) (b : Bit) (v : List Byte) : State :=
  match b.spot with
  | .pad pid off => s.writePad pid off (v.take b.len)
  | .mem va t walked => (if walked then s.install ag t va else s).homeBit ag b v

def State.engineWrites (s : State) (ag : Agent) (bs : List Bit) (v : List Byte) : State := overBits (fun s b v => s.engineWrite ag b v) s bs v

/-- What an engine's access leaves of its walk at the address where it faults. -/
def State.tryVa (s : State) (ag : Agent) (acc : Acc) (a : Nat) : State := if a < 2 ^ 56 then s.tryPieces ag acc [⟨.va a, 1⟩] else s

/-- Check a virtual range for an engine: the trap code and the first faulting page's address, or translated pieces. -/
def State.checkRange (s : State) (ag : Agent) (acc : Acc) (a n : Nat) : Except (Nat × Nat) (List Bit) :=
  if n = 0 then .ok []
  else if 2 ^ 56 < a + n then .error (0x08, a)
  else (vaRange a n).foldr (fun p r =>
    match s.checkPiece ag acc p with
    | .ok b => match r with | .ok bs => .ok (b :: bs) | .error e => .error e
    | .error c => .error (c, match p.place with | .va x => x | .pad _ o => o)) (.ok [])

end Sys2Proof.Machine
end

