-- ==== Sys2Proof/Machine/Ops.lean ====
section
/-! DEFINITION. Shared operations of the core: the issuing fragment, the result queue and the registers, taking a
trap and returning from one, divergence, events to the host. -/

namespace Sys2Proof.Machine

/-! ## Slots and queues of a group (R75, R79, R84) -/

def Group.slot? (g : Group) (i : Nat) : Option Slot := if i = 0 then g.slot0 else g.slot1
def Group.setSlot (g : Group) (i : Nat) (o : Option Slot) : Group := if i = 0 then { g with slot0 := o } else { g with slot1 := o }
def Group.queue (g : Group) (i : Nat) : List QEntry := if i = 0 then g.q0 else g.q1
def Group.setQueue (g : Group) (i : Nat) (q : List QEntry) : Group := if i = 0 then { g with q0 := q } else { g with q1 := q }
/-- Empty the result queue of a slot (R80). -/
def Group.emptyQueue (g : Group) (i : Nat) : Group := g.setQueue i []
/-- Shift entries in, the first becoming ^1; a queue holds 16 (R42, R79). -/
def Group.push (g : Group) (i : Nat) (es : List QEntry) : Group := g.setQueue i ((es ++ g.queue i).take 16)

/-- Divergence stack pointer (R84). -/
def Group.dsp (g : Group) : Nat := g.dstack.length

def Group.nLane (g : Group) (r l : Nat) : Word := (g.regs.n.getD r []).getD l 0
def Group.gReg (g : Group) (r : Nat) : Word := g.regs.g.getD r 0
/-- A predicate; K0 reads as all ones (R75). -/
def Group.kReg (g : Group) (k : Nat) : LaneMask := if k = 0 then BitVec.allOnes 64 else g.regs.k.getD k 0

/-- Write a predicate; a write to K0 is ignored (R46, R75). -/
def Group.setK (g : Group) (k : Nat) (v : LaneMask) : Group :=
  if k = 0 then g else { g with regs := { g.regs with k := g.regs.k.set k v } }
/-- Write a G register. -/
def Group.setG (g : Group) (r : Nat) (v : Word) : Group := { g with regs := { g.regs with g := g.regs.g.set r v } }
/-- Write an N register in the lanes of a mask. -/
def Group.setN (g : Group) (r : Nat) (m : LaneMask) (v : Nat → Word) : Group :=
  { g with regs := { g.regs with n := g.regs.n.modify r fun old => old.mapIdx fun l w => if m.getLsbD l then v l else w } }

/-- The MODE fields (R47). -/
def Group.type (g : Group) : Nat := (g.mode.extractLsb' 0 4).toNat
def Group.round (g : Group) : Nat := (g.mode.extractLsb' 4 3).toNat
def Group.sat (g : Group) : Bool := g.mode.getLsbD 7
def Group.guardK (g : Group) : Nat := (g.mode.extractLsb' 8 3).toNat
def Group.guardNeg (g : Group) : Bool := g.mode.getLsbD 11

/-- The PC of a slot's issue unit: its LIT, if it has issued one (R39). -/
def Slot.unitPc (sl : Slot) : Addr := match sl.lit with | some x => x.addr | none => sl.pc
/-- A slot with no issue unit begun. -/
def Slot.rewind (sl : Slot) : Slot := { sl with pc := sl.unitPc, lit := none }
/-- A new slot for a fragment (R84). -/
def Slot.at (pc : Addr) (mask : LaneMask) (join : Option Nat) : Slot := ⟨pc, mask, join, none, 0, none, none⟩

/-! ## The issuing fragment (R84, R88) -/

/-- The group, its slot number and the slot that has the turn. -/
structure Frag where
  g : Group
  slot : Nat
  sl : Slot
  deriving DecidableEq, Repr

/-- Whether a slot parked so issues its instruction again at its turn. -/
def Park.again : Park → Bool
  | .tlwait => true
  | .srpost => true
  | .srtake => true
  | .srwait => true
  | .gang => true
  | .latch => true
  | .replay => true
  | .tkget _ _ again => again
  | _ => false

/-- Whether a group may issue: its team runs, it is not parked by a trap, and it waits for no shootdown (R98, R198). -/
def State.mayIssue (s : State) (g : Group) : Bool :=
  g.phase = .none && !(s.msys.shootdowns.any fun d => d.waiter.any fun w => w.1 = g.gid) &&
  (g.fw || (s.teamOf g).any fun t => t.place = .running)

/-- Whether a slot may issue: it is not stopped and not in a wait that an event ends. -/
def Slot.mayIssue (sl : Slot) : Bool := sl.stop.isNone && sl.park.all Park.again

/-- The waits that park the group as a whole: TLWAIT (R28), GROW (R165), HALT (R196); the others park the fragment. -/
def Park.whole : Park → Bool
  | .tlwait => true
  | .grow _ => true
  | .halt _ => true
  | _ => false

/-- Whether the wait of a slot keeps the group's other slot from issuing. -/
def Group.heldFrom (g : Group) (slot : Nat) : Bool := (g.slot? (1 - slot)).any fun o => o.park.any Park.whole

/-- The fragment whose turn it is, if it may issue. -/
def State.frag? (s : State) : Option Frag :=
  match s.group? s.ctl.gid with
  | none => none
  | some g => match g.slot? s.ctl.slot with
    | none => none
    | some sl => if s.mayIssue g && sl.mayIssue && !g.heldFrom s.ctl.slot then some ⟨g, s.ctl.slot, sl⟩ else none

/-! ## Fetch (R33) -/

/-- The word at an address of a group's code, or the trap its fetch takes: APERTURE outside the GLOBAL aperture. -/
def State.fetchWord (s : State) (g : Group) (a : Nat) : Except Nat Word :=
  if 2 ^ 56 < a + 4 then .error 0x0A
  else match s.checkPieces (s.agentOf g) .fetch (vaPieces a 4) with
    | .error c => .error c
    | .ok bs => .ok (BitVec.ofNat 32 (ofBytes (s.readBits g.core bs)))

/-- What a fetch leaves in the fabric: its translation in the core's edge unit where a walk found it, and a home of its region; of one that
faults, its walk (R33, R207, R208, R216). -/
def State.touchWord (s : State) (g : Group) (a : Nat) : State :=
  let ps := if 2 ^ 56 < a + 4 then [] else vaPieces a 4
  let s := s.tryPieces (s.agentOf g) .fetch ps
  match s.fetchWord g a, s.pageOf (s.agentOf g) a with
  | .ok _, some (t, _) => s.touchHome (coreCluster g.core) (t.pa a)
  | _, _ => s

/-- A live mask word as a stop or a trap reads it; all state is live where it cannot be read (R38, R91; log 14). -/
def State.maskWord (s : State) (g : Group) (a : Nat) : Word :=
  match s.fetchWord g a with
  | .ok w => w
  | .error _ => 0xFFFFFFFF

/-! ## Events to the host (R442) -/

/-- The firmware of a die raises an event. -/
def State.postEvent (s : State) (die kind ctx a b : Nat) : State :=
  s.modDie die fun d => { d with raised := d.raised ++ [⟨kind, die, ctx, a, b⟩] }

/-! ## Stops (R91) -/

/-- Whether a parked slot is at a stop point. HALT is not one, nor is an instruction that is replayed. -/
def Park.stops : Park → Bool
  | .halt _ => false
  | .replay => false
  | _ => true

/-- A wait whose slot's PC lies `k` bytes further back: its successor is the same (R36). -/
def Park.longer (k : Nat) : Park → Park
  | .grow n => .grow (n + k)
  | .waitc w n => .waitc w (n + k)
  | .barw b p n => .barw b p (n + k)
  | .tkget n t a => .tkget (n + k) t a
  | .rgrp r w key n => .rgrp r w key (n + k)
  | .halt n => .halt (n + k)
  | p => p

/-- Stop a slot where it is parked, at the LIT of its unit if it has one (R39), all state live; a stop in RGRP withdraws the arrival. R91 gives the mask 0xFFFFFFFF to a slot stopped by
a parking instruction; one stopped at a GANG, at a latch wait or because its group is parked by a trap takes it too (log 87). -/
def Slot.stopHere (sl : Slot) : Slot :=
  { sl.rewind with stop := some 0xFFFFFFFF, park := if sl.lit.isSome then sl.park.map (Park.longer 8) else sl.park }

/-- Whether a group is parked by a trap, or as a whole in a wait at which it stops. -/
def Group.stopsWhole (g : Group) : Bool :=
  g.phase ≠ .none || [g.slot0, g.slot1].any fun o => o.any fun sl => sl.park.any fun p => p.whole && p.stops

/-- Stop what a pre-emption request stops at once: parked slots, and every slot of a group that is parked as a whole or by a trap. -/
def Group.settle (g : Group) : Group :=
  let f (o : Option Slot) : Option Slot := o.map fun sl =>
    if sl.stop.isSome then sl
    else if g.stopsWhole || sl.park.any Park.stops then sl.stopHere else sl
  { g with slot0 := f g.slot0, slot1 := f g.slot1 }

/-- Whether a meshlet group has executed an EMITV: until it ends it does not stop (R393). -/
def Group.emitting (g : Group) : Bool := g.vslots.any (·.emitted)

/-- Whether a group's team has a pre-emption request that can stop the group. -/
def State.preempting (s : State) (g : Group) : Bool := !g.emitting && (s.teamOf g).any fun t => t.preempt.isSome

/-- Store a group, stopping its slots where a request asks it. -/
def State.putStopping (s : State) (g : Group) : State := s.putGroup (if s.preempting g then g.settle else g)

/-! ## Waits that end (R92, R196) -/

/-- The slot after an instruction that goes on at `pc`. -/
def Slot.goTo (sl : Slot) (pc : Addr) : Slot := { sl with pc := pc, lit := none, issued := sl.issued + 1, park := none }

/-- The end of a wait: a parked slot that has not been stopped goes on `len` bytes on. -/
def Group.release (g : Group) (slot len : Nat) : Group :=
  match g.slot? slot with
  | some sl => if sl.stop.isSome then g else g.setSlot slot (some (sl.goTo (sl.pc + BitVec.ofNat 64 len)))
  | none => g

/-- How a slot of a group is parked in HALT, if it is: the bytes of the instruction. -/
def Group.halted (g : Group) (i : Nat) : Option Nat := match (g.slot? i).bind (·.park) with | some (.halt n) => some n | _ => none

/-- A slot that is parked in HALT goes on. -/
def Group.unhalt (g : Group) (i : Nat) : Group := match g.halted i with | some n => g.release i n | none => g

/-- A wake event of a die (R196): a halted group goes on, or the event is held for the next HALT. -/
def State.wake (s : State) (die : Nat) : State :=
  let wakes (g : Group) : Bool := g.fw && coreDie g.core = die
  if s.groups.any fun g => wakes g && ((g.halted 0).isSome || (g.halted 1).isSome) then
    s.setGroups (mapWhere wakes (fun g => (g.unhalt 0).unhalt 1) s.groups)
  else s.modDie die fun d => { d with wakeHeld := true }

/-! ## Taking a trap (R98, R99, R195) -/

/-- What a trap tells: CODE, AUX, ADDR, LANES. -/
structure Trap where
  code : Nat
  aux : Nat := 0
  addr : Nat := 0
  lanes : LaneMask
  deriving DecidableEq, Repr

/-- FWVEC with bits 1:0 of its low word 0 (R195). -/
def Die.vector (d : Die) : Addr := d.fwvec &&& ~~~3#64

/-- A group in FIRMWARE mode traps: FWEPC and FWCAUSE are written, its queues emptied, and the fragment goes on at
FWVEC (R195). -/
def State.trapFirmware (s : State) (f : Frag) (t : Trap) : State :=
  let d := coreDie f.g.core
  let s := s.modDie d fun x => { x with fwepc := f.sl.unitPc, fwcause := BitVec.ofNat 32 (t.aux * 65536 + t.code) }
  s.putGroup (((f.g.emptyQueue 0).emptyQueue 1).setSlot f.slot (some { f.sl.rewind with pc := (s.die d).vector, park := none }))

/-- The allotment in registers of an ALLOT code (R104, R282). -/
def allotRegs (code : Nat) : Nat := 8 * (code + 1)

/-- The offset of a group's record in its context's save area (R104). -/
def State.groupRecord (s : State) (g : Group) : Option Nat :=
  match s.teamOf g, s.launchOf g, s.ctxOf g with
  | some t, some l, some c => some (c.save + t.recOff + 64 + g.grpId * (10496 + 256 * allotRegs l.kd.allot))
  | _, _, _ => none

/-- The 32 bytes of a trap record (R99). -/
def TrapRec.bytes (t : TrapRec) : List Byte :=
  bytesOf t.code 2 ++ bytesOf t.aux 2 ++ bytesOf t.mask.toNat 4 ++ bytesOf t.pc.toNat 8 ++ bytesOf t.addr.toNat 8 ++ bytesOf t.lanes.toNat 8

/-- A group parks with its trap record, which is written into its record in the save area, and the Treadle core of its
die is told: a wake event of the die (R98, R196). `slot` is the slot that trapped. -/
def State.parkTrapped (s : State) (g : Group) (rec_ : TrapRec) (slot : Nat) : State :=
  let s := s.putStopping { g with trap := rec_, phase := .notified, trapSlot := slot }
  let s := match s.groupRecord g with
    | some a => (s.touchRange (coreCluster g.core) a 32).writeHome a rec_.bytes
    | none => s
  (s.modDie (coreDie g.core) fun d => { d with notices := d.notices ++ [g.gid] }).wake (coreDie g.core)

/-- Take a trap (R98, R99): the group parks with its record written, and the Treadle core of its die is told. The
fragment stays at the trapping word, or the LIT of its unit. `mask` is where the instruction's mask word lies, if
it has one. -/
def State.takeTrap (s : State) (f : Frag) (mask : Option Nat) (t : Trap) : State :=
  if f.g.fw then s.trapFirmware f t
  else
    let rec_ : TrapRec :=
      { code := t.code, aux := t.aux, mask := match mask with | some a => s.maskWord f.g a | none => 0xFFFFFFFF,
        pc := f.sl.unitPc, addr := BitVec.ofNat 64 t.addr, lanes := t.lanes }
    s.parkTrapped (f.g.setSlot f.slot (some { f.sl.rewind with park := none })) rec_ f.slot

/-- The mask word of the instruction at an address, if its P bit is set (R99). -/
def State.maskOfWord (s : State) (g : Group) (pc : Addr) : Word :=
  match s.fetchWord g pc.toNat with
  | .ok w => if w.getLsbD 30 then s.maskWord g (pc.toNat + 4) else 0xFFFFFFFF
  | .error _ => 0xFFFFFFFF

/-- A trap reported after issue (R252): the record names the instruction's address, AUX bit 2 is set; the group parks. In FIRMWARE mode it
is taken at FWVEC by the slot that issued the instruction, with FWEPC at it (R195); where that slot's fragment has ended since, by the
other one (log 99). -/
def State.trapLate (s : State) (g : Group) (slot : Nat) (pc : Addr) (aux addr : Nat) (lanes : LaneMask) : State :=
  if g.fw then
    let i := if (g.slot? slot).isSome then slot else 1 - slot
    match g.slot? i with
    | some sl => s.trapFirmware ⟨g, i, { sl with pc := pc, lit := none }⟩ ⟨0x09, aux ||| 4, addr, lanes⟩
    | none => s
  else s.parkTrapped g ⟨0x09, aux ||| 4, s.maskOfWord g pc, pc, BitVec.ofNat 64 addr, lanes⟩ 2

/-- Return from a firmware trap (R196): the fragment goes on at FWEPC with its queue empty. -/
def State.returnFirmware (s : State) (f : Frag) : State :=
  s.putGroup ((f.g.emptyQueue f.slot).setSlot f.slot
    (some { f.sl with pc := (s.die (coreDie f.g.core)).fwepc, lit := none, issued := f.sl.issued + 1 }))

/-- Return from a trap that firmware resumes (R80, R101): the group runs on from the recorded PC, `skip` bytes on for
a TRAP passed over, the trapping slot's queue emptied, and the other slot's kept, since only the trapping fragment is transferred (R80 names no slot; log 86).
An ARITH trap lets the instruction run once without it. -/
def Group.trapReturn (g : Group) (skip : Nat) : Group :=
  let g := match g.slot? g.trapSlot with
    | some sl => (g.emptyQueue g.trapSlot).setSlot g.trapSlot (some { sl with pc := sl.pc + BitVec.ofNat 64 skip })
    | none => g
  { g with phase := .none, arithSkip := if g.trap.code = 0x11 then g.trapSlot :: g.arithSkip else g.arithSkip }

/-! ## Going on (R36, R38, R91) -/

/-- The bytes of an instruction word with `ext` extension words of its own, and its mask word. -/
def unitLen (m : Marks) (ext : Nat) : Nat := 4 + 4 * ext + (if m.p then 4 else 0)

/-- Where an instruction's mask word lies, if it has one (R36). -/
def maskAt (sl : Slot) (m : Marks) (ext : Nat) : Option Nat := if m.p then some (sl.pc.toNat + 4 + 4 * ext) else none

/-- The sequential successor of the instruction (R36). -/
def Slot.succ (sl : Slot) (m : Marks) (ext : Nat) : Addr := sl.pc + BitVec.ofNat 64 (unitLen m ext)

/-- A slot stops after an instruction with P while its team has a request, and the core reads the mask word (R91). -/
def State.stopAt (s : State) (f : Frag) (m : Marks) (ext : Nat) (sl : Slot) : Slot :=
  match maskAt f.sl m ext with
  | some a => if s.preempting f.g && !f.g.fw then { sl with stop := some (s.maskWord f.g a) } else sl
  | none => sl

/-- The group after its fragment's instruction, with the fragment's slot set: ARITH raises again (R113). -/
def Group.issuedIn (g : Group) (slot : Nat) (sl : Option Slot) : Group :=
  { g.setSlot slot sl with arithSkip := g.arithSkip.filter (· ≠ slot) }

/-- The instruction has issued and the fragment goes on at its successor (`ext`: BRK's join word). -/
def State.goOn (s : State) (f : Frag) (m : Marks) (ext : Nat := 0) : State :=
  match s.group? f.g.gid with
  | none => s
  | some g =>
    match g.slot? f.slot with
    | none => s
    | some sl => s.putGroup (g.issuedIn f.slot (some (s.stopAt f m ext (sl.goTo (f.sl.succ m ext)))))

/-- The fragment parks at its instruction. -/
def State.park (s : State) (f : Frag) (p : Park) : State :=
  match s.group? f.g.gid with
  | none => s
  | some g => match g.slot? f.slot with
    | none => s
    | some sl => s.putStopping (g.setSlot f.slot (some { sl with park := some p }))

/-! ## Divergence (R84 to R87) -/

/-- The most recently pushed fragment entry, and the stack without it. -/
def popFrag : List DEntry → Option (DEntry × List DEntry)
  | [] => none
  | e :: t =>
    match popFrag t with
    | some (x, t') => some (x, e :: t')
    | none => match e with
      | .frag pc m j => some (.frag pc m j, t)
      | .record _ _ _ _ _ => none

/-- The oldest fragment entry, and the stack without it. -/
def popOldest : List DEntry → Option (DEntry × List DEntry)
  | [] => none
  | .frag pc m j :: t => some (.frag pc m j, t)
  | .record i a x r p :: t => (popOldest t).map fun y => (y.1, .record i a x r p :: y.2)

/-- The slot that a fragment entry becomes. -/
def DEntry.toSlot : DEntry → Option Slot
  | .frag pc m j => some (Slot.at pc m j)
  | .record _ _ _ _ _ => none

/-- Fill a free slot from the stack (R87). -/
def Group.refill (g : Group) (i : Nat) : Group :=
  match g.slot? i with
  | some _ => g
  | none => match popFrag g.dstack with
    | some (e, t) => ({ g with dstack := t }.setSlot i e.toSlot).emptyQueue i
    | none => g

/-- Place a fragment in the other slot, if it is free, or push it (R84, R87). -/
def Group.place (g : Group) (other : Nat) (pc : Addr) (mask : LaneMask) (join : Option Nat) : Group :=
  match g.slot? other with
  | none => (g.setSlot other (some (Slot.at pc mask join))).emptyQueue other
  | some _ => { g with dstack := g.dstack ++ [.frag pc mask join] }

/-- After a control transfer: a fragment that has issued 64 instructions in its slot, that transfer among them, gives it to the oldest fragment
that waits; one that has just stopped there keeps it (R87; log 102). -/
def Group.swap (g : Group) (i : Nat) : Group :=
  match g.slot? i with
  | none => g
  | some sl =>
    if sl.issued < 64 || sl.stop.isSome then g
    else match popOldest g.dstack with
      | some (e, t) => ({ g with dstack := t ++ [DEntry.frag sl.pc sl.mask sl.join] }.setSlot i e.toSlot).emptyQueue i
      | none => g

/-- The ids of the join records on the stack. -/
def joinIds (st : List DEntry) : List Nat := st.filterMap fun e => match e with | .record i _ _ _ _ => some i | .frag _ _ _ => none

/-- The lowest free join id, 0 to 63 (R85). -/
def freeJoin (st : List DEntry) : Nat := ((List.range 64).find? fun i => !(joinIds st).contains i).getD 0

/-- A join record by id. -/
def findJoin (st : List DEntry) (id : Nat) : Option DEntry :=
  st.find? fun e => match e with | .record i _ _ _ _ => i = id | .frag _ _ _ => false

/-- The stack without a record. -/
def dropJoin (st : List DEntry) (id : Nat) : List DEntry :=
  st.filter fun e => match e with | .record i _ _ _ _ => i ≠ id | .frag _ _ _ => true

/-- The bytes of a divergence entry (R106). -/
def DEntry.bytes : DEntry → List Byte
  | .frag pc m j => bytesOf m.toNat 8 ++ bytesOf 0 8 ++ bytesOf pc.toNat 8 ++ [0, 0xFF, BitVec.ofNat 8 (j.getD 0xFF), 0, 0, 0, 0, 0]
  | .record i a x r p => bytesOf x.toNat 8 ++ bytesOf r.toNat 8 ++ bytesOf a.toNat 8 ++
      [1, BitVec.ofNat 8 i, BitVec.ofNat 8 (p.getD 0xFF), 0, 0, 0, 0, 0]

/-- A little-endian field in memory. -/
def State.field (s : State) (a n : Nat) : Nat := ofBytes (Memory.read s.mem a n)

/-- A divergence entry as the record holds it (R106). -/
def State.loadEntry (s : State) (a : Nat) : DEntry :=
  let m := BitVec.ofNat 64 (s.field a 8)
  let addr := BitVec.ofNat 64 (s.field (a + 0x10) 8)
  let p := s.field (a + 0x1A) 1
  let link := if p = 0xFF then none else some p
  if s.field (a + 0x18) 1 = 0 then DEntry.frag addr m link
  else DEntry.record (s.field (a + 0x19) 1) addr m (BitVec.ofNat 64 (s.field (a + 8) 8)) link

/-- A fragment as it branches, joins or ends: its group's divergence stack is read from the record in place (R106). A group of
firmware has no record: its stack is the group's own. -/
def State.stacked (s : State) (f : Frag) : Frag :=
  match s.groupRecord f.g with
  | some a => { f with g := { f.g with dstack := (List.range f.g.dsp).map fun i => s.loadEntry (a + 0x2100 + 32 * i) } }
  | none => f

/-- The core's requests for `n` entries of a divergence stack at `a`, through the L2 with the context's class (R106). -/
def State.stackRequests (s : State) (g : Group) (a n : Nat) : State :=
  (List.range ((32 * n + 63) / 64)).foldl (fun (s : State) i => s.request (coreCluster g.core) (a + 64 * i) (s.clsOf g) (s.agentOf g).ctx false) s

/-- The core's requests where it reads a group's divergence stack and leaves it as it is (R106). -/
def State.stackRead (s : State) (g : Group) : State :=
  match s.groupRecord g with
  | some a => s.stackRequests g (a + 0x2100) g.dsp
  | none => s

/-- Store a group whose divergence stack may have changed; the stack lies in its record in the save area (R106). -/
def State.putDiverged (s : State) (g : Group) : State :=
  let old := ((s.group? g.gid).map (·.dstack)).getD []
  let s := s.putGroup g
  match s.groupRecord g with
  | some a =>
    if old = g.dstack then s
    else (s.stackRequests g (a + 0x2100) (max old.length g.dsp)).writeHome (a + 0x2100) (g.dstack.flatMap DEntry.bytes)
  | none => s

/-! ## FP exception counters (R153, R154) -/

/-- One counter takes an increment, saturating; whether it passes the threshold for the first time. -/
def bumpCounter (thr old n : Nat) (fired : Bool) : Nat × Bool :=
  let new := min (old + n) 0xFFFFFFFF
  (new, thr ≠ 0 && old < thr && thr ≤ new && !fired)

/-- Add event counts of a format, from an edge unit's cluster, to a context's counters, which its save area holds, and post threshold events
from the cluster's die. -/
def State.countEvents (s : State) (ctxid unit fmt : Nat) (counts : List Nat) : State :=
  (List.range 4).foldl (fun s e =>
    match s.ctx? ctxid with
    | none => s
    | some c =>
      let i := 4 * fmt + e
      let n := counts.getD e 0
      if n = 0 then s
      else
        let (v, post) := bumpCounter c.fpxThr (c.fpx.getD i 0) n (c.fired.getD i false)
        let s := s.putCtx { c with fpx := c.fpx.set i v, fired := if post then c.fired.set i true else c.fired }
        let s := (s.touchHome unit (c.save + 0xC0 + 4 * i)).writeHome (c.save + 0xC0 + 4 * i) (bytesOf v 4)
        if post then s.postEvent (unit / 48) 5 ctxid i v else s) s

end Sys2Proof.Machine
end

