-- ==== Sys2Proof/Machine/Operands.lean ====
section
/-! DEFINITION. Operands (R41 to R46, R79 to R82): source and destination codes, multi-word operands, the result
queue, the literal of a LIT, results that land at once and results that land later. -/

namespace Sys2Proof.Machine

/-! ## Word counts and elements by MODE type (R47, R107, R109) -/

/-- An element of an operand: an integer of a width, signed or not, or a floating value. -/
inductive Elem where
  | int (signed : Bool) (w : Nat)
  | flt (f : FFmt)
  deriving DecidableEq, Repr

/-- The element of a MODE type. -/
def elemOf (t : Nat) : Elem :=
  match t with
  | 0 => .int true 32
  | 1 => .int false 32
  | 2 => .int true 64
  | 3 => .int false 64
  | 4 => .int true 16
  | 5 => .int false 16
  | 6 => .flt f32
  | 7 => .flt f16
  | 8 => .flt bf16
  | _ => .flt f64

/-- Whether a type is packed: two 16-bit halves in a word. -/
def typePacked (t : Nat) : Bool := t = 4 || t = 5 || t = 7 || t = 8
/-- Whether a type is floating. -/
def typeFloat (t : Nat) : Bool := 6 ≤ t
/-- Words per operand of a type. -/
def typeWords (t : Nat) : Nat := if t = 2 || t = 3 || t = 9 then 2 else 1
/-- The index of a floating type among the counters (R153); 0xFF for an integer type (R113). -/
def typeFmt (t : Nat) : Nat := if t = 9 then 0 else if t = 6 then 1 else if t = 7 then 2 else if t = 8 then 3 else 0xFF

/-- The elements of an operand's value: itself, or its two halves, low half first. -/
def elemsOf (t v : Nat) : List Nat := if typePacked t then [v % 65536, v / 65536 % 65536] else [v]
/-- The value of elements. -/
def ofElems (t : Nat) (es : List Nat) : Nat := if typePacked t then es.getD 0 0 + 65536 * es.getD 1 0 else es.getD 0 0

/-! ## Codes (R41, R43, R44) -/

/-- An operand: its code and its words. -/
structure Opnd where
  code : Nat
  words : Nat
  deriving DecidableEq, Repr

/-- Whether each word of an operand named in an N register lies in the allotment (R44), and none passes the last
register of its kind (R43). -/
def Opnd.inAllot (o : Opnd) (allot : Nat) : Bool :=
  if o.code < 16 then o.code + o.words ≤ 16
  else if o.code < 56 then o.code - 16 + o.words ≤ min allot 40
  else o.code - 56 + o.words ≤ 8

/-- The same for a destination: `_` and `~` have no limit. -/
def Opnd.dstInAllot (o : Opnd) (allot : Nat) : Bool := o.code < 2 || (16 ≤ o.code && o.inAllot allot)

/-- The codes that an operand's words name. -/
def Opnd.codes (o : Opnd) : List Nat := (List.range o.words).map fun i => o.code + i

/-! ## Reading sources (R41, R42, R81, R82) -/

/-- The trap that reading one word takes: QUEUE_EMPTY, EXPIRED, NOT_READY. -/
def Frag.wordTrap (f : Frag) (c : Nat) : Option Nat :=
  if c < 16 then
    match (f.g.queue f.slot)[c]? with
    | none => some 0x05
    | some e => if e.transient && 3 ≤ c then some 0x06 else if e.pend then some 0x04 else none
  else if f.g.regs.pend.contains c then some 0x04 else none

/-- The first trap that reading some operands takes, in operand order (R55, condition 7; log 15). -/
def Frag.readTrap (f : Frag) (os : List Opnd) : Option Nat := (os.flatMap Opnd.codes).findSome? f.wordTrap

/-- A destination that names a pending named register traps NOT_READY (R81). -/
def Frag.dstTrap (f : Frag) (o : Opnd) : Option Nat :=
  if 16 ≤ o.code && o.codes.any f.g.regs.pend.contains then some 0x04 else none

/-- One word of a source in a lane. -/
def Frag.srcWord (f : Frag) (c l : Nat) : Word :=
  if c < 16 then match (f.g.queue f.slot)[c]? with | some e => e.vals.getD l 0 | none => 0
  else if c < 56 then f.g.nLane (c - 16) l
  else f.g.gReg (c - 56)

/-- A source of `n` words in a lane, lowest word first (R43). -/
def Frag.src (f : Frag) (c : Code) (n l : Nat) : Nat := valueOf ((List.range n).map fun i => f.srcWord (c.toNat + i) l)

/-- A LIT's literal as a B operand of `n` words (R40): widened by the MODE type; types that the rule does not name
are zero-extended (log 16). -/
def widenLit (t : Nat) (w : Word) (n : Nat) : Nat :=
  if n ≤ 1 then w.toNat
  else if t = 2 then unsignedOf 64 (signedOf 32 w.toNat)
  else if t = 9 then (fConvert f32 f64 0 w.toNat).1
  else w.toNat

/-- The B operand in a lane: the literal of the issue unit, or the source (R40). -/
def Frag.srcB (f : Frag) (c : Code) (n l : Nat) : Nat :=
  match f.sl.lit with
  | some x => widenLit f.g.type x.word n
  | none => f.src c n l

/-- The lowest lane of the fragment's mask, where barriers, monitors and system instructions read (R162, R180). -/
def Frag.low (f : Frag) : Nat := (lowestLane f.sl.mask).getD 0

/-- The C source of a C-format instruction: the destination itself, or an age (R35). -/
def cCode (d : Code) (x : BitVec 4) : Code := if x.toNat = 0 then d else BitVec.ofNat 6 (x.toNat - 1)

/-! ## Writing results (R41, R42, R43, R45) -/

/-- The entries that a result shifts in: the value in the lanes written, 0 in the others. -/
def newEntries (n : Nat) (vals : List Nat) (active : LaneMask) (transient : Bool) : List QEntry :=
  (List.range n).map fun i => ⟨vals.mapIdx fun l v => if active.getLsbD l then wordAt v i else 0, none, false, transient⟩

/-- Write a result's words to the registers a destination names: N registers in the active lanes, a G register from
the lowest active lane. -/
def Group.writeNamed (g : Group) (o : Opnd) (vals : List Nat) (active : LaneMask) : Group :=
  (List.range o.words).foldl (fun g i =>
    let c := o.code + i
    if c < 16 then g
    else if c < 56 then g.setN (c - 16) active fun l => wordAt (vals.getD l 0) i
    else match lowestLane active with
      | some l => g.setG (c - 56) (wordAt (vals.getD l 0) i)
      | none => g) g

/-- A result that is there at once. -/
def Group.writeResult (g : Group) (slot : Nat) (o : Opnd) (vals : List Nat) (active : LaneMask) : Group :=
  (g.writeNamed o vals active).push slot (newEntries o.words vals active (o.code = 1))

/-- The pending entries and registers of a long-latency result, and OSCOUNT (R81). -/
def Group.expect (g : Group) (slot : Nat) (o : Opnd) (oid : Nat) : Group :=
  let g := g.push slot ((List.range o.words).map fun i => ⟨List.replicate W 0, some (oid, i), true, false⟩)
  { g with regs := { g.regs with pend := g.regs.pend ++ (if o.code < 16 then [] else o.codes) }, oscount := g.oscount + 1 }

/-- Fill the queue entries that wait for a result. -/
def fillEntries (oid : Nat) (vals : List Nat) (active : LaneMask) (q : List QEntry) : List QEntry :=
  q.map fun e => match e.src with
    | some (o, i) => if o = oid then ⟨vals.mapIdx fun l v => if active.getLsbD l then wordAt v i else 0, e.src, false, e.transient⟩ else e
    | none => e

/-- A long-latency result returns: entries and registers are written, their marks cleared, OSCOUNT falls by one. -/
def Group.land (g : Group) (r : Outst) : Group :=
  let o : Opnd := ⟨r.dst.toNat, r.words⟩
  let g := g.writeNamed o r.vals r.mask
  { g with q0 := fillEntries r.oid r.vals r.mask g.q0, q1 := fillEntries r.oid r.vals r.mask g.q1,
           regs := { g.regs with pend := g.regs.pend.filter fun c => !(16 ≤ o.code && o.codes.contains c) },
           oscount := g.oscount - 1 }

/-- A fixed-latency result of a fragment: it is written as the instruction issues, so a lane operation of the other fragment that
reads it gets the value after the write, one of the two that R147 allows (log 96). -/
def State.result (s : State) (f : Frag) (d : Code) (n : Nat) (vals : List Nat) (active : LaneMask) : State :=
  match s.group? f.g.gid with
  | some g => s.putGroup (g.writeResult f.slot ⟨d.toNat, n⟩ vals active)
  | none => s

/-- A long-latency result of a fragment, under way: what it will write, and what it waits for. -/
def State.resultLater (s : State) (f : Frag) (d : Code) (n : Nat) (vals : List Nat) (active : LaneMask) (left : Nat) (kind : OutKind) : State :=
  let (oid, s) := s.fresh
  match s.group? f.g.gid with
  | some g => (s.putGroup (g.expect f.slot ⟨d.toNat, n⟩ oid)).addOut ⟨oid, f.g.gid, f.slot, d, n, active, vals, left, kind, f.sl.pc, false⟩
  | none => s

/-- The value of each lane of a group, by lane. -/
def perLane (v : Nat → Nat) : List Nat := laneNums.map v

end Sys2Proof.Machine
end

