-- ==== Sys2Proof/Machine/Flags.lean ====
section
/-! DEFINITION. The guard (R45, R53), predicate results, floating events and arithmetic trapping (R112, R113, R153). -/

namespace Sys2Proof.Machine

/-- The guard's lanes (R47). -/
def Group.guard (g : Group) : LaneMask := if g.guardNeg then ~~~(g.kReg g.guardK) else g.kReg g.guardK

/-- The active lanes of a guarded instruction (R45). -/
def Frag.active (f : Frag) : LaneMask := f.sl.mask &&& f.g.guard

/-- A predicate whose bits in the active lanes are `v` of the lane; the others keep theirs (R129, R144). -/
def predicate (old active : LaneMask) (v : Nat → Bool) : LaneMask :=
  laneNums.foldl (fun m l => if active.getLsbD l then (if v l then m ||| (1#64 <<< l) else m &&& ~~~(1#64 <<< l)) else m) old

/-- Write a predicate result of a fragment. -/
def State.setPredicate (s : State) (f : Frag) (k : Code) (active : LaneMask) (v : Nat → Bool) : State :=
  match s.group? f.g.gid with
  | some g => s.putGroup (g.setK k.toNat (predicate (g.kReg k.toNat) active v))
  | none => s

/-- The events that lanes raise: for each lane, the event bits of each of its elements. -/
abbrev LaneEvents := List (List Nat)

/-- How many elements of active lanes raised event `e` (R153). -/
def countEvent (evs : LaneEvents) (active : LaneMask) (e : Nat) : Nat :=
  ((evs.mapIdx fun l es => if active.getLsbD l then (es.filter fun b => b / 2 ^ e % 2 = 1).length else 0)).sum

/-- The union of the events of lanes. -/
def unionEvents (evs : LaneEvents) (active : LaneMask) : Nat :=
  (evs.mapIdx fun l es => if active.getLsbD l then es.foldl (· ||| ·) 0 else 0).foldl (· ||| ·) 0

/-- The lanes of a mask that raised an event. -/
def eventLanes (evs : LaneEvents) (active : LaneMask) : LaneMask :=
  maskOf ((lanesOf active).filter fun l => (evs.getD l []).any fun b => b ≠ 0)

/-- Count the floating events of an instruction under a format (R153). -/
def State.countFp (s : State) (f : Frag) (fmt : Nat) (evs : LaneEvents) (active : LaneMask) : State :=
  if 4 < fmt then s
  else s.countEvents (s.ctxIdOf f.g) (coreCluster f.g.core) fmt ((List.range 4).map (countEvent evs active))

/-- Whether the context traps arithmetic events (R102, R113). -/
def State.trapsArith (s : State) (g : Group) : Bool := (s.ctxOf g).any fun c => c.trapArith

/-- The trap ARITH of an instruction's events (R113): AUX and LANES are of all lanes that raised one, those among them that a step of XRED or
XSCAN makes raise it while they are inactive (R149). -/
def State.trapArith (s : State) (f : Frag) (mask : Option Nat) (fmt : Nat) (evs : LaneEvents) (lanes : LaneMask) : State :=
  match s.group? f.g.gid with
  | some g => s.takeTrap { f with g := g } mask ⟨0x11, fmt % 256 * 256 + unionEvents evs lanes, 0, eventLanes evs lanes⟩
  | none => s

/-- Whether an instruction's events trap (R113): at least one active lane has raised one. -/
def State.arithTraps (s : State) (f : Frag) (evs : LaneEvents) (active : LaneMask) : Bool :=
  unionEvents evs active ≠ 0 && s.trapsArith f.g

/-- Count an instruction's events in the lanes `counted`, then go on with `k`, or trap ARITH with these lanes' events if an active lane has raised
one (R113). The instruction that firmware resumed at runs once with neither. -/
def State.withEventsIn (s : State) (f : Frag) (mask : Option Nat) (fmt : Nat) (evs : LaneEvents) (counted active : LaneMask) (k : State → State) : State :=
  if f.g.arithSkip.contains f.slot then k s
  else
    let s := s.countFp f fmt evs counted
    if s.arithTraps f evs active then s.trapArith f mask fmt evs counted else k s

/-- The same where the counts are made as the result is delivered (R360): `k` takes the counts that its delivery adds. Where the
instruction traps, they are made before the trap. -/
def State.withEventsLate (s : State) (f : Frag) (mask : Option Nat) (fmt : Nat) (evs : LaneEvents) (active : LaneMask) (k : List Nat → State → State) : State :=
  if f.g.arithSkip.contains f.slot then k [] s
  else if s.arithTraps f evs active then (s.countFp f fmt evs active).trapArith f mask fmt evs active
  else k ((List.range 4).map (countEvent evs active)) s

/-- The events of the active lanes. -/
def State.withEvents (s : State) (f : Frag) (mask : Option Nat) (fmt : Nat) (evs : LaneEvents) (active : LaneMask) (k : State → State) : State :=
  s.withEventsIn f mask fmt evs active active k

end Sys2Proof.Machine
end

