-- ==== Sys2Proof/Machine/Issue.lean ====
section
/-! DEFINITION. Issue (R53, R54, R55, R83, R89): what an instruction needs before it issues, the order in which its
checks trap, and the shapes that many meanings share. -/

namespace Sys2Proof.Machine

/-- The outcome of a step of this machine. -/
abbrev Out := Host.Outcome State Fault Refusal

/-- What an instruction needs of its fragment: the roles that permit it, whether only FIRMWARE mode may execute it,
conditions of its entry on its operands, whether the MODE type is defined for it, its sources (A first), its B
source (which a LIT replaces), its C source, its destination, whether it is long-latency, whether it is an LD or LDACQ. -/
structure Need where
  role : Bool := true
  priv : Bool := false
  legal : Bool := true
  typed : Bool := true
  srcs : List Opnd := []
  srcB : Option Opnd := none
  srcC : Option Opnd := none
  dst : Option Opnd := none
  late : Bool := false
  load : Bool := false
  deriving DecidableEq, Repr

/-- Roles that permit the engine instructions (R19). -/
def Role.copies (r : Role) : Bool := r = .copy || r = .any
def Role.matrices (r : Role) : Bool := r = .matrix || r = .any
def Role.vectors (r : Role) : Bool := r = .vector || r = .any

/-- The sources that are read: without B where the unit has a literal. -/
def Need.reads (n : Need) (f : Frag) : List Opnd := n.srcs ++ (if f.sl.lit.isSome then [] else n.srcB.toList) ++ n.srcC.toList

/-- Whether every register an instruction names lies in the allotment and within its kind (R43, R44). -/
def Need.inAllot (n : Need) (f : Frag) : Bool :=
  (n.srcs ++ n.srcB.toList ++ n.srcC.toList).all (fun o => o.inAllot f.g.allot) && n.dst.all fun o => o.dstInAllot f.g.allot

/-- Whether a group is resident on its core: it has not ended and its team runs. -/
def State.occupies (s : State) (g : Group) : Bool :=
  (g.slot0.isSome || g.slot1.isSome) && (g.fw || (s.teamOf g).any fun t => t.place = .running)

/-- A group's place among its core's residents for LD and LDACQ: the residency numbers that follow the pointer come
first, owner and ordinary groups before harvest groups (R89). -/
def State.loadRank (s : State) (g : Group) : Nat :=
  let ptr := (s.core g.core).ldPtr
  let key (h : Group) : Nat := (if s.clsOf h = 3 then 48 else 0) + (h.resid + 47 - ptr % 48) % 48
  (s.groups.filter fun h => h.core = g.core && s.occupies h && key h < key g).length

/-- Whether the LDCAP rule lets a group issue an LD or LDACQ (R89, R90). -/
def State.mayLoad (s : State) (g : Group) : Bool :=
  (s.ctxOf g).any (fun c => c.compat) || s.loadRank g < (s.core g.core).ldcap

/-- The fate of an instruction at issue: not ready, a trap, or it issues. -/
inductive Gate where
  | hold
  | trap (code : Nat)
  | go
  deriving DecidableEq, Repr

/-- The checks in the order of R55, behind the conditions under which the instruction is not ready (R83, R89). -/
def State.gate (s : State) (f : Frag) (i : Instr) (m : Marks) (n : Need) : Gate :=
  if (m.s || f.sl.lit.any fun x => x.sw) && f.g.oscount ≠ 0 then .hold
  else if n.late && 63 ≤ f.g.oscount then .hold
  else if n.load && !s.mayLoad f.g then .hold
  else if !n.role then .trap 0x01
  else if n.priv && !f.g.fw then .trap 0x0B
  else if !(i.wellFormed && n.inAllot f && n.legal) then .trap 0x02
  else if !n.typed then .trap 0x03
  else match f.readTrap (n.reads f) with
    | some c => .trap c
    | none => match n.dst.bind f.dstTrap with
      | some c => .trap c
      | none => .go

/-- Issue an instruction of the fragment whose turn it is: nothing happens if none may issue or it is not ready. -/
def issue (s : State) (i : Instr) (m : Marks) (n : Frag → Need) (body : Frag → Out) (ext : Nat := 0) : Out :=
  match s.frag? with
  | none => .next s
  | some f => match s.gate f i m (n f) with
    | .hold => .next s
    | .trap c => .next (s.takeTrap f (maskAt f.sl m ext) ⟨c, 0, 0, f.sl.mask⟩)
    | .go => body f

/-- A trap of execution (R55, condition 8). -/
def trapOut (s : State) (f : Frag) (m : Marks) (t : Trap) : Out := .next (s.takeTrap f (maskAt f.sl m 0) t)

/-! ## Shapes -/

/-- A lane-wise result of `w` words that is there at once. -/
def laneOp (s : State) (i : Instr) (m : Marks) (n : Frag → Need) (d : Code) (w : Frag → Nat) (v : Frag → Nat → Nat) : Out :=
  issue s i m n fun f => .next ((s.result f d (w f) (perLane (v f)) f.active).goOn f m)

/-- A lane-wise result whose elements may raise events, counted under format `fmt` (R112). -/
def laneEventOp (s : State) (i : Instr) (m : Marks) (n : Frag → Need) (d : Code) (w fmt : Frag → Nat) (v : Frag → Nat → Nat × List Nat) : Out :=
  issue s i m n fun f =>
    let rs := laneNums.map (v f)
    .next (s.withEvents f (maskAt f.sl m 0) (fmt f) (rs.map (·.2)) f.active fun s =>
      (s.result f d (w f) (rs.map (·.1)) f.active).goOn f m)

/-- The same for a long-latency instruction: the result lands when it returns (R81). -/
def laneLateOp (s : State) (i : Instr) (m : Marks) (n : Frag → Need) (d : Code) (w fmt : Frag → Nat) (v : Frag → Nat → Nat × List Nat) : Out :=
  issue s i m n fun f =>
    let rs := laneNums.map (v f)
    .next (s.withEvents f (maskAt f.sl m 0) (fmt f) (rs.map (·.2)) f.active fun s =>
      (s.resultLater f d (w f) (rs.map (·.1)) f.active 0 .alu).goOn f m)

/-- A predicate result in the active lanes. -/
def predOp (s : State) (i : Instr) (m : Marks) (n : Frag → Need) (k : Code) (v : Frag → Nat → Bool) : Out :=
  issue s i m n fun f => .next ((s.setPredicate f k f.active (v f)).goOn f m)

/-! ## Needs that many instructions share -/

def opnd (c : Code) (n : Nat) : Opnd := ⟨c.toNat, n⟩

/-- One-word operands: destination and sources. -/
def needD (d : Code) (f : Frag) : Need := let _ := f; { dst := some (opnd d 1) }
def needDA (d a : Code) (f : Frag) : Need := let _ := f; { srcs := [opnd a 1], dst := some (opnd d 1) }
def needDAB (d a b : Code) (f : Frag) : Need := let _ := f; { srcs := [opnd a 1], srcB := some (opnd b 1), dst := some (opnd d 1) }
def needDABC (d a b : Code) (x : BitVec 4) (f : Frag) : Need :=
  let _ := f
  { srcs := [opnd a 1], srcB := some (opnd b 1), srcC := some (opnd (cCode d x) 1), dst := some (opnd d 1) }

/-- Operands of the MODE type's words, for the types that `ok` allows (R107). -/
def typedDA (ok : Nat → Bool) (d a : Code) (f : Frag) : Need :=
  let n := typeWords f.g.type
  { typed := ok f.g.type, srcs := [opnd a n], dst := some (opnd d n) }
def typedDAB (ok : Nat → Bool) (d a b : Code) (f : Frag) : Need :=
  let n := typeWords f.g.type
  { typed := ok f.g.type, srcs := [opnd a n], srcB := some (opnd b n), dst := some (opnd d n) }
def typedDABC (ok : Nat → Bool) (d a b : Code) (x : BitVec 4) (f : Frag) : Need :=
  let n := typeWords f.g.type
  { typed := ok f.g.type, srcs := [opnd a n], srcB := some (opnd b n), srcC := some (opnd (cCode d x) n), dst := some (opnd d n) }

/-- The registers of FIRMWARE mode (R192). -/
def firmwareReg (r : Nat) : Bool := 0x100 ≤ r && r ≤ 0x104

/-- The types of R107. -/
def anyType (_ : Nat) : Bool := true
def intType (t : Nat) : Bool := t < 6
def wholeInt (t : Nat) : Bool := t < 4
def floatType (t : Nat) : Bool := 6 ≤ t
def cmpType (t : Nat) : Bool := t < 4 || t = 6 || t = 9

/-- The words of the MODE type. -/
def Frag.words (f : Frag) : Nat := typeWords f.g.type
/-- The format index under which the MODE type's events count. -/
def Frag.fmt (f : Frag) : Nat := typeFmt f.g.type

end Sys2Proof.Machine
end

