-- ==== Sys2Proof/Machine/Arith.lean ====
section
/-! DEFINITION. Typed integer and floating arithmetic (R107 to R113, R122 to R131, R134 to R136). -/

namespace Sys2Proof.Machine

/-! ## Element results -/

/-- An exact integer result in an integer element (R109): clamped under SAT, else reduced modulo 2^w. -/
def intResult (signed : Bool) (w : Nat) (sat : Bool) (z : Int) : Nat :=
  let lo : Int := if signed then -(2 : Int) ^ (w - 1) else 0
  let hi : Int := if signed then (2 : Int) ^ (w - 1) - 1 else (2 : Int) ^ w - 1
  unsignedOf w (if sat then max lo (min hi z) else z)

/-- An integer element's value. -/
def intValue (signed : Bool) (w v : Nat) : Int := if signed then signedOf w v else ((v % 2 ^ w : Nat) : Int)

/-- An operation of elements applied to each element of operands of a type: the value and each element's events. -/
def byElem (t : Nat) (op : List Nat → Nat × Nat) (args : List Nat) : Nat × List Nat :=
  let rs := (List.range (if typePacked t then 2 else 1)).map fun i => op (args.map fun v => (elemsOf t v).getD i 0)
  (ofElems t (rs.map (·.1)), rs.map (·.2))

/-- An element operation given by an exact integer function and a floating function. -/
def elemOp (t : Nat) (sat : Bool) (int : List Int → Int) (flt : FFmt → List Nat → Nat × Nat) : List Nat → Nat × Nat :=
  match elemOf t with
  | .int sg w => fun xs => (intResult sg w sat (int (xs.map (intValue sg w))), 0)
  | .flt f => flt f

/-- The operands of a lane under the MODE type. -/
def Frag.ab (f : Frag) (a b : Code) (l : Nat) : List Nat := [f.src a f.words l, f.srcB b f.words l]
def Frag.abc (f : Frag) (a b : Code) (d : Code) (x : BitVec 4) (l : Nat) : List Nat :=
  [f.src a f.words l, f.srcB b f.words l, f.src (cCode d x) f.words l]

def arg (xs : List Nat) (i : Nat) : Nat := xs.getD i 0
def argZ (xs : List Int) (i : Nat) : Int := xs.getD i 0

/-- ADD (R125). -/
def addElem (t rm : Nat) (sat : Bool) : List Nat → Nat × Nat :=
  elemOp t sat (fun z => argZ z 0 + argZ z 1) fun f x => fAdd f rm (arg x 0) (arg x 1)
/-- SUB (R125). -/
def subElem (t rm : Nat) (sat : Bool) : List Nat → Nat × Nat :=
  elemOp t sat (fun z => argZ z 0 - argZ z 1) fun f x => fSub f rm (arg x 0) (arg x 1)
/-- MUL (R125). -/
def mulElem (t rm : Nat) (sat : Bool) : List Nat → Nat × Nat :=
  elemOp t sat (fun z => argZ z 0 * argZ z 1) fun f x => fMul f rm (arg x 0) (arg x 1)
/-- MAD (R126). -/
def madElem (t rm : Nat) (sat : Bool) : List Nat → Nat × Nat :=
  elemOp t sat (fun z => argZ z 0 * argZ z 1 + argZ z 2) fun f x => fMad f rm (arg x 0) (arg x 1) (arg x 2)
/-- MIN and MAX (R125). -/
def minMaxElem (t : Nat) (isMax : Bool) : List Nat → Nat × Nat :=
  elemOp t false (fun z => if isMax then max (argZ z 0) (argZ z 1) else min (argZ z 0) (argZ z 1)) fun f x => fMinMax f isMax (arg x 0) (arg x 1)
/-- MULH (R125): the high w bits of the exact product. -/
def mulhElem (t : Nat) : List Nat → Nat × Nat :=
  match elemOf t with
  | .int sg w => fun x => (unsignedOf w (intValue sg w (arg x 0) * intValue sg w (arg x 1) / (2 : Int) ^ w), 0)
  | .flt _ => fun _ => (0, 0)
/-- ABS and NEG (R128). -/
def absElem (t : Nat) (sat : Bool) : List Nat → Nat × Nat :=
  elemOp t sat (fun z => ((argZ z 0).natAbs : Int)) fun f x => (fAbs f (arg x 0), 0)
def negElem (t : Nat) (sat : Bool) : List Nat → Nat × Nat :=
  elemOp t sat (fun z => -(argZ z 0)) fun f x => (fNeg f (arg x 0), 0)

/-- Integer DIV (R127). -/
def intDiv (signed : Bool) (w : Nat) (sat : Bool) (a b : Nat) : Nat × Nat :=
  let x := intValue signed w a
  let y := intValue signed w b
  if y = 0 then
    (if signed then (if 0 ≤ x then 2 ^ (w - 1) - 1 else 2 ^ (w - 1)) else 2 ^ w - 1, evDiv0)
  else (intResult signed w sat (Int.tdiv x y), 0)
/-- Integer REM (R127). -/
def intRem (signed : Bool) (w : Nat) (a b : Nat) : Nat × Nat :=
  let x := intValue signed w a
  let y := intValue signed w b
  if y = 0 then (a % 2 ^ w, evDiv0) else (unsignedOf w (Int.tmod x y), 0)
/-- DIV and REM (R127). -/
def divElem (t rm : Nat) (sat : Bool) : List Nat → Nat × Nat :=
  match elemOf t with
  | .int sg w => fun x => intDiv sg w sat (arg x 0) (arg x 1)
  | .flt f => fun x => fDiv f rm (arg x 0) (arg x 1)
def remElem (t : Nat) : List Nat → Nat × Nat :=
  match elemOf t with
  | .int sg w => fun x => intRem sg w (arg x 0) (arg x 1)
  | .flt f => fun x => fRem f (arg x 0) (arg x 1)

/-! ## ADD, SUB, MUL, MULH, MAD, MIN, MAX, ABS, NEG, DIV, REM -/

def execAdd (m : Marks) (d a b : Code) (s : State) : Out :=
  laneEventOp s (.add m d a b) m (typedDAB anyType d a b) d Frag.words Frag.fmt fun f l =>
    byElem f.g.type (addElem f.g.type f.g.round f.g.sat) (f.ab a b l)

def execSub (m : Marks) (d a b : Code) (s : State) : Out :=
  laneEventOp s (.sub m d a b) m (typedDAB anyType d a b) d Frag.words Frag.fmt fun f l =>
    byElem f.g.type (subElem f.g.type f.g.round f.g.sat) (f.ab a b l)

def execMul (m : Marks) (d a b : Code) (s : State) : Out :=
  laneEventOp s (.mul m d a b) m (typedDAB anyType d a b) d Frag.words Frag.fmt fun f l =>
    byElem f.g.type (mulElem f.g.type f.g.round f.g.sat) (f.ab a b l)

def execMulh (m : Marks) (d a b : Code) (s : State) : Out :=
  laneEventOp s (.mulh m d a b) m (typedDAB intType d a b) d Frag.words Frag.fmt fun f l =>
    byElem f.g.type (mulhElem f.g.type) (f.ab a b l)

def execMad (m : Marks) (d a b : Code) (c : BitVec 4) (s : State) : Out :=
  laneEventOp s (.mad m d a b c) m (typedDABC anyType d a b c) d Frag.words Frag.fmt fun f l =>
    byElem f.g.type (madElem f.g.type f.g.round f.g.sat) (f.abc a b d c l)

def execMin (m : Marks) (d a b : Code) (s : State) : Out :=
  laneEventOp s (.min m d a b) m (typedDAB anyType d a b) d Frag.words Frag.fmt fun f l =>
    byElem f.g.type (minMaxElem f.g.type false) (f.ab a b l)

def execMax (m : Marks) (d a b : Code) (s : State) : Out :=
  laneEventOp s (.max m d a b) m (typedDAB anyType d a b) d Frag.words Frag.fmt fun f l =>
    byElem f.g.type (minMaxElem f.g.type true) (f.ab a b l)

def execAbs (m : Marks) (d a : Code) (s : State) : Out :=
  laneEventOp s (.abs m d a) m (typedDA anyType d a) d Frag.words Frag.fmt fun f l =>
    byElem f.g.type (absElem f.g.type f.g.sat) [f.src a f.words l]

def execNeg (m : Marks) (d a : Code) (s : State) : Out :=
  laneEventOp s (.neg m d a) m (typedDA anyType d a) d Frag.words Frag.fmt fun f l =>
    byElem f.g.type (negElem f.g.type f.g.sat) [f.src a f.words l]

/-- Long-latency (R81). -/
def lateDAB (ok : Nat → Bool) (d a b : Code) (f : Frag) : Need := { typedDAB ok d a b f with late := true }
def lateDA (ok : Nat → Bool) (d a : Code) (f : Frag) : Need := { typedDA ok d a f with late := true }

def execDiv (m : Marks) (d a b : Code) (s : State) : Out :=
  laneLateOp s (.div m d a b) m (lateDAB anyType d a b) d Frag.words Frag.fmt fun f l =>
    byElem f.g.type (divElem f.g.type f.g.round f.g.sat) (f.ab a b l)

def execRem (m : Marks) (d a b : Code) (s : State) : Out :=
  laneLateOp s (.rem m d a b) m (lateDAB anyType d a b) d Frag.words Frag.fmt fun f l =>
    byElem f.g.type (remElem f.g.type) (f.ab a b l)

/-! ## ADDI, SHRI, LEA, SEL -/

/-- ADDI (R122): the signed immediate is added to each element, exactly, then R109. -/
def execAddi (m : Marks) (d a : Code) (i : BitVec 10) (s : State) : Out :=
  laneOp s (.addi m d a i) m (typedDA intType d a) d Frag.words fun f l =>
    (byElem f.g.type (elemOp f.g.type f.g.sat (fun z => argZ z 0 + i.toInt) fun _ x => (arg x 0, 0)) [f.src a f.words l]).1

/-- Shift an element right by n: arithmetic for I types (R123). -/
def shrElem (t n : Nat) : List Nat → Nat × Nat :=
  match elemOf t with
  | .int sg w => fun x => (unsignedOf w (intValue sg w (arg x 0) / (2 : Int) ^ n), 0)
  | .flt _ => fun x => (arg x 0, 0)

/-- SHRI (R123). -/
def execShri (m : Marks) (d a : Code) (i : BitVec 10) (s : State) : Out :=
  laneOp s (.shri m d a i) m (typedDA intType d a) d Frag.words fun f l =>
    (byElem f.g.type (shrElem f.g.type i.toNat) [f.src a f.words l]).1

/-- LEA (R136): a + (b << s) modulo 2^w. -/
def execLea (m : Marks) (d a b : Code) (x : BitVec 4) (s : State) : Out :=
  laneOp s (.lea m d a b x) m (typedDAB wholeInt d a b) d Frag.words fun f l =>
    (f.src a f.words l + f.srcB b f.words l * 2 ^ x.toNat) % 2 ^ (32 * f.words)

/-- SEL (R130): a where K[k] XOR n is set, else b. -/
def execSel (m : Marks) (d a b : Code) (n : Bool) (k : BitVec 3) (s : State) : Out :=
  laneOp s (.sel m d a b n k) m (typedDAB anyType d a b) d Frag.words fun f l =>
    if (f.g.kReg k.toNat).getLsbD l != n then f.src a f.words l else f.srcB b f.words l

/-! ## CMP, CMPI -/

/-- A condition of integers (R46): EQ NE LT LE GT GE. -/
def condInt (c : Nat) (x y : Int) : Bool :=
  match c with
  | 0 => x = y
  | 1 => x ≠ y
  | 2 => x < y
  | 3 => x ≤ y
  | 4 => y < x
  | _ => y ≤ x

/-- A condition of floating codes, quiet (R129): 6 UN, 7 ORD. -/
def condFlt (f : FFmt) (c a b : Nat) : Bool :=
  let un := (decodeF f a).isNan || (decodeF f b).isNan
  if un then c = 1 || c = 6
  else match c with
    | 0 => fEq f a b
    | 1 => !fEq f a b
    | 2 => fLt f a b
    | 3 => fLt f a b || fEq f a b
    | 4 => fLt f b a
    | 5 => fLt f b a || fEq f a b
    | 6 => false
    | _ => true

/-- The truth of a comparison under a type, and its event (an sNaN operand). -/
def compare (t c a b : Nat) : Bool × Nat :=
  match elemOf t with
  | .int sg w => (condInt c (intValue sg w a) (intValue sg w b), 0)
  | .flt f => (condFlt f c a b, if (decodeF f a).isSnan || (decodeF f b).isSnan then evNan else 0)

/-- Codes UN and ORD apply under floating types only (R46). -/
def condTyped (t c : Nat) : Bool := cmpType t && (c < 6 || typeFloat t)

/-- A comparison whose events are counted, then the predicate written. -/
def compareOp (s : State) (i : Instr) (m : Marks) (n : Frag → Need) (k : Code) (v : Frag → Nat → Bool × Nat) : Out :=
  issue s i m n fun f =>
    let rs := laneNums.map (v f)
    .next (s.withEvents f (maskAt f.sl m 0) f.fmt (rs.map fun r => [r.2]) f.active fun s =>
      (s.setPredicate f k f.active fun l => (rs.getD l (false, 0)).1).goOn f m)

/-- CMP (R129). -/
def execCmp (m : Marks) (k a b : Code) (c : BitVec 4) (s : State) : Out :=
  compareOp s (.cmp m k a b c) m
    (fun f => { typed := condTyped f.g.type c.toNat, srcs := [opnd a f.words], srcB := some (opnd b f.words) }) k fun f l =>
    compare f.g.type c.toNat (f.src a f.words l) (f.srcB b f.words l)

/-- A signed immediate exactly as a code of a floating format (R124). -/
def immFloat (f : FFmt) (z : Int) : Nat := (roundZ f 0 false (Frac.ofInt z)).1

/-- CMPI (R124): integers are compared exactly with the signed immediate. -/
def compareImm (t c a : Nat) (z : Int) : Bool × Nat :=
  match elemOf t with
  | .int sg w => (condInt c (intValue sg w a) z, 0)
  | .flt f => compare t c a (immFloat f z)

def execCmpi (m : Marks) (c k : BitVec 3) (a : Code) (i : BitVec 10) (s : State) : Out :=
  compareOp s (.cmpi m c k a i) m (fun f => { typed := condTyped f.g.type c.toNat, srcs := [opnd a f.words] })
    (k.setWidth 6) fun f l => compareImm f.g.type c.toNat (f.src a f.words l) i.toInt

/-! ## CVT (R131) -/

/-- An element of type `src` as an element of type `dst`, with its event. -/
def cvtElem (src dst rm : Nat) (sat : Bool) (v : Nat) : Nat × Nat :=
  match elemOf src, elemOf dst with
  | .int sg w, .int sg' w' => (intResult sg' w' sat (intValue sg w v), 0)
  | .int sg w, .flt f => roundZ f rm false (Frac.ofInt (intValue sg w v))
  | .flt f, .flt f' => fConvert f f' rm v
  | .flt f, .int sg w =>
    let hi : Nat := if sg then 2 ^ (w - 1) - 1 else 2 ^ w - 1
    let lo : Nat := if sg then 2 ^ (w - 1) else 0
    match decodeF f v with
    | .nan _ _ => (0, evNan)
    | .inf neg => (if neg then lo else hi, evNan)
    | .zero _ => (0, 0)
    | .fin x =>
      let y := roundInt rm x
      let r := intResult sg w true y
      (r, if intValue sg w r = y then 0 else evNan)

/-- Whether a conversion has a shape (R131): packed and 64-bit types do not convert into one another. -/
def cvtTyped (src dst : Nat) : Bool := !(typePacked src && typeWords dst = 2) && !(typeWords src = 2 && typePacked dst)

/-- Words of A that CVT reads, and words it writes. -/
def cvtReads (src dst : Nat) : Nat := if !typePacked src && typePacked dst then 2 else typeWords src
def cvtWrites (src dst : Nat) : Nat := if typePacked src && !typePacked dst then 2 else typeWords dst

/-- The elements of A that are converted, in order, and the result's value. -/
def cvtValue (src dst rm : Nat) (sat : Bool) (v : Nat) : Nat × List Nat :=
  let es := if typePacked src then elemsOf src v else if typePacked dst then [v % 2 ^ 32, v / 2 ^ 32] else [v]
  let rs := es.map (cvtElem src dst rm sat)
  let vs := rs.map (·.1)
  (if typePacked dst then ofElems dst vs
   else if typePacked src then vs.getD 0 0 + 2 ^ 32 * vs.getD 1 0
   else vs.getD 0 0, rs.map (·.2))

/-- The format under which CVT's events count: the result's, or the source's for a float-to-integer CVT (R112). -/
def cvtFmt (src dst : Nat) : Nat := if typeFloat dst then typeFmt dst else typeFmt src

def execCvt (m : Marks) (d a : Code) (t : BitVec 4) (s : State) : Out :=
  laneEventOp s (.cvt m d a t) m
    (fun f => { typed := cvtTyped f.g.type t.toNat, srcs := [opnd a (cvtReads f.g.type t.toNat)],
                dst := some (opnd d (cvtWrites f.g.type t.toNat)) })
    d (fun f => cvtWrites f.g.type t.toNat) (fun f => cvtFmt f.g.type t.toNat) fun f l =>
    cvtValue f.g.type t.toNat f.g.round f.g.sat (f.src a (cvtReads f.g.type t.toNat) l)

/-! ## FLR, CEL, RND, FRC, CLASS (R134, R135) -/

/-- A floating element function. -/
def fltElem (t : Nat) (fn : FFmt → Nat → Nat × Nat) : List Nat → Nat × Nat :=
  match elemOf t with
  | .flt f => fun x => fn f (arg x 0)
  | .int _ _ => fun x => (arg x 0, 0)

def execFlr (m : Marks) (d a : Code) (s : State) : Out :=
  laneEventOp s (.flr m d a) m (typedDA floatType d a) d Frag.words Frag.fmt fun f l =>
    byElem f.g.type (fltElem f.g.type fun x v => fIntegral x 2 v) [f.src a f.words l]

def execCel (m : Marks) (d a : Code) (s : State) : Out :=
  laneEventOp s (.cel m d a) m (typedDA floatType d a) d Frag.words Frag.fmt fun f l =>
    byElem f.g.type (fltElem f.g.type fun x v => fIntegral x 3 v) [f.src a f.words l]

def execRnd (m : Marks) (d a : Code) (s : State) : Out :=
  laneEventOp s (.rnd m d a) m (typedDA floatType d a) d Frag.words Frag.fmt fun f l =>
    byElem f.g.type (fltElem f.g.type fun x v => fIntegral x f.g.round v) [f.src a f.words l]

def execFrc (m : Marks) (d a : Code) (s : State) : Out :=
  laneEventOp s (.frc m d a) m (typedDA floatType d a) d Frag.words Frag.fmt fun f l =>
    byElem f.g.type (fltElem f.g.type fFrac) [f.src a f.words l]

/-- CLASS writes one word: bits 9:0 for the value or low half, bits 25:16 for the high half. -/
def classWord (t v : Nat) : Nat :=
  match elemOf t with
  | .flt f => if typePacked t then fClass f (v % 65536) + 65536 * fClass f (v / 65536 % 65536) else fClass f v
  | .int _ _ => 0

def execClassOp (m : Marks) (d a : Code) (s : State) : Out :=
  laneOp s (.classOp m d a) m
    (fun f => { typed := floatType f.g.type, srcs := [opnd a f.words], dst := some (opnd d 1) }) d (fun _ => 1) fun f l =>
    classWord f.g.type (f.src a f.words l)

end Sys2Proof.Machine
end

