-- ==== Sys2Proof/Machine/Memops.lean ====
section
/-! DEFINITION. Memory instructions (R167 to R175, R232 to R242): LD, ST, LDACQ, STREL, FENCE, ACVT, ATST. -/

namespace Sys2Proof.Machine

/-! ## Checking every lane (R168) -/

/-- A lane's access: its address, its pieces, and these translated, or the trap code it raises. -/
structure LaneAccess where
  lane : Nat
  addr : Nat
  bits : Except Nat (List Bit)
  places : List Piece

/-- Check a lane's access of `n` bytes. -/
def State.checkLane (s : State) (g : Group) (acc : Acc) (aps : List Nat) (align n lane addr : Nat) : LaneAccess :=
  ⟨lane, addr, s.checkAccess (s.agentOf g) acc aps align lane addr n, ((s.decodeAddr (s.agentOf g) lane addr n).map (·.2)).getD []⟩

/-- Check the accesses of the lanes listed. -/
def State.checkLanes (s : State) (g : Group) (acc : Acc) (aps : List Nat) (align n : Nat) (addr : Nat → Nat) (ls : List Nat) : List LaneAccess :=
  ls.map fun l => s.checkLane g acc aps align n l (addr l)

/-- The trap codes that lanes raise. -/
def laneCodes (xs : List LaneAccess) : List Nat := xs.filterMap fun x => match x.bits with | .error c => some c | .ok _ => none

/-- The trap that an instruction takes for its lanes: the first in the order of R168 that any lane raises, with the
lanes that raise it and the lowest one's address. -/
def lanesTrap (aux : Nat) (xs : List LaneAccess) : Option Trap :=
  match firstTrap (laneCodes xs) with
  | none => none
  | some c =>
    let hit := xs.filter fun x => match x.bits with | .error d => d = c | .ok _ => false
    some ⟨c, aux, (hit.head?.map (·.addr)).getD 0, maskOf (hit.map (·.lane))⟩

/-- Whether a trap comes from a translation: HARVEST_SO, PAGE_FAULT and ACCESS, behind the checks of an address (R168). -/
def walkedTrap (code : Nat) : Bool := code = 0x08 || code = 0x09 || code = 0x10

/-- What lanes' accesses leave of their walks when their instruction traps for one of them: each page of each lane is translated first. -/
def State.tryLanes (s : State) (g : Group) (acc : Acc) (code : Nat) (xs : List LaneAccess) : State :=
  if walkedTrap code then xs.foldl (fun (s : State) x => s.tryPieces (s.agentOf g) acc x.places) s else s

/-- An instruction traps for its lanes. -/
def trapLanes (s : State) (f : Frag) (m : Marks) (acc : Acc) (xs : List LaneAccess) (t : Trap) : Out := trapOut (s.tryLanes f.g acc t.code xs) f m t

/-- The pieces of a lane that raised nothing. -/
def LaneAccess.pieces (x : LaneAccess) : List Bit := match x.bits with | .ok bs => bs | .error _ => []

/-- The lines that lanes' accesses touch. -/
def linesOfLanes (xs : List LaneAccess) : List Nat := (xs.flatMap fun x => x.pieces.flatMap Bit.lines).dedup

/-! ## The group's own order (R170, R220, R231 to R234, R244) -/

/-- Whether an access to a line makes a request at its home for a core: a line that its L1 holds needs none. -/
def State.inL1 (s : State) (core line : Nat) : Bool := s.msys.l1.any fun l => l.core = core && l.pline = line

/-- Whether a far atomic that is not yet performed names one of these lines, so that an access of the group to them is held: one of the
group (R170), or one that the same context has sent from the same edge unit, behind which the network delivers a request (R220). A load from
the L1 makes no request; a store does, there or when its bytes are written back (log 112). -/
def State.farPending (s : State) (g : Group) (write : Bool) (lines : List Nat) : Bool :=
  s.net.origs.any fun r => lines.contains (r.pa / 64) &&
    (r.gid = g.gid || (r.asid = s.asidOf g && coreCluster r.core = coreCluster g.core && (write || !s.inL1 g.core (r.pa / 64))))

/-- Whether the group has a far atomic that is not yet performed. -/
def State.farBusy (s : State) (g : Group) : Bool := s.net.origs.any fun r => r.gid = g.gid

/-- Whether one of them returns a value to the group. -/
def State.farReturning (s : State) (g : Group) : Bool :=
  s.net.origs.any fun r => r.gid = g.gid && match r.member with | .lane _ _ => true | _ => false

/-- Whether one of them is to a line that is not the only one of these: far atomics of a group are performed in issue order (R231), which the
home of one line alone keeps without a wait. -/
def State.farAcross (s : State) (g : Group) (lines : List Nat) : Bool :=
  s.net.origs.any fun r => r.gid = g.gid && lines.any fun ln => ln ≠ r.pa / 64

/-- Whether one of them is an SO access (R233). -/
def State.farStrong (s : State) (g : Group) : Bool := s.net.origs.any fun r => r.gid = g.gid && r.so

/-- What a load that may still read memory has recorded of itself: one that is performed when it returns, or one that a revocation has
cancelled, and for a harvest group every one that has not returned. -/
def State.openLoad (s : State) (g : Group) (r : Outst) : Option Replay :=
  match r.kind with
  | .load x => if r.gid = g.gid && (2 ≤ r.left || s.clsOf g = 3) then some x else none
  | _ => none

/-- Whether a load of the group may still read memory: a later write of the group is not visible before it has (R232). -/
def State.loadsOpen (s : State) (g : Group) : Bool := s.outs.any fun r => (s.openLoad g r).isSome

/-- The physical bytes of pieces in memory. -/
def bitSpots (bs : List Bit) : List (Nat × Nat) := bs.filterMap fun b => match b.spot with | .mem va t _ => some (t.pa va, b.len) | .pad _ _ => none

/-- The lines of pieces in memory. -/
def memLines (bs : List Bit) : List Nat := bs.flatMap fun b => match b.spot with | .mem _ _ _ => b.lines | .pad _ _ => []

/-- Whether two byte ranges share a byte. -/
def rangesMeet (x y : Nat × Nat) : Bool := x.1 < y.1 + y.2 && y.1 < x.1 + x.2

/-- Whether a load of the group that is still to be performed reads one of these bytes: a later load of them stands behind it (R230). -/
def State.loadsMeet (s : State) (g : Group) (spots : List (Nat × Nat)) : Bool :=
  s.outs.any fun r => match s.openLoad g r with
    | some x => x.spots.any fun p => spots.any (rangesMeet p)
    | none => false

/-- Whether a load of another group of the context, from the same edge unit, that is performed only when it returns reads one of these lines:
a later request of the context to the line is behind it (R220). -/
def State.lateAhead (s : State) (g : Group) (lines : List Nat) : Bool :=
  s.outs.any fun r => r.left = 3 && match r.kind, s.group? r.gid with
    | .load x, some h => s.asidOf h = s.asidOf g && coreCluster h.core = coreCluster g.core &&
        x.spots.any fun p => lines.any fun ln => p.1 / 64 ≤ ln && ln ≤ (p.1 + p.2 - 1) / 64
    | _, _ => false

/-- Whether a QENQ, a QDEQ or a TKGET of the group still has entries to move. -/
def State.queueBusy (s : State) (g : Group) : Bool :=
  s.outs.any fun r => r.gid = g.gid && match r.kind with
    | .queue _ => true
    | .tkget _ => r.left ≠ 0
    | _ => false

/-- Whether the group's context has dirty bytes of these lines in an L1 of the group's cluster: their write-back is a request ahead of a later
one to the line (R220). -/
def State.dirtyIn (s : State) (g : Group) (lines : List Nat) : Bool :=
  s.msys.l1.any fun l => coreCluster l.core = coreCluster g.core && l.asid = s.asidOf g && lines.contains l.pline && l.dirty ≠ []

/-- Whether an earlier access of the group is not yet performed, which a release of the group must follow (R238). -/
def State.relBusy (s : State) (g : Group) : Bool := s.farBusy g || s.loadsOpen g || s.queueBusy g

/-- Whether pieces are ordered by issue: SO pages, scratchpads, device registers (R231). -/
def strongBits (bs : List Bit) : Bool :=
  bs.any fun b => b.isDevice || match b.spot with | .pad _ _ => true | .mem _ t _ => t.kind = .so

/-- Whether an SO access is among them (R233). -/
def soBits (bs : List Bit) : Bool := bs.any fun b => match b.spot with | .pad _ _ => false | .mem _ t _ => t.kind = .so

/-- Whether a write of the group to these pieces is held: behind a far atomic or a late load of the context to the line (R220), behind the
group's loads and returning far atomics (R232), and where the write is visible at once behind every far atomic of the group (R231). An entry
of the group's own QENQ, QDEQ or TKGET that waits for its stamp does not hold it (log 104). -/
def State.writeHeld (s : State) (g : Group) (bs : List Bit) : Bool :=
  s.farPending g true (bs.flatMap Bit.lines) || s.lateAhead g (memLines bs) || s.loadsOpen g || s.farReturning g ||
    (strongBits bs && s.farBusy g)

/-- Whether a load of the group from these pieces is held. -/
def State.loadHeld (s : State) (g : Group) (bs : List Bit) : Bool :=
  s.farPending g false (bs.flatMap Bit.lines) || s.loadsMeet g (bitSpots bs) || (soBits bs && s.farStrong g)

/-- The active lanes whose writes are performed: a helper lane's are not (R401). -/
def Frag.writers (f : Frag) : LaneMask := f.active &&& ~~~f.g.helper

/-- The results of a write's lanes: a helper lane's is a free value (log 92). -/
def State.writerVals (s : State) (f : Frag) (vals : List Nat) : State × List Nat :=
  if f.active &&& f.g.helper = 0 then (s, vals)
  else (s.tick, vals.mapIdx fun l v => if f.g.helper.getLsbD l then (Config.helperValue s.ctl.freeCtr l).toNat else v)

/-- The lines of a read instruction, which a later FENCE.acq makes acquires (R238). -/
def State.noteRead (s : State) (g : Group) (lines : List Nat) : State :=
  match s.group? g.gid with
  | some g => s.putGroup { g with lastRead := lines, readIn := none }
  | none => s

/-- The read instruction is a WAITC that has parked in a slot. -/
def State.noteWaiting (s : State) (g : Group) (slot : Nat) : State :=
  match s.group? g.gid with
  | some g => s.putGroup { g with readIn := some slot }
  | none => s

/-- Whether the group's last read instruction is a WAITC that is still parked, which has not made its last read (R238). -/
def Group.reading (g : Group) : Bool :=
  match g.readIn.bind g.slot? with
  | some sl => match sl.park with | some (.waitc _ _) => true | _ => false
  | none => false

/-- A write instruction of the group: after a FENCE.rel its lines record a release (R242). One that writes nothing leaves the release to
the next. -/
def State.noteWrite (s : State) (g : Group) (lines : List Nat) : State :=
  match g.relScope with
  | none => s
  | some sc =>
    if lines = [] then s else
    let s := lines.foldl (fun s ln => s.recordRelease g.core (s.asidOf g) sc ln) s
    match s.group? g.gid with
    | some g => s.putGroup { g with relScope := none }
    | none => s

/-! ## Loads -/

/-- The words of a loaded value under a size code (R46, R169). -/
def extendLoad (size v : Nat) : Nat :=
  if size = 1 then unsignedOf 32 (signedOf 8 v) else if size = 3 then unsignedOf 32 (signedOf 16 v) else v

/-- Perform the loads of lanes: the lines come in, then every lane's bytes are read. -/
def State.performLoads (s : State) (g : Group) (size : Nat) (xs : List LaneAccess) : State × List Nat :=
  let ag := s.agentOf g
  let s := xs.foldl (fun s x => x.pieces.foldl (fun s b => s.bringBit ag true b) s) s
  let v (l : Nat) : Nat := match xs.find? fun x => x.lane = l with
    | some x => extendLoad size (ofBytes (s.readBits g.core x.pieces))
    | none => 0
  (s, perLane v)

/-- Every aperture (R200). -/
def anyAperture : List Nat := [0, 1, 2, 3]

/-- Whether pieces lie on RC and UO pages alone, where loads of a group may pass one another (R234). -/
def relaxedBits (bs : List Bit) : Bool := bs ≠ [] && !strongBits bs

/-- A load of a fragment (R169, R172): performed at issue, or on RC and UO pages, by a free choice, when its result returns (log 18); at issue
where dirty bytes of its lines lie in the cluster (log 112). `acq` is LDACQ's scope, whose load is performed at issue. -/
def loadOut (s : State) (f : Frag) (m : Marks) (d : Code) (size align : Nat) (acq : Option Nat) (addr : Nat → Nat) : Out :=
  let xs := s.checkLanes f.g .rd anyAperture align (sizeBytes size) addr (lanesOf f.active)
  match lanesTrap 0 xs with
  | some t => trapLanes s f m .rd xs t
  | none =>
    let bs := xs.flatMap LaneAccess.pieces
    if s.loadHeld f.g bs then .next s
    else
      let rec_ : Replay := ⟨d, sizeWords size, size, xs.map fun (x : LaneAccess) => (x.lane, BitVec.ofNat 64 x.addr), acq, f.slot, bitSpots bs⟩
      let (late, s) := if acq = none && relaxedBits bs && !s.dirtyIn f.g (linesOfLanes xs) then s.choose else (false, s)
      let s := s.noteRead f.g (linesOfLanes xs)
      let s : State := if late then bs.foldl (fun (s : State) b => match b.spot with | .mem va t true => s.install (s.agentOf f.g) t va | _ => s) s else s
      if late then .next ((s.resultLater f d (sizeWords size) (perLane fun _ => 0) f.active 3 (.load rec_)).goOn f m)
      else
        let s : State := match acq with
          | some sc => (linesOfLanes xs).foldl (fun (s : State) ln => s.acquireLine f.g.core sc ln) s
          | none => s
        let (s, vals) := s.performLoads f.g size xs
        .next ((s.resultLater f d (sizeWords size) vals f.active 0 (.load rec_)).goOn f m)

/-- The address of a lane for LD and ST (R167). -/
def Frag.memAddr (f : Frag) (a : Code) (i : BitVec 10) (bytes l : Nat) : Nat :=
  (BitVec.ofNat 64 (f.src a 2 l) + i.signExtend 64 * BitVec.ofNat 64 bytes).toNat

def loadOp (s : State) (i : Instr) (m : Marks) (d a : Code) (off : BitVec 10) (size : Nat) : Out :=
  issue s i m (fun _ => { srcs := [opnd a 2], dst := some (opnd d (sizeWords size)), late := true, load := true }) fun f =>
    loadOut s f m d size 1 none (f.memAddr a off (sizeBytes size))

/-- LD (R169). -/
def execLd8 (m : Marks) (d a : Code) (i : BitVec 10) (s : State) : Out := loadOp s (.ld8 m d a i) m d a i 0
def execLd8s (m : Marks) (d a : Code) (i : BitVec 10) (s : State) : Out := loadOp s (.ld8s m d a i) m d a i 1
def execLd16 (m : Marks) (d a : Code) (i : BitVec 10) (s : State) : Out := loadOp s (.ld16 m d a i) m d a i 2
def execLd16s (m : Marks) (d a : Code) (i : BitVec 10) (s : State) : Out := loadOp s (.ld16s m d a i) m d a i 3
def execLd32 (m : Marks) (d a : Code) (i : BitVec 10) (s : State) : Out := loadOp s (.ld32 m d a i) m d a i 4
def execLd64 (m : Marks) (d a : Code) (i : BitVec 10) (s : State) : Out := loadOp s (.ld64 m d a i) m d a i 5
def execLd128 (m : Marks) (d a : Code) (i : BitVec 10) (s : State) : Out := loadOp s (.ld128 m d a i) m d a i 6

/-- LDACQ (R172): an aligned load that is an acquire at the scope. -/
def execLdacq (m : Marks) (d a b : Code) (x : BitVec 4) (s : State) : Out :=
  issue s (.ldacq m d a b x) m
    (fun _ => { srcs := [opnd a 2], dst := some (opnd d (sizeWords x.toNat)), late := true, load := true }) fun f =>
    loadOut s f m d x.toNat (sizeBytes x.toNat) (some b.toNat) (f.src a 2)

/-! ## Stores -/

/-- Perform the stores of lanes in ascending order, so that the highest-numbered lane's byte stays (R170). Every access is performed whole, in
one turn, so that one of 128 bits or one that is not aligned never tears, where R171 promises less (log 105). -/
def State.performStores (s : State) (g : Group) (n : Nat) (data : Nat → Nat) (xs : List LaneAccess) : State :=
  let ag := s.agentOf g
  xs.foldl (fun s x =>
    let s := x.pieces.foldl (fun s b => s.bringBit ag false b) s
    s.storeBits ag x.pieces (bytesOf (data x.lane) n)) s

/-- ST (R169): `data` is the D field, read as a source. -/
def storeOp (s : State) (i : Instr) (m : Marks) (d a : Code) (off : BitVec 10) (size : Nat) : Out :=
  issue s i m (fun _ => { srcs := [opnd d (sizeWords size), opnd a 2] }) fun f =>
    let n := sizeBytes size
    let xs := s.checkLanes f.g .wr anyAperture 1 n (f.memAddr a off n) (lanesOf f.writers)
    match lanesTrap 1 xs with
    | some t => trapLanes s f m .wr xs t
    | none =>
      if s.writeHeld f.g (xs.flatMap LaneAccess.pieces) then .next s
      else .next (((s.performStores f.g n (f.src d (sizeWords size)) xs).noteWrite f.g (linesOfLanes xs)).goOn f m)

def execSt8 (m : Marks) (d a : Code) (i : BitVec 10) (s : State) : Out := storeOp s (.st8 m d a i) m d a i 0
def execSt16 (m : Marks) (d a : Code) (i : BitVec 10) (s : State) : Out := storeOp s (.st16 m d a i) m d a i 2
def execSt32 (m : Marks) (d a : Code) (i : BitVec 10) (s : State) : Out := storeOp s (.st32 m d a i) m d a i 4
def execSt64 (m : Marks) (d a : Code) (i : BitVec 10) (s : State) : Out := storeOp s (.st64 m d a i) m d a i 5
def execSt128 (m : Marks) (d a : Code) (i : BitVec 10) (s : State) : Out := storeOp s (.st128 m d a i) m d a i 6

/-- STREL (R172, R231, R242): its store is performed at the home at once, and the release is recorded at its line. -/
def execStrel (m : Marks) (d a b : Code) (x : BitVec 4) (s : State) : Out :=
  issue s (.strel m d a b x) m (fun _ => { srcs := [opnd d (sizeWords x.toNat), opnd a 2] }) fun f =>
    let n := sizeBytes x.toNat
    let data := f.src d (sizeWords x.toNat)
    let xs := s.checkLanes f.g .wr anyAperture n n (f.src a 2) (lanesOf f.writers)
    match lanesTrap 1 xs with
    | some t => trapLanes s f m .wr xs t
    | none =>
      if s.farPending f.g true (linesOfLanes xs) || s.relBusy f.g || s.lateAhead f.g (memLines (xs.flatMap LaneAccess.pieces)) then .next s
      else
        let ag := s.agentOf f.g
        let s1 := xs.foldl (fun s x =>
          (x.pieces.foldl (fun s b => s.bringBit ag false b) s).homeBits ag x.pieces (bytesOf (data x.lane) n)) s
        let s2 := (linesOfLanes xs).foldl (fun s ln => s.recordRelease f.g.core (s.asidOf f.g) b.toNat ln) s1
        .next ((s2.noteWrite f.g (linesOfLanes xs)).goOn f m)

/-- FENCE (R173, R238), which waits until the group's earlier accesses are performed, and where it acquires until a WAITC that is its last read
instruction has ended: .acq acquires at the last read instruction's lines; .rel makes the next write a release; .ar
is both, and performs every earlier store of the core's context for the agents in scope first. -/
def State.fence (s : State) (g : Group) (scope kind : Nat) : State :=
  let s := if kind = 3 && 3 ≤ scope then
      s.cleanLines fun l => l.core = g.core && l.asid = s.asidOf g && (decide (l.kind = PageKind.rc) || scope = 8)
    else s
  let s := if kind ≠ 2 then g.lastRead.foldl (fun s ln => s.acquireLine g.core scope ln) s else s
  if kind = 1 then s
  else match s.group? g.gid with
    | some g => s.putGroup { g with relScope := some (max scope (g.relScope.getD 0)) }
    | none => s

def execFence (m : Marks) (b : Code) (x : BitVec 4) (s : State) : Out :=
  issue s (.fence m b x) m (fun _ => {}) fun f =>
    if s.relBusy f.g || (x.toNat ≠ 2 && f.g.reading) then .next s else .next ((s.fence f.g b.toNat x.toNat).goOn f m)

/-! ## ACVT and ATST (R174, R175, R202) -/

/-- The lane's own LOCAL byte that maps to a GLOBAL byte, if any. -/
def localOf (l : Launch) (slot lane a : Nat) : Option Nat :=
  let base := l.lbase + slot * W * l.lsize
  if a < base || base + W * l.lsize ≤ a then none
  else
    let r := a - base
    if r % (4 * W) / 4 = lane then some (r / (4 * W) * 4 + r % 4) else none

/-- The address in aperture `x` of the byte that an accepted address of aperture `ap` names, 0 if it has none. -/
def State.convertAddr (s : State) (g : Group) (lane a ap x : Nat) : Nat :=
  let t := s.teamOf g
  let l := s.launchOf g
  let rank := (t.map (·.rank)).getD 0
  let clustered := l.any fun y => y.clsize ≠ 0
  if ap = x then a
  else match ap, x with
    | 0, 3 => (l.map fun y => localByte y g.localSlot lane (a - localBase)).getD 0
    | 1, 2 => if clustered then clusterBase + rank * 2 ^ 19 + (a - scratchBase) else 0
    | 2, 1 => if (a - clusterBase) / 2 ^ 19 = rank then scratchBase + (a - clusterBase) % 2 ^ 19 else 0
    | 3, 0 => ((l.bind fun y => if y.lslots = 0 then none else localOf y g.localSlot lane a).map fun o => localBase + o).getD 0
    | _, _ => 0

def execAcvt (m : Marks) (d a : Code) (x : BitVec 4) (s : State) : Out :=
  issue s (.acvt m d a x) m (fun _ => { srcs := [opnd a 2], dst := some (opnd d 2), late := true }) fun f =>
    let ag := s.agentOf f.g
    let ap (l : Nat) : Option Nat := (s.decodeAddr ag l (f.src a 2 l) 1).map (·.1)
    let bad := (lanesOf f.active).filter fun l => (ap l).isNone
    match bad with
    | l :: _ => trapOut s f m ⟨0x0A, 0, f.src a 2 l, maskOf bad⟩
    | [] => .next ((s.resultLater f d 2 (perLane fun l => s.convertAddr f.g l (f.src a 2 l) ((ap l).getD 0) x.toNat) f.active 0 .alu).goOn f m)

def execAtst (m : Marks) (k a : Code) (x : BitVec 4) (s : State) : Out :=
  predOp s (.atst m k a x) m (fun _ => { srcs := [opnd a 2] }) k fun f l =>
    ((s.decodeAddr (s.agentOf f.g) l (f.src a 2 l) 1).map (·.1)) = some x.toNat

end Sys2Proof.Machine
end

