-- ==== Sys2Proof/Machine/Local.lean ====
section
/-! DEFINITION. Local atomics (R176 to R179), named barriers (R180 to R182) and stage rings (R183 to R186). -/

namespace Sys2Proof.Machine

/-! ## Local atomics -/

/-- The new value of a word under the operations of R51: AADD AMIN AMIN.u AMAX AMAX.u AAND AOR AXOR AXCH AMAX64. -/
def localNew (op o v : Nat) : Nat :=
  match op with
  | 0 => (o + v) % 2 ^ 32
  | 1 => if signedOf 32 v < signedOf 32 o then v else o
  | 2 => min o v
  | 3 => if signedOf 32 o < signedOf 32 v then v else o
  | 4 => max o v
  | 5 => o &&& v
  | 6 => o ||| v
  | 7 => o ^^^ v
  | 8 => v
  | _ => max o v

/-- Perform a lane's local atomic at its bank: the old value, and the state with the new one. -/
def State.localAtomic (s : State) (g : Group) (n : Nat) (new : Nat → Nat) (bs : List Bit) : State × Nat :=
  let o := ofBytes (s.readBits g.core bs)
  (s.storeBits (s.agentOf g) bs (bytesOf (new o) n), o)

/-- Perform the lanes in ascending order; the old value of each (R179). -/
def State.localAtomics (s : State) (g : Group) (n : Nat) (new : Nat → Nat → Nat) : List LaneAccess → State × List (Nat × Nat)
  | [] => (s, [])
  | x :: xs =>
    let (s, o) := s.localAtomic g n (new x.lane) x.pieces
    let (s, os) := s.localAtomics g n new xs
    (s, (x.lane, o) :: os)

/-- The values of lanes listed with them, 0 elsewhere. -/
def laneValues (os : List (Nat × Nat)) : List Nat := perLane fun l => ((os.find? fun p => p.1 = l).map (·.2)).getD 0

/-- A local atomic of `w` words on SCRATCH or CLUSTER (R176). -/
def localOut (s : State) (f : Frag) (m : Marks) (d a : Code) (w : Nat) (new : Nat → Nat → Nat) : Out :=
  let n := 4 * w
  let xs := s.checkLanes f.g .wr [1, 2] n n (f.src a 2) (lanesOf f.writers)
  match lanesTrap 1 xs with
  | some t => trapOut s f m t
  | none =>
    if s.loadsOpen f.g || s.farBusy f.g then .next s
    else
      let (s, os) := s.localAtomics f.g n new xs
      let s := (s.noteRead f.g (linesOfLanes xs)).noteWrite f.g (linesOfLanes xs)
      let (s, vals) := s.writerVals f (laneValues os)
      .next ((s.resultLater f d w vals f.active 0 .alu).goOn f m)

/-- The local atomics of code 0xB2 (R177). -/
def localOp (s : State) (i : Instr) (m : Marks) (d a b : Code) (op w : Nat) : Out :=
  issue s i m (fun _ => { srcs := [opnd a 2], srcB := some (opnd b w), dst := some (opnd d w), late := true }) fun f =>
    localOut s f m d a w fun l o => localNew op o (f.srcB b w l)

def execAadd (m : Marks) (d a b : Code) (s : State) : Out := localOp s (.aadd m d a b) m d a b 0 1
def execAmin (m : Marks) (d a b : Code) (s : State) : Out := localOp s (.amin m d a b) m d a b 1 1
def execAminU (m : Marks) (d a b : Code) (s : State) : Out := localOp s (.aminU m d a b) m d a b 2 1
def execAmax (m : Marks) (d a b : Code) (s : State) : Out := localOp s (.amax m d a b) m d a b 3 1
def execAmaxU (m : Marks) (d a b : Code) (s : State) : Out := localOp s (.amaxU m d a b) m d a b 4 1
def execAand (m : Marks) (d a b : Code) (s : State) : Out := localOp s (.aand m d a b) m d a b 5 1
def execAor (m : Marks) (d a b : Code) (s : State) : Out := localOp s (.aor m d a b) m d a b 6 1
def execAxor (m : Marks) (d a b : Code) (s : State) : Out := localOp s (.axor m d a b) m d a b 7 1
def execAxch (m : Marks) (d a b : Code) (s : State) : Out := localOp s (.axch m d a b) m d a b 8 1
def execAmax64 (m : Marks) (d a b : Code) (s : State) : Out := localOp s (.amax64 m d a b) m d a b 9 2

/-- ACAS (R178). -/
def execAcas (m : Marks) (d a b : Code) (c : BitVec 4) (s : State) : Out :=
  issue s (.acas m d a b c) m
    (fun _ => { srcs := [opnd a 2], srcB := some (opnd b 1), srcC := some (opnd (cCode d c) 1), dst := some (opnd d 1), late := true }) fun f =>
    localOut s f m d a 1 fun l o => if o = f.src (cCode d c) 1 l then f.srcB b 1 l else o

/-! ## Barriers -/

/-- The barrier of a team, once it is below the team's count (R180). -/
def State.barrier? (s : State) (g : Group) (n : Nat) : Option Barrier := (s.teamOf g).bind fun t => t.barriers[n]?

/-- A fragment parked at a barrier for a phase goes on (R182). -/
def Group.passBarrier (g : Group) (n : Nat) (phase : Bool) : Group :=
  let rel (g : Group) (i : Nat) : Group := match (g.slot? i).bind (·.park) with
    | some (.barw b p len) => if b = n && p = phase then g.release i len else g
    | _ => g
  rel (rel g 0) 1

/-- Whether a barrier's phase is complete (R182). -/
def Barrier.complete (b : Barrier) : Bool := b.expect ≤ b.arrived && b.balance = 0
/-- A barrier with its phase completed. -/
def Barrier.next (b : Barrier) : Barrier := { b with phase := !b.phase, arrived := 0, posted := false }

/-- Store a barrier of a team, completing its phase if the condition holds: every fragment parked for it goes on. -/
def State.putBarrier (s : State) (tid n : Nat) (b : Barrier) : State :=
  match s.team? tid with
  | none => s
  | some t =>
    if b.complete then
      (s.putTeam { t with barriers := t.barriers.set n b.next }).setGroups
        (mapWhere (fun g => g.tid = tid) (fun g => g.passBarrier n b.phase) s.groups)
    else s.putTeam { t with barriers := t.barriers.set n b }

/-- BARI (R180): EXPECT takes a, from 1 to 32. It traps for the fragment as a whole (log 29). -/
def execBari (m : Marks) (a : Code) (i : BitVec 10) (s : State) : Out :=
  issue s (.bari m a i) m (fun f => { legal := (s.barrier? f.g i.toNat).isSome, srcs := [opnd a 1] }) fun f =>
    let v := f.src a 1 f.low
    match s.barrier? f.g i.toNat with
    | some b =>
      if v = 0 || 32 < v then trapOut s f m ⟨0x02, 0, 0, f.sl.mask⟩
      else .next ((s.putBarrier f.g.tid i.toNat { b with expect := v }).goOn f m)
    | none => .next s

/-- BARA (R180, R181): an arrival; held while an earlier access of the group is not performed, since it is a release. -/
def execBara (m : Marks) (i : BitVec 10) (s : State) : Out :=
  issue s (.bara m i) m (fun f => { legal := (s.barrier? f.g i.toNat).isSome }) fun f =>
    match s.barrier? f.g i.toNat with
    | some b =>
      if b.expect ≤ b.arrived then trapOut s f m ⟨0x0F, 0, 0, f.sl.mask⟩
      else if s.relBusy f.g then .next s
      else .next ((s.putBarrier f.g.tid i.toNat { b with arrived := b.arrived + 1 }).goOn f m)
    | none => .next s

/-- BARW (R180): an arrival that parks until its phase completes, unless it completes it. -/
def execBarw (m : Marks) (i : BitVec 10) (s : State) : Out :=
  issue s (.barw m i) m (fun f => { legal := (s.barrier? f.g i.toNat).isSome }) fun f =>
    match s.barrier? f.g i.toNat with
    | some b =>
      let b' := { b with arrived := b.arrived + 1 }
      if b.expect ≤ b.arrived then trapOut s f m ⟨0x0F, 0, 0, f.sl.mask⟩
      else if s.relBusy f.g then .next s
      else if b'.complete then .next ((s.putBarrier f.g.tid i.toNat b').goOn f m)
      else .next ((s.putBarrier f.g.tid i.toNat b').park f (.barw i.toNat b.phase (unitLen m 0)))
    | none => .next s

/-- BARX (R180, R181): a byte count is posted. -/
def execBarx (m : Marks) (a : Code) (i : BitVec 10) (s : State) : Out :=
  issue s (.barx m a i) m (fun f => { legal := (s.barrier? f.g i.toNat).isSome, srcs := [opnd a 1] }) fun f =>
    let v := f.src a 1 f.low
    match s.barrier? f.g i.toNat with
    | some b =>
      if 2 ^ 31 ≤ v then trapOut s f m ⟨0x02, 0, 0, f.sl.mask⟩
      else if (2 : Int) ^ 31 - 1 < b.balance + v then trapOut s f m ⟨0x0F, 0, 0, f.sl.mask⟩
      else .next ((s.putBarrier f.g.tid i.toNat { b with balance := b.balance + v, posted := true }).goOn f m)
    | none => .next s

/-- A delivery to a barrier (R181, R182): its bytes leave the balance; one that would take it below −2^31 is not
applied, and is answered `none`. -/
def State.deliverBarrier (s : State) (tid n bytes : Nat) : Option State :=
  match (s.team? tid).bind fun t => t.barriers[n]? with
  | none => none
  | some b => if b.balance - bytes < -(2 : Int) ^ 31 then none else some (s.putBarrier tid n { b with balance := b.balance - bytes })

/-! ## Stage rings -/

/-- A declared ring of a group's team (R23). -/
def State.ring? (s : State) (g : Group) (q : Nat) : Option Ring :=
  (s.teamOf g).bind fun t => if t.ringMask / 2 ^ q % 2 = 1 then t.rings[q]? else none

def State.putRing (s : State) (tid q : Nat) (r : Ring) : State :=
  match s.team? tid with
  | some t => s.putTeam { t with rings := t.rings.set q r }
  | none => s

/-- Whether a ring accepts an instruction from an issue slot: of those that issue in one cycle, the lower issue slot comes first (R24). -/
def Ring.accepts (r : Ring) (cycle islot : Nat) : Bool := r.mark.all fun m => m.1 ≠ cycle || m.2 ≤ islot

/-- A ring that has accepted an instruction of an issue slot in a cycle. -/
def Ring.seen (r : Ring) (cycle islot : Nat) : Ring := { r with mark := some (cycle, islot) }
/-- The cycle in which a fragment's ring instruction issues. -/
def State.ringCycle (s : State) (f : Frag) : Nat := s.clock (coreDie f.g.core)

/-- A ring with a slot posted (R183, R184). -/
def Ring.post (r : Ring) (ws : List Word) : Ring :=
  let i := (r.head + r.count) % 8
  { r with slots := r.slots.set i ws, phases := r.phases.modify i (!·), count := r.count + 1 }
/-- A ring with its head slot taken (R185). -/
def Ring.take (r : Ring) : Ring := { r with head := (r.head + 1) % 8, count := r.count - 1 }

/-- SRPOST (R184): words of lanes 0 to 15, active or not; a full ring parks the fragment, which issues its SRPOST again at a later turn, so that
an SRPOST issued after it may be accepted first (log 113). It is a release (R25). -/
def execSrpost (m : Marks) (a : Code) (q : BitVec 2) (s : State) : Out :=
  issue s (.srpost m a q) m (fun f => { legal := (s.ring? f.g q.toNat).isSome, srcs := [opnd a 1] }) fun f =>
    match s.ring? f.g q.toNat with
    | some r =>
      if !r.accepts (s.ringCycle f) f.g.islot then .next s
      else if r.count = 8 then .next (s.park f .srpost)
      else if s.relBusy f.g then .next s
      else .next ((s.putRing f.g.tid q.toNat ((r.seen (s.ringCycle f) f.g.islot).post ((List.range 16).map fun l => BitVec.ofNat 32 (f.src a 1 l)))).goOn f m)
    | none => .next s

/-- SRTAKE (R185): an empty ring parks without issuing. -/
def execSrtake (m : Marks) (d : Code) (q : BitVec 2) (s : State) : Out :=
  issue s (.srtake m d q) m (fun f => { legal := (s.ring? f.g q.toNat).isSome, dst := some (opnd d 1), late := true }) fun f =>
    match s.ring? f.g q.toNat with
    | some r =>
      if !r.accepts (s.ringCycle f) f.g.islot then .next s
      else if r.count = 0 then .next (s.park f .srtake)
      else
        let ws := r.slots.getD r.head []
        .next (((s.putRing f.g.tid q.toNat (r.seen (s.ringCycle f) f.g.islot).take).resultLater f d 1 (perLane fun l => (ws.getD (l % 16) 0).toNat) f.sl.mask 0 .alu).goOn f m)
    | none => .next s

/-- SRWAIT (R186). -/
def execSrwait (m : Marks) (q : BitVec 2) (s : State) : Out :=
  issue s (.srwait m q) m (fun f => { legal := (s.ring? f.g q.toNat).isSome }) fun f =>
    match s.ring? f.g q.toNat with
    | some r =>
      if !r.accepts (s.ringCycle f) f.g.islot then .next s
      else if r.count = 0 then .next ((s.putRing f.g.tid q.toNat (r.seen (s.ringCycle f) f.g.islot)).goOn f m)
      else .next (s.park f .srwait)
    | none => .next s

end Sys2Proof.Machine
end

