-- ==== Sys2Proof/Machine/Monitors.lean ====
section
/-! DEFINITION. Monitors and timelines (R28, R187 to R189): WAITC with its watch and poll, TLWAIT, TLREAD. -/

namespace Sys2Proof.Machine

/-- Whether a WAITC condition holds (R187). -/
def waitCond (w : WaitFor) (mem val : Nat) : Bool :=
  let v (x : Nat) : Int := if w.signed then signedOf (32 * w.words) x else ((x % 2 ^ (32 * w.words) : Nat) : Int)
  condOf w.cond (v mem) (v val)
where
  condOf (c : Nat) (x y : Int) : Bool :=
    match c with
    | 0 => x = y
    | 1 => x ≠ y
    | 2 => x < y
    | 3 => x ≤ y
    | 4 => y < x
    | _ => y ≤ x

/-- The checks of the lanes a WAITC still waits in. -/
def State.waitAccesses (s : State) (g : Group) (w : WaitFor) : List LaneAccess :=
  w.left.map fun x => s.checkLane g .rd anyAperture (4 * w.words) (4 * w.words) x.lane x.addr

/-- Read the locations left: the lanes that stay unsatisfied, and the state with the lines brought in. -/
def State.waitRead (s : State) (g : Group) (w : WaitFor) (xs : List LaneAccess) : State × WaitFor :=
  let ag := s.agentOf g
  let s := xs.foldl (fun s x => x.pieces.foldl (fun s b => s.bringBit ag true b) s) s
  let left := w.left.filter fun l => match xs.find? fun x => x.lane = l.lane with
    | some x => !waitCond w (ofBytes (s.readBits g.core x.pieces)) l.val
    | none => true
  (s, { w with left := left })

/-- The watches of a WAITC: the lines or scratchpad locations of the lanes left. -/
def watchesOf (gid slot : Nat) (w : WaitFor) (xs : List LaneAccess) : List Monitor :=
  (xs.filter fun x => w.left.any fun l => l.lane = x.lane).flatMap fun x => x.pieces.filterMap fun b => match b.spot with
    | .pad pid off => some ⟨.waitc gid slot, some pid, off, b.len, false⟩
    | .mem va t _ => some ⟨.waitc gid slot, none, t.pa va, b.len, false⟩

def State.dropMonitors (s : State) (p : Monitor → Bool) : State :=
  s.setMsys { s.msys with monitors := s.msys.monitors.filter fun m => !p m }
/-- Set watches: one on a line is not set where the monitor table of the line's home slice is full (R187, R289). -/
def State.addMonitors (s : State) (ms : List Monitor) : State :=
  ms.foldl (fun (s : State) m =>
    let full := m.pad.isNone && Config.monitorSlots ≤ (s.msys.monitors.filter fun x => x.pad.isNone && s.homeOf x.addr = s.homeOf m.addr).length
    if full then s else s.setMsys { s.msys with monitors := s.msys.monitors ++ [m] }) s

/-- Whether a watch is a PC slot's WAITC. -/
def Monitor.isWaitc (gid slot : Nat) (m : Monitor) : Bool :=
  match m.who with
  | .waitc g i => g = gid && i = slot
  | _ => false

/-- WAITC (R187): every active lane's location is read when it issues; a later FENCE.acq acquires at all of them (R238). -/
def execWaitc (m : Marks) (a b : Code) (c : BitVec 4) (s : State) : Out :=
  issue s (.waitc m a b c) m
    (fun f => { typed := f.g.type < 4, srcs := [opnd a 2], srcB := some (opnd b f.words) }) fun f =>
    let w : WaitFor := ⟨c.toNat, f.words, f.g.type % 2 = 0, (lanesOf f.active).map fun l => ⟨l, f.src a 2 l, f.srcB b f.words l⟩⟩
    let xs := s.waitAccesses f.g w
    match lanesTrap 0 xs with
    | some t => trapLanes s f m .rd xs t
    | none =>
      if s.loadHeld f.g (xs.flatMap LaneAccess.pieces) then .next s
      else
        let (s, w) := (s.noteRead f.g (linesOfLanes xs)).waitRead f.g w xs
        if w.left = [] then .next (s.goOn f m)
        else .next (((s.noteWaiting f.g f.slot).addMonitors (watchesOf f.g.gid f.slot w xs)).park f (.waitc w (unitLen m 0)))

/-- A parked WAITC reads its locations again: the slot goes on once every lane has been satisfied. A location that
can no longer be read traps, with the mask word of the WAITC if its P bit is set (R99): its word and mask word are the last of the `len` bytes. -/
def State.waitAgain (s : State) (gid slot : Nat) : State :=
  match s.group? gid with
  | none => s
  | some g => match g.slot? slot with
    | none => s
    | some sl => match sl.park with
      | some (.waitc w len) =>
        if sl.stop.isSome || !s.mayIssue g then s
        else
          let xs := s.waitAccesses g w
          let s := s.dropMonitors (Monitor.isWaitc gid slot)
          match lanesTrap 0 xs with
          | some t => (s.tryLanes g .rd t.code xs).takeTrap ⟨g, slot, sl⟩ (if len % 8 = 0 then some (sl.pc.toNat + len - 4) else none) t
          | none =>
            let (s, w) := s.waitRead g w xs
            match s.group? gid with
            | none => s
            | some g =>
              if w.left = [] then s.putGroup (g.release slot len)
              else (s.addMonitors (watchesOf gid slot w xs)).putGroup (g.setSlot slot (some { sl with park := some (.waitc w len) }))
      | _ => s

/-- The watch of a WAITC has fired: it reads again (R187). -/
def execWaitcWatchFire (gid slot : Nat) (s : State) : Out :=
  if s.msys.monitors.any fun m => m.isWaitc gid slot && m.fired then .next (s.waitAgain gid slot) else .next s

/-- A WAITC without a watch reads again every 4,096 cycles (R187). The model lets any parked WAITC poll (log 19). -/
def execWaitcPoll (gid slot : Nat) (s : State) : Out := .next (s.waitAgain gid slot)

/-! ## Timelines (R27, R28, R189) -/

/-- A timeline with one more operation accepted; its number. -/
def Timeline.accept (t : Timeline) : Timeline := { t with accepted := t.accepted + 1 }

/-- The counter moves over every number that has completed (R27). -/
def advanceCounter : Nat → Nat → List Nat → Nat
  | 0, c, _ => c
  | k + 1, c, done => if done.contains (c + 1) then advanceCounter k (c + 1) done else c

/-- Operation `n` has completed its memory effects. -/
def Timeline.complete (t : Timeline) (n : Nat) : Timeline :=
  let done := if t.done.contains n then t.done else n :: t.done
  let c := advanceCounter done.length t.counter done
  { t with counter := c, done := done.filter fun k => c < k }

/-- The counter that a selector names, if the group holds the context (R189). -/
def State.timeline? (s : State) (g : Group) (sel b : Nat) : Option Timeline :=
  match sel with
  | 0 => if g.role.copies then some g.copy else none
  | 1 => if g.gang.isSome then some g.gangTl else none
  | 2 => if g.role.vectors then some g.samp else none
  | 3 => if g.role.vectors then some g.ray else none
  | _ => if b ≤ 15 then ((s.ctxOf g).bind fun c => c.streams[b]?).map (·.tl) else none

/-- TLWAIT (R28, R189): the effects of engines lie at their homes, so its acquire moves nothing here. -/
def execTlwait (m : Marks) (a b : Code) (x : BitVec 4) (s : State) : Out :=
  issue s (.tlwait m a b x) m
    (fun _ => { srcs := [opnd a 2], srcB := if x.toNat = 4 then some (opnd b 1) else none }) fun f =>
    let n := f.src a 2 f.low
    let sb := if x.toNat = 4 then f.srcB b 1 f.low else 0
    match s.timeline? f.g x.toNat sb with
    | none => trapOut s f m ⟨0x02, 0, 0, f.sl.mask⟩
    | some t =>
      if x.toNat ≠ 4 && t.accepted < n then trapOut s f m ⟨0x02, 0, 0, f.sl.mask⟩
      else if n ≤ t.counter then .next (s.goOn f m)
      else .next (s.park f .tlwait)

/-- TLREAD (R28, R189): the counter, without waiting. -/
def execTlread (m : Marks) (d b : Code) (x : BitVec 4) (s : State) : Out :=
  issue s (.tlread m d b x) m
    (fun _ => { srcB := if x.toNat = 4 then some (opnd b 1) else none, dst := some (opnd d 2), late := true }) fun f =>
    let sb := if x.toNat = 4 then f.srcB b 1 f.low else 0
    match s.timeline? f.g x.toNat sb with
    | none => trapOut s f m ⟨0x02, 0, 0, f.sl.mask⟩
    | some t => .next ((s.resultLater f d 2 (perLane fun _ => t.counter) f.sl.mask 0 .alu).goOn f m)

end Sys2Proof.Machine
end

