-- ==== Sys2Proof/Machine/SaveArea.lean ====
section
/-! DEFINITION. The context save area in memory (R102 to R104, R379, R384, R452): its header, the chain of team records,
the owner records and the spill slots. -/

namespace Sys2Proof.Machine

/-- Write a little-endian field at its home. -/
def State.setField (s : State) (a n v : Nat) : State := (s.touchRange (firmwareUnit 0) a n).writeHome a (bytesOf v n)

/-! ## Layout (R452) -/

def ownerOff : Nat := 0x200
def spillOff : Nat := 0x7000
/-- SLOT of spill slot `j`, from the spill area's base (R379). -/
def spillSlot (j : Nat) : Nat := 0x40 + 0x1040 * j
/-- TEAMOFF: the first multiple of 4,096 at or after the end of the gang images. -/
def teamOff (nslot gimg : Nat) : Nat := (spillOff + spillSlot nslot + gimg + 4095) / 4096 * 4096
/-- The length of a team record of `ng` groups of `n` registers, `nb` barriers and `sb` scratch bytes (R104). -/
def teamRecLen (ng n nb sb : Nat) : Nat := (64 + ng * (10496 + 256 * n) + 4 * 576 + 16 * nb + 64 * ng + sb + 63) / 64 * 64
/-- The length of a team record of a kernel. -/
def KDesc.recLen (k : KDesc) : Nat := teamRecLen k.ngroups (allotRegs k.allot) k.nbar k.scratch

/-! ## The header (R102) -/

/-- The header fields that change while the context lives. -/
def State.writeHeader (s : State) (c : Ctx) : State :=
  let s := s.touchRange (firmwareUnit 0) c.save 0x120
  let s := s.writeHome (c.save + 0x0B) [BitVec.ofNat 8 ((if c.compat then 1 else 0) + (if c.trapArith then 2 else 0))]
  let s := s.writeHome (c.save + 0x40) (c.streams.flatMap fun x => bytesOf x.tl.counter 8)
  let s := s.writeHome (c.save + 0xC0) (c.fpx.flatMap fun v => bytesOf v 4)
  s.setField (c.save + 0x110) 4 c.fpxThr

/-- Lay out a new save area: header, no owner, spill slots not in use, no team record. -/
def State.initSaveArea (s : State) (c : Ctx) : State :=
  let s := s.touchRange (firmwareUnit 0) c.save (spillOff + spillSlot c.nslot)
  let s := s.writeHome c.save (bytesOf 1 4 ++ bytesOf c.ctxid 4 ++ bytesOf c.asid 2 ++ bytesOf c.cls 1 ++ bytesOf 0 5 ++
    bytesOf (teamOff c.nslot c.gimgBytes) 8 ++ bytesOf 0 8 ++ bytesOf ownerOff 8 ++ bytesOf spillOff 8 ++ List.replicate 464 0)
  let s := s.writeHome (c.save + spillOff)
    (bytesOf c.nslot 4 ++ bytesOf 0 4 ++ bytesOf (spillSlot c.nslot) 8 ++ bytesOf c.gimgBytes 8 ++ List.replicate 40 0)
  let s := (List.range c.nslot).foldl (fun (s : State) j => s.setField (c.save + spillOff + spillSlot j + 0x1004) 4 0) s
  s.writeHeader c

/-! ## The chain of team records (R452) -/

/-- A record of the chain: offset, size, whether it is free. -/
structure SaveRec where
  off : Nat
  len : Nat
  free : Bool
  deriving DecidableEq, Repr

/-- The chain from an offset on: each record follows the previous one at its LEN. -/
def chainFrom (s : State) (save : Nat) : Nat → Nat → List SaveRec
  | 0, _ => []
  | k + 1, off =>
    let len := s.field (save + off) 4
    ⟨off, len, s.field (save + off + 0x10) 2 = 0⟩ :: chainFrom s save k (off + len)

def State.chain (s : State) (c : Ctx) : List SaveRec := chainFrom s c.save (s.field (c.save + 0x0C) 4) (teamOff c.nslot c.gimgBytes)

/-- Write a record's LEN, INDEX and NGROUPS. -/
def State.writeRecHead (s : State) (c : Ctx) (off len x y z ng : Nat) : State :=
  (s.touchRange (firmwareUnit 0) (c.save + off) 18).writeHome (c.save + off) (bytesOf len 4 ++ bytesOf x 4 ++ bytesOf y 4 ++ bytesOf z 4 ++ bytesOf ng 2)

/-- A record for a newly placed team: the first free one that is large enough, its remainder split off; else space at
the end of the chain; nothing where none remains. Answers its offset. -/
def State.allocRecord (s : State) (c : Ctx) (len x y z ng : Nat) : Option (Nat × State) :=
  let ch := s.chain c
  match ch.find? fun r => r.free && len ≤ r.len with
  | some r =>
    let s := s.writeRecHead c r.off len x y z ng
    if len + 64 ≤ r.len then
      let s := s.writeRecHead c (r.off + len) (r.len - len) 0 0 0 0
      some (r.off, s.setField (c.save + 0x0C) 4 (ch.length + 1))
    else some (r.off, s)
  | none =>
    let last := (ch.getLast?.map fun r => r.off + r.len).getD (teamOff c.nslot c.gimgBytes)
    if last + len ≤ c.saveBytes then
      some (last, (s.writeRecHead c last len x y z ng).setField (c.save + 0x0C) 4 (ch.length + 1))
    else none

/-- The record of a team that has exited stays in the chain as a free record. -/
def State.freeRecord (s : State) (c : Ctx) (off len : Nat) : State := s.writeRecHead c off len 0 0 0 0

/-! ## Owner records (R103) and spill slots (R379, R384) -/

/-- An owner record: cluster, tile, spilled or not, SLOT. -/
structure OwnerRec where
  cluster : Nat
  tile : Nat
  spilled : Bool
  slot : Nat
  deriving DecidableEq, Repr

/-- The owner records of a context, in order. -/
def State.owners (s : State) (c : Ctx) : List OwnerRec :=
  (List.range (s.field (c.save + 0x18) 4)).map fun i =>
    let a := c.save + ownerOff + 16 * i
    ⟨s.field a 2, s.field (a + 2) 1, s.field (a + 3) 1 = 1, s.field (a + 8) 8⟩

/-- Write the owner records of a context and their count. -/
def State.writeOwners (s : State) (c : Ctx) (os : List OwnerRec) : State :=
  let s := (s.touchRange (firmwareUnit 0) (c.save + ownerOff) (16 * os.length)).writeHome (c.save + ownerOff) (os.flatMap fun o =>
    bytesOf o.cluster 2 ++ bytesOf o.tile 1 ++ bytesOf (if o.spilled then 1 else 0) 1 ++ bytesOf 0 4 ++ bytesOf o.slot 8)
  s.setField (c.save + 0x18) 4 os.length

def OwnerRec.is (o : OwnerRec) (cl t : Nat) : Bool := o.cluster = cl && o.tile = t

/-- Set the owner record of a tile. -/
def State.putOwner (s : State) (c : Ctx) (r : OwnerRec) : State :=
  let os := s.owners c
  s.writeOwners c (if os.any fun o => o.is r.cluster r.tile then os.map fun o => if o.is r.cluster r.tile then r else o else os ++ [r])

/-- The context owns a tile no more. -/
def State.dropOwner (s : State) (c : Ctx) (cl t : Nat) : State := s.writeOwners c ((s.owners c).filter fun o => !o.is cl t)

/-- The bytes of a tile's image (R362). -/
def Tile.image (t : Tile) : List Byte := (List.range 1024).flatMap fun i => bytesOf (t.words.getD i 0).toNat 4

/-- The tile with an image and an overflow counter. -/
def Tile.load (t : Tile) (bs : List Byte) (ovf : Nat) : Tile :=
  { t with words := (List.range 1024).map fun i => BitVec.ofNat 32 (ofBytes ((bs.drop (4 * i)).take 4)), ovf := ovf }

/-- The lowest spill slot that is not in use (R384). -/
def State.freeSlot (s : State) (c : Ctx) : Option Nat :=
  (List.range c.nslot).find? fun j => s.field (c.save + spillOff + spillSlot j + 0x1004) 4 = 0

/-- Spill a tile of its owner (R378, step 2): nothing where the owner has no free slot. -/
def State.spillTile (s : State) (c : Ctx) (cl t : Nat) (tile : Tile) : Option State :=
  (s.freeSlot c).map fun j =>
    let a := c.save + spillOff + spillSlot j
    let s := (s.touchRange cl a 0x1008).writeHome a (tile.image ++ bytesOf tile.ovf 4 ++ bytesOf 1 4)
    s.putOwner c ⟨cl, t, true, spillSlot j⟩

/-- The tile that a context gets back (R378, step 3): its spilled copy, whose slot is freed, or zeros. -/
def State.unspillTile (s : State) (c : Ctx) (cl t : Nat) (tile : Tile) : Tile × State :=
  match (s.owners c).find? fun o => o.is cl t && o.spilled with
  | some o =>
    let a := c.save + spillOff + o.slot
    let t' := tile.load (Memory.read s.mem a 4096) (s.field (a + 0x1000) 4)
    (t', ((s.touchRange cl a 0x1008).setField (a + 0x1004) 4 0).putOwner c ⟨cl, t, false, 0⟩)
  | none => ({ tile with words := [], ovf := 0 }, s.putOwner c ⟨cl, t, false, 0⟩)

/-- Whether any context holds a spilled copy of a tile. -/
def State.spilledAnywhere (s : State) (cl t : Nat) : Bool :=
  s.contexts.any fun c => !c.killed && (s.owners c).any fun o => o.is cl t && o.spilled

end Sys2Proof.Machine
end

