-- ==== Sys2Proof/Machine/System.lean ====
section
/-! DEFINITION. System registers and system instructions (R189 to R199): MFS, MTS, ERET, HALT, CINV, CWB, TLBI, RGREL. -/

namespace Sys2Proof.Machine

/-! ## The view set that a team serves (R194, R392) -/

/-- The frame that a launch belongs to. -/
def LaunchKind.frame? : LaunchKind → Option Nat
  | .grid => none
  | .meshlets f => some f
  | .tiles f _ => some f
  | .fragment f _ => some f

/-- The frame that a group's team serves. -/
def State.frameOf (s : State) (g : Group) : Option Frame := ((s.launchOf g).bind fun l => l.kind.frame?).bind s.frame?

def Frame.viewSetRegs (s : State) (fr : Frame) : ViewSet := (s.die fr.die).viewSets.getD fr.vset ViewSet.reset
def State.modViewSet (s : State) (fr : Frame) (f : ViewSet → ViewSet) : State :=
  s.modDie fr.die fun d => { d with viewSets := d.viewSets.modify fr.vset f }

/-! ## Latches (R392) -/

def View.nstrips (w : View) : Nat := w.strips.length
def View.follow0 (w : View) : Bool := w.flags / 8 % 2 = 1
def View.startOf (w : View) (k : Nat) : Nat := (w.strips[k]?.map (·.start)).getD 0

/-- The view set's counter: cycles since the start event (R386). -/
def State.viewClock (s : State) (fr : Frame) : Nat := s.clock fr.die - (fr.viewSetRegs s).start

/-- The latched registers of a strip of a view; they hold R194's reset values until one is latched. -/
def ViewSet.latchRegs (x : ViewSet) (v k : Nat) : Latch := (x.latches.find? fun l => l.view = v && l.strip = k).getD ⟨v, k, 0, 0, 0x0040⟩

/-- A view latches for a strip. -/
def ViewSet.latch (x : ViewSet) (l : Latch) : ViewSet :=
  { x with latched := x.latched ++ [(l.view, l.strip)], latches := (x.latches.filter fun y => !(y.view = l.view && y.strip = l.strip)) ++ [l] }

/-- What a view latched for a strip in the frame in flight. -/
def State.latchOf (s : State) (fr : Frame) (v k : Nat) : Option Latch :=
  if (fr.viewSetRegs s).latched.contains (v, k) then some ((fr.viewSetRegs s).latchRegs v k) else none

/-- A view latches for one of its strips, once its START has come. -/
def State.latchStrip (s : State) (fr : Frame) (v k : Nat) : State :=
  match fr.views[v]? with
  | none => s
  | some w =>
    if w.nstrips ≤ k || (s.latchOf fr v k).isSome || s.viewClock fr < w.startOf k then s
    else
      let r := fr.viewSetRegs s
      let from_ := if w.follow0 then 0 else v
      s.modViewSet fr fun x => x.latch ⟨v, k, r.gzx.getD from_ 0, r.gzy.getD from_ 0, r.clsArea⟩

/-- Every latch of a frame whose START has come is made: before a write of a pending register, which is performed in the cycle of the
START or later and so is for the strips after it. -/
def State.latchDue (s : State) (fr : Frame) : State :=
  (List.range fr.views.length).foldl (fun s v => (List.range (((fr.views[v]?).map View.nstrips).getD 0)).foldl (fun s k => s.latchStrip fr v k) s) s

/-! ## Reading and writing system registers (R192 to R195) -/

/-- The value of a system register in a lane (R190, R192). In a firmware group, which has no context, the registers of a context read 0 and
ignore what is written (log 117); so do those of a team. -/
def State.sysReg (s : State) (g : Group) (r lane : Nat) : Nat :=
  let t := s.teamOf g
  let c := s.ctxOf g
  let d := s.die (coreDie g.core)
  let ofTeam (f : Team → Nat) : Nat := (t.map f).getD 0
  let ofCtx (f : Ctx → Nat) : Nat := (c.map f).getD 0
  let ofView (f : ViewSet → Nat) : Nat := ((s.frameOf g).map fun fr => f (fr.viewSetRegs s)).getD 0
  if r = 0x000 then 64
  else if r = 0x001 then lane
  else if r = 0x002 then g.grpId
  else if r = 0x003 then ofTeam (·.ix)
  else if r = 0x004 then ofTeam (·.iy)
  else if r = 0x005 then ofTeam (·.iz)
  else if r = 0x006 then ofTeam (·.rank) * 256 + coreCluster g.core % 48
  else if r = 0x007 then g.core % 4
  else if r = 0x008 then s.net.moduleNo * 65536 + coreDie g.core
  else if r = 0x010 then g.oscount
  else if r = 0x011 then g.trap.aux * 65536 + g.trap.code
  else if r = 0x012 then (s.core g.core).ldcap
  else if r = 0x013 then if g.quadFault then 1 else 0
  else if r ≤ 0x016 then (g.spanLost.getD (r - 0x014) 0).toNat
  else if r = 0x020 then ofCtx (·.asid)
  else if r = 0x021 then ofCtx (·.ctxid)
  else if r = 0x022 then ofCtx (·.cls)
  else if r ≤ 0x053 then ofCtx fun x => x.fpx.getD (r - 0x040) 0
  else if r = 0x054 then ofCtx (·.fpxThr)
  else if r = 0x060 then ofView fun v => (v.gzx.getD 0 0).toNat
  else if r = 0x061 then ofView fun v => (v.gzy.getD 0 0).toNat
  else if r = 0x062 then ofView (·.clsArea)
  else if r = 0x100 then d.fwvec.toNat % 2 ^ 32
  else if r = 0x101 then d.fwvec.toNat / 2 ^ 32
  else if r = 0x102 then d.fwepc.toNat % 2 ^ 32
  else if r = 0x103 then d.fwepc.toNat / 2 ^ 32
  else if r = 0x104 then d.fwcause.toNat
  else 0

/-- A 64-bit register with its low or high word replaced. -/
def withHalf (old : BitVec 64) (high : Bool) (v : Nat) : BitVec 64 :=
  if high then BitVec.ofNat 64 (v % 2 ^ 32 * 2 ^ 32 + old.toNat % 2 ^ 32) else BitVec.ofNat 64 (old.toNat / 2 ^ 32 * 2 ^ 32 + v % 2 ^ 32)

/-- A written counter arms its threshold where it is found below it (R154). -/
def Ctx.rearm (c : Ctx) : Ctx := { c with fired := c.fired.mapIdx fun i b => b && c.fpxThr ≤ c.fpx.getD i 0 }

/-- Write a system register (R191): read-only registers ignore the write. The save area holds FPXCNT and FPXTHR (R102, R153). -/
def State.writeSysReg (s : State) (g : Group) (r v : Nat) : State :=
  let ofCtx (f : Ctx → Ctx) : State := match s.ctxOf g with | some c => s.putCtx (f c) | none => s
  let ofView (f : ViewSet → ViewSet) : State := match s.frameOf g with | some fr => (s.latchDue fr).modViewSet fr f | none => s
  let ofDie (f : Die → Die) : State := s.modDie (coreDie g.core) f
  let inArea (off n v : Nat) (t : State) : State :=
    match s.ctxOf g with
    | some c => (t.touchRange (coreCluster g.core) (c.save + off) n).writeHome (c.save + off) (bytesOf v n)
    | none => t
  if r = 0x013 then s.putGroup { g with quadFault := g.quadFault && v % 2 = 0 }
  else if 0x014 ≤ r && r ≤ 0x016 then
    s.putGroup { g with spanLost := g.spanLost.modify (r - 0x014) fun w => w &&& ~~~(BitVec.ofNat 32 v) }
  else if 0x040 ≤ r && r ≤ 0x053 then inArea (0xC0 + 4 * (r - 0x040)) 4 v (ofCtx fun c => { c with fpx := c.fpx.set (r - 0x040) v }.rearm)
  else if r = 0x054 then inArea 0x110 4 v (ofCtx fun c => { c with fpxThr := v }.rearm)
  else if r = 0x060 then ofView fun w => { w with gzx := w.gzx.set 0 (BitVec.ofNat 32 v) }
  else if r = 0x061 then ofView fun w => { w with gzy := w.gzy.set 0 (BitVec.ofNat 32 v) }
  else if r = 0x062 then ofView fun w => { w with clsArea := v % 65536 }
  else if r = 0x100 then ofDie fun d => { d with fwvec := withHalf d.fwvec false (v / 4 * 4) }
  else if r = 0x101 then ofDie fun d => { d with fwvec := withHalf d.fwvec true v }
  else if r = 0x102 then ofDie fun d => { d with fwepc := withHalf d.fwepc false v }
  else if r = 0x103 then ofDie fun d => { d with fwepc := withHalf d.fwepc true v }
  else s

/-- MFS (R190): every lane of the fragment's mask. A firmware register outside FIRMWARE mode traps PRIV. -/
def execMfs (m : Marks) (d : Code) (i : BitVec 10) (s : State) : Out :=
  issue s (.mfs m d i) m (fun _ => { priv := firmwareReg i.toNat, dst := some (opnd d 1) }) fun f =>
    .next ((s.result f d 1 (perLane (s.sysReg f.g i.toNat)) f.sl.mask).goOn f m)

/-- MTS (R191): the value of the lowest lane. -/
def execMts (m : Marks) (a : Code) (i : BitVec 10) (s : State) : Out :=
  issue s (.mts m a i) m (fun _ => { priv := firmwareReg i.toNat, srcs := [opnd a 1] }) fun f =>
    .next ((s.writeSysReg f.g i.toNat (f.src a 1 f.low)).goOn f m)

/-! ## ERET and HALT (R196) -/

/-- ERET: back to FWEPC; an FWEPC that is no multiple of 4 traps MISALIGNED. -/
def execEret (m : Marks) (s : State) : Out :=
  issue s (.eret m) m (fun _ => { priv := true }) fun f =>
    let pc := (s.die (coreDie f.g.core)).fwepc
    if pc.toNat % 4 = 0 then .next (s.returnFirmware f) else trapOut s f m ⟨0x07, 0, pc.toNat, f.sl.mask⟩

/-- HALT: parks until a wake event of the die; one that is held ends it at once. -/
def execHalt (m : Marks) (s : State) : Out :=
  issue s (.halt m) m (fun _ => { priv := true }) fun f =>
    let d := coreDie f.g.core
    if (s.die d).wakeHeld then .next ((s.modDie d fun x => { x with wakeHeld := false }).goOn f m)
    else .next (s.park f (.halt (unitLen m 0)))

/-! ## CINV, CWB, TLBI, RGREL (R197, R198, R199) -/

/-- The physical address of a lane's GLOBAL address that is mapped (R197). -/
def State.mappedPa (s : State) (f : Frag) (a : Code) (l : Nat) : Option Nat :=
  let v := f.src a 2 l
  if v < 2 ^ 56 then (s.pageOf (s.agentOf f.g) v).map fun t => t.1.pa v else none

/-- What the translation of a lane's GLOBAL address leaves of its walk (R207). -/
def State.mapLane (s : State) (f : Frag) (a : Code) (l : Nat) : State :=
  let v := f.src a 2 l
  if v < 2 ^ 56 then s.walkVa (s.agentOf f.g) (fun _ => true) v else s

/-- Write back, and drop if `inv`, the copies of a line, or of a 4 KiB span if `span`, that a scope reaches. The L1 copies are the issuing
core's at every scope: R197 says "the issuing core" at CLUSTER and narrower and only "L1 copies" beyond (log 88). -/
def State.cacheOp (s : State) (core scope : Nat) (span inv : Bool) (pa : Nat) : State :=
  let hit : Nat → Bool := fun line => if span then line / 64 = pa / 4096 else line = pa / 64
  let p : L1Line → Bool := fun l => l.core = core && hit l.pline
  let s := if inv then s.dropLines p else s.cleanLines p
  let s := if inv && 4 ≤ scope then s.setMsys (s.msys.dropGuests hit) else s
  if inv && scope = 8 then s.setMsys { s.msys with l2 := s.msys.l2.filter fun l => !hit l.line } else s

/-- CINV and CWB on each lane of the fragment's mask. -/
def cacheOpOut (s : State) (f : Frag) (m : Marks) (a : Code) (scope : Nat) (span inv : Bool) : Out :=
  let pas := (lanesOf f.sl.mask).filterMap (s.mappedPa f a)
  let s := (lanesOf f.sl.mask).foldl (fun (s : State) l => s.mapLane f a l) s
  .next ((pas.foldl (fun s pa => s.cacheOp f.g.core scope span inv pa) s).goOn f m)

def execCinv (m : Marks) (a b : Code) (x : BitVec 4) (s : State) : Out :=
  issue s (.cinv m a b x) m (fun _ => { srcs := [opnd a 2] }) fun f => cacheOpOut s f m a b.toNat (x.toNat = 1) true

def execCwb (m : Marks) (a b : Code) (x : BitVec 4) (s : State) : Out :=
  issue s (.cwb m a b x) m (fun _ => { srcs := [opnd a 2] }) fun f => cacheOpOut s f m a b.toNat (x.toNat = 1) false

/-- TLBI (R198): the broadcast starts, and the group issues nothing until the shootdown has completed. -/
def execTlbi (m : Marks) (a b : Code) (x : BitVec 4) (s : State) : Out :=
  issue s (.tlbi m a b x) m (fun _ => { priv := true, srcs := [opnd a 2], srcB := some (opnd b 1) }) fun f =>
    let (sid, s) := s.fresh
    let d : Shootdown := ⟨sid, x.toNat, f.srcB b 1 f.low % 65536, f.src a 2 f.low, some (f.g.gid, f.slot)⟩
    .next ((s.setMsys { s.msys with shootdowns := s.msys.shootdowns ++ [d] }).goOn f m)

/-- Release the home of a region: recorded releasers write back, its lines return to memory, the entry is cleared. -/
def State.releaseRegion (s : State) (region : Nat) : State :=
  let s := s.force fun r => r.line / 1024 = region
  s.setMsys { s.msys with
    l2 := s.msys.l2.filter fun l => l.line / 1024 ≠ region
    guests := s.msys.guests.filter fun g => g.1 / 1024 ≠ region
    region := s.msys.region.filter fun r => r.1 ≠ region }

/-- RGREL (R199): a region without a home is left as it is; so is one of another module, whose homes are that module's (log 89). -/
def execRgrel (m : Marks) (a : Code) (s : State) : Out :=
  issue s (.rgrel m a) m (fun _ => { srcs := [opnd a 2] }) fun f =>
    let v := f.src a 2 f.low
    if 2 ^ 56 ≤ v then trapOut s f m ⟨0x0A, 0, v, 1#64 <<< f.low⟩
    else match s.mappedPa f a f.low with
      | none => trapOut (s.mapLane f a f.low) f m ⟨0x08, 0, v, 1#64 <<< f.low⟩
      | some pa =>
        let s := s.mapLane f a f.low
        if pa < 2 ^ 46 && s.msys.region.any (fun r => r.1 = regionOf pa) then .next ((s.releaseRegion (regionOf pa)).goOn f m)
        else .next (s.goOn f m)

end Sys2Proof.Machine
end

