-- ==== Sys2Proof/Machine/Ending.lean ====
section
/-! DEFINITION. What ends: lanes that exit (R86, R164), gangs that members leave (R364, R382), groups, teams and the
records that they leave behind (R309, R393, R406, R452). -/

namespace Sys2Proof.Machine

/-- An engine error of a context (R442, KIND 6): engine 0 copy, 1 matrix, 2 Selvedge, 3 ray, 4 Beater, 5 task unit, 6 raster. -/
def State.engineError (s : State) (die ctx a engine : Nat) : State := s.postEvent die 6 ctx a engine

/-! ## Accesses of engines and firmware on a context's behalf (R308, R246) -/

/-- Check a virtual range for an access that is performed at home slices: a line with an uncorrectable error faults there (R252). -/
def State.checkHome (s : State) (ag : Agent) (acc : Acc) (a n : Nat) : Except (Nat × Nat) (List Bit) :=
  match s.checkRange ag acc a n with
  | .error e => .error e
  | .ok bs => if bs.any fun b => b.lines.any s.msys.badLines.contains then .error (0x09, a) else .ok bs

/-- Read `n` bytes at a virtual address at their home, or the trap code and the address that faults. -/
def State.peekVa (s : State) (ag : Agent) (a n : Nat) : Except (Nat × Nat) (State × Nat) :=
  match s.checkHome ag .rd a n with
  | .error e => .error e
  | .ok bs =>
    let (s, v) := s.engineReads ag bs
    .ok (s, ofBytes v)

/-- What a read at a virtual address leaves: its requests, or its walk where it faults. -/
def State.readVa (s : State) (ag : Agent) (a n : Nat) : State :=
  match s.peekVa ag a n with
  | .ok (s, _) => s
  | .error e => s.tryVa ag .rd e.2

/-- Write bytes at a virtual address at their home. -/
def State.pokeVa (s : State) (ag : Agent) (a : Nat) (v : List Byte) : Except (Nat × Nat) State :=
  match s.checkHome ag .wr a v.length with
  | .error e => .error e
  | .ok bs => .ok (s.engineWrites ag bs v)

/-- Write where the access is allowed; nothing but the walk where it faults. -/
def State.pokeOr (s : State) (ag : Agent) (a : Nat) (v : List Byte) : State :=
  match s.pokeVa ag a v with
  | .ok s => s
  | .error e => s.tryVa ag .wr e.2

/-- The die of the home slice that holds a virtual address (R442), the agent's own where it has none. -/
def State.homeDie (s : State) (ag : Agent) (a : Nat) : Nat :=
  match s.pageOf ag a with
  | some (t, _) => s.homeOf (t.pa a) / 48
  | none => ag.unit / 48

/-! ## Gangs (R364, R382) -/

/-- The gang operation `n` of a gang is performed, for the counter of every member. -/
def State.gangDone (s : State) (g : Gang) (n : Nat) : State :=
  let s := s.setGroups (mapWhere (fun h => h.gang = some g.gid) (fun h => { h with gangTl := h.gangTl.complete n }) s.groups)
  match s.gang? g.gid with
  | some x => s.putGang { x with ops := x.ops.filter fun o => o.k ≠ n }
  | none => s

/-- Whether an operation can be performed: the gang is formed and every member has issued it. -/
def Gang.eligible (g : Gang) (o : GangOp) : Bool := g.formed && o.by_.length = g.size

/-- Discard the held operations that `p` picks: no tile changes, each counts as performed, an engine error is posted. -/
def State.discardOps (s : State) (g : Gang) (p : GangOp → Bool) : State :=
  (g.ops.filter fun o => !g.eligible o && p o).foldl (fun (s : State) o => (s.engineError (g.cluster / 48) g.ctx 0 1).gangDone g o.k) s

/-- A gang context is freed once every member has left it and every operation has been performed. -/
def State.freeGang (s : State) (gid : Nat) : State :=
  match s.gang? gid with
  | some g => if g.left.length = g.joined.length && g.ops = [] then s.dropGang gid else s
  | none => s

/-- Why a member leaves its gang: it joins another, it exits, or it restarts or is killed. -/
inductive Leave where | join | exit | restart
  deriving DecidableEq, Repr

/-- A group leaves its gang. One that is not formed is closed and its held operations are discarded; a restart
or a kill discards every held operation; an exit discards those that await the member; a join discards none. -/
def State.leaveGang (s : State) (gid : Nat) (why : Leave) : State :=
  match s.group? gid with
  | none => s
  | some h => match h.gang.bind s.gang? with
    | none => s.putGroup { h with gang := none }
    | some g =>
      let i := ((g.joined.find? fun p => p.2 = gid).map (·.1)).getD 0
      let s := s.discardOps g fun o => !g.formed || why = .restart || (why = .exit && !o.by_.contains i)
      let s := match s.gang? g.gid with
        | some x => s.putGang { x with left := x.left ++ [i], closed := x.closed || !x.formed }
        | none => s
      let s := match s.group? gid with
        | some h => s.putGroup { h with gang := none, gangTl := ⟨0, 0, []⟩ }
        | none => s
      s.freeGang g.gid

/-! ## Groups -/

/-- Whether no lane of a group remains. -/
def Group.ended (g : Group) : Bool := g.slot0.isNone && g.slot1.isNone && (popFrag g.dstack).isNone

/-- The task whose entry a TKGET has taken, while its STATE is still to be written (R311). -/
def OutKind.taskOf : OutKind → Option Nat
  | .tkget w => w.desc
  | _ => none

/-- The task that a group holds, one that its TKGET has just taken among them (R309). -/
def State.taskOf (s : State) (g : Group) : Option Nat :=
  g.task.or (s.outs.filterMap fun r => if r.gid = g.gid && r.left ≠ 0 then r.kind.taskOf else none).head?

/-- A group that holds a task leaves it with STATE 5 and FCODE 0x00FF (R309). -/
def State.leaveTask (s : State) (g : Group) : State :=
  match g.task with
  | none => s
  | some tcb =>
    let ag := { s.agentOf g with bypass := true }
    let s := (s.pokeOr ag (tcb + 4) [5]).pokeOr ag (tcb + 6) (bytesOf 0xFF 2)
    s.engineError (s.homeDie ag tcb) ag.ctx tcb 5

/-- A meshlet's primitives are committed, in ascending index (R393, R396), and what it adds to ERRPRIM is noted (R407). -/
def Frame.commit (fr : Frame) (m err : Nat) (ps : List EPrim) : Frame :=
  let new : List Prim := (List.range 128).filterMap fun p => (ps.find? fun e => e.p = p).map fun e => ⟨m * 128 + p, e.mask, e.verts, none, false⟩
  { fr with prims := fr.prims ++ new, emitErrs := fr.emitErrs ++ (if err = 0 then [] else [(m, err)]) }

/-- The runs of some meshlets count as never made: their primitives and what they add to ERRPRIM are gone (R393, R407). -/
def Frame.uncommit (fr : Frame) (ms : Nat → Bool) : Frame :=
  { fr with prims := fr.prims.filter fun p => !ms (p.pid / 128), emitErrs := fr.emitErrs.filter fun e => !ms e.1 }

/-- ERRPRIM (R407). -/
def Frame.errTotal (fr : Frame) : Nat := fr.errPrim + (fr.emitErrs.map (·.2)).sum

/-- A fragment batch has ended (R404, R406, R407). -/
def Frame.endBatch (fr : Frame) (b : Nat) : Frame :=
  match fr.batches.find? fun x => x.bid = b with
  | none => fr
  | some x =>
    { fr with batches := put Batch.bid { x with ended := true } fr.batches
              counters := fr.counters.modify x.view fun c => { c with fragGroups := c.fragGroups + 1 } }

/-- What a group's end does to its frame. -/
def State.endPart (s : State) (g : Group) : State :=
  match g.part with
  | .meshlet f m => match s.frame? f with | some fr => s.putFrame (fr.commit m g.emitErr g.eprims) | none => s
  | .fragment f b => match s.frame? f with | some fr => s.putFrame (fr.endBatch b) | none => s
  | _ => s

/-- A team that has exited: its record is freed and its launch counts it (R283, R452). -/
def State.exitTeam (s : State) (tid : Nat) : State :=
  match s.team? tid with
  | none => s
  | some t =>
    let s := s.putTeam { t with place := .gone, preempt := none }
    let s := match s.ctx? t.ctx with | some c => s.freeRecord c t.recOff t.recLen | none => s
    match s.launch? t.lid with
    | some l => s.putLaunch { l with exited := l.exited + 1 }
    | none => s

/-- A group ends: its task, its gang, its part of a frame; its team exits with its last group. -/
def State.endGroup (s : State) (gid : Nat) : State :=
  match s.group? gid with
  | none => s
  | some g =>
    let s := s.leaveTask g
    let s := (s.leaveGang gid .exit).endPart g
    let s := s.dropMonitors fun m => m.isWaitc gid 0 || m.isWaitc gid 1
    let s := match s.group? gid with
      | some g => s.putGroup { g with task := none, vslots := [], eprims := [], emitErr := 0, phase := .none }
      | none => s
    if (s.groupsOf g.tid).all Group.ended then s.exitTeam g.tid else s

/-! ## Lanes that exit (R86, R87, R164) -/

/-- The word after the JOIN at an address and its mask word; a JOIN that cannot be read has none (R36). -/
def State.joinSucc (s : State) (g : Group) (a : Addr) : Addr :=
  match s.fetchWord g a.toNat with
  | .ok w => a + (if w.getLsbD 30 then 8 else 4)
  | .error _ => a + 4

/-- The stack without some lanes in its expected masks. -/
def withoutLanes (m : LaneMask) (st : List DEntry) : List DEntry := st.map fun e => match e with
  | .record i a x r p => DEntry.record i a (x &&& ~~~m) r p
  | .frag _ _ _ => e

/-- The oldest join record that is complete. -/
def completeJoin (st : List DEntry) : Option (Nat × Addr × LaneMask × Option Nat) :=
  st.findSome? fun e => match e with
    | .record i a x r p => if r = x then some (i, a, x, p) else none
    | .frag _ _ _ => none

/-- Put a new fragment in a free slot, slot `i` first, or push it (R87). -/
def Group.settleFrag (g : Group) (i : Nat) (pc : Addr) (mask : LaneMask) (join : Option Nat) : Group :=
  match g.slot? i with
  | none => (g.setSlot i (some (Slot.at pc mask join))).emptyQueue i
  | some _ => g.place (1 - i) pc mask join

/-- Complete every record whose lanes have all arrived: each goes on behind its JOIN; one that no lane is left of goes. -/
def Group.completeJoins (succ : Addr → Addr) (i : Nat) : Nat → Group → Group
  | 0, g => g
  | k + 1, g =>
    match completeJoin g.dstack with
    | none => g
    | some (id, a, x, p) =>
      let g := { g with dstack := dropJoin g.dstack id }
      Group.completeJoins succ i k (if x = 0 then g else g.settleFrag i (succ a) x p)

/-- The lanes of a fragment end: the slot is free, the lanes leave every record, records that are complete go on, and
the stack fills the slot. -/
def State.exitLanes (s : State) (f : Frag) : State :=
  let f := s.stacked f
  let g := (f.g.emptyQueue f.slot).issuedIn f.slot none
  let g := { g with dstack := withoutLanes f.sl.mask g.dstack }
  let g := (Group.completeJoins (s.joinSucc f.g) f.slot 64 g).refill f.slot
  let s := (s.stackRead f.g).putDiverged g
  if g.ended then s.endGroup g.gid else s

end Sys2Proof.Machine
end

