-- ==== Sys2Proof/Machine/Control.lean ====
section
/-! DEFINITION. Control transfer (R56, R80, R85 to R87, R156 to R166). -/

namespace Sys2Proof.Machine

/-- The lanes of a fragment in which a branch predicate holds (R85, R157). -/
def Frag.taken (f : Frag) (k : BitVec 3) (n : Bool) : LaneMask :=
  f.sl.mask &&& (if n then ~~~(f.g.kReg k.toNat) else f.g.kReg k.toNat)

/-- The target of a branch: the branch word's address plus four times its signed displacement (R35). -/
def branchTarget (pc : Addr) (i : BitVec 18) : Addr := pc + (i.signExtend 64) * 4

/-- Whether an address is a multiple of 4 (R56). -/
def aligned4 (a : Addr) : Bool := a.toNat % 4 = 0

/-- The fragment's group with its slot moved to `sl`, the slot's queue emptied, the swap of R87 made. -/
def State.transfer (s : State) (f : Frag) (m : Marks) (ext : Nat) (g : Group) (sl : Slot) : State :=
  s.putDiverged (((g.emptyQueue f.slot).issuedIn f.slot (some (s.stopAt f m ext sl))).swap f.slot)

/-- The fragment as a whole continues at an address. -/
def State.jump (s : State) (f : Frag) (m : Marks) (ext : Nat) (pc : Addr) : State := s.transfer f m ext f.g (f.sl.goTo pc)

/-- The whole fragment jumps, or traps MISALIGNED with the target as its address (R56). -/
def jumpOut (s : State) (f : Frag) (m : Marks) (ext : Nat) (pc : Addr) : Out :=
  if aligned4 pc then .next (s.jump (s.stacked f) m ext pc)
  else .next (s.takeTrap f (maskAt f.sl m ext) ⟨0x07, 0, pc.toNat, f.sl.mask⟩)

/-- The number of the other slot. -/
def otherSlot (i : Nat) : Nat := if i = 0 then 1 else 0

/-- Stack entries that placing the other fragment needs. -/
def Frag.placeNeed (f : Frag) : Nat := if (f.g.slot? (otherSlot f.slot)).isSome then 1 else 0

/-- A divergent branch (R157): lanes T go to the target, the others to the successor, in the other slot or on the
stack; both keep `join`. `g` is the group with whatever record the branch pushes. -/
def State.diverge (s : State) (f : Frag) (m : Marks) (ext : Nat) (g : Group) (t : LaneMask) (target : Addr) (join : Option Nat) : State :=
  let g := g.place (otherSlot f.slot) (f.sl.succ m ext) (f.sl.mask &&& ~~~t) join
  s.transfer f m ext g { f.sl.goTo target with mask := t, join := join }

/-- BRA and CALL (R157, R160). `g` is the group with a CALL's link written. -/
def branchOut (s : State) (f : Frag) (m : Marks) (k : BitVec 3) (n : Bool) (target : Addr) (g : Group) : Out :=
  let t := f.taken k n
  if t = 0 then .next (s.jump f m 0 (f.sl.succ m 0))
  else if !aligned4 target then .next (s.takeTrap f (maskAt f.sl m 0) ⟨0x07, 0, target.toNat, f.sl.mask⟩)
  else if t = f.sl.mask then .next (s.transfer f m 0 g (f.sl.goTo target))
  else if 64 < f.g.dsp + f.placeNeed then trapOut s f m ⟨0x0C, 0, 0, f.sl.mask⟩
  else .next (s.diverge f m 0 g t target f.sl.join)

/-- BRA (R157). -/
def execBra (m : Marks) (n : Bool) (k : BitVec 3) (i : BitVec 18) (s : State) : Out :=
  issue s (.bra m n k i) m (fun _ => {}) fun f => branchOut s (s.stacked f) m k n (branchTarget f.sl.pc i) (s.stacked f).g

/-- BRK (R85, R158): a divergent BRK makes a join record that expects the fragment's lanes. -/
def execBrk (m : Marks) (n : Bool) (k : BitVec 3) (i : BitVec 18) (jw : Word) (s : State) : Out :=
  issue s (.brk m n k i jw) m (fun _ => {}) (fun f =>
    let f := s.stacked f
    let t := f.taken k n
    let target := branchTarget f.sl.pc i
    let jaddr := branchTarget f.sl.pc (jw.setWidth 18)
    if !aligned4 target || !aligned4 jaddr then
      .next (s.takeTrap f (maskAt f.sl m 1) ⟨0x07, 0, (if aligned4 target then jaddr else target).toNat, f.sl.mask⟩)
    else if t = f.sl.mask then .next (s.jump f m 1 target)
    else if t = 0 then .next (s.jump f m 1 (f.sl.succ m 1))
    else if 64 < f.g.dsp + 1 + f.placeNeed then .next (s.takeTrap f (maskAt f.sl m 1) ⟨0x0C, 0, 0, f.sl.mask⟩)
    else
      let id := freeJoin f.g.dstack
      let g := { f.g with dstack := f.g.dstack ++ [DEntry.record id jaddr f.sl.mask 0 f.sl.join] }
      .next (s.diverge f m 1 g t target (some id))) 1

/-- JOIN (R86, R159): the fragment's lanes arrive at its record; the last arrival goes on behind the JOIN with all of
the record's lanes. A JOIN that matches no record only empties the queue. -/
def execJoin (m : Marks) (s : State) : Out :=
  issue s (.join m) m (fun _ => {}) fun f =>
    let f := s.stacked f
    match f.sl.join.bind (findJoin f.g.dstack) with
    | some (DEntry.record id addr ex ar parent) =>
      if addr ≠ f.sl.pc then .next ((s.stackRead f.g).jump f m 0 (f.sl.succ m 0))
      else if ar ||| f.sl.mask = ex then
        let g := { f.g with dstack := dropJoin f.g.dstack id }
        .next (s.transfer f m 0 g { f.sl.goTo (f.sl.succ m 0) with mask := ex, join := parent, issued := 0 })
      else
        let g := { f.g with dstack := f.g.dstack.map fun (e : DEntry) => match e with
          | .record i a x r p => if i = id then DEntry.record i a x (r ||| f.sl.mask) p else e
          | .frag _ _ _ => e }
        .next (s.putDiverged (((g.emptyQueue f.slot).issuedIn f.slot none).refill f.slot))
    | _ => .next (s.jump f m 0 (f.sl.succ m 0))

/-- CALL (R160): the lanes in T go to the target, and G6 and G7 take the successor's address. The rule names no destination check
for the two: with T not 0 and a result of G6 or G7 outstanding the CALL traps NOT_READY and writes neither, which is the model's
choice (log 96). -/
def execCall (m : Marks) (n : Bool) (k : BitVec 3) (i : BitVec 18) (s : State) : Out :=
  issue s (.call m n k i) m (fun _ => {}) fun f =>
    let f := s.stacked f
    let ret := f.sl.succ m 0
    if f.taken k n ≠ 0 && (f.g.regs.pend.contains 62 || f.g.regs.pend.contains 63) then trapOut s f m ⟨0x04, 0, 0, f.sl.mask⟩
    else branchOut s f m k n (branchTarget f.sl.pc i) ((f.g.setG 6 (ret.setWidth 32)).setG 7 ((ret >>> 32).setWidth 32))

/-- RET (R161): the fragment continues at G7:G6. -/
def execRet (m : Marks) (s : State) : Out :=
  issue s (.ret m) m (fun _ => { srcs := [⟨62, 2⟩] }) fun f =>
    jumpOut s f m 0 ((f.g.gReg 7).setWidth 64 <<< 32 ||| (f.g.gReg 6).setWidth 64)

/-- JMPI (R162): the fragment continues at A of the lowest lane. -/
def execJmpi (m : Marks) (a : Code) (s : State) : Out :=
  issue s (.jmpi m a) m (fun _ => { srcs := [opnd a 2] }) fun f => jumpOut s f m 0 (BitVec.ofNat 64 (f.src a 2 f.low))

/-- YIELD (R163). -/
def execYield (m : Marks) (s : State) : Out :=
  issue s (.yield m) m (fun _ => {}) fun f => .next ((s.putGroup { f.g with yielded := true }).goOn f m)

/-- EXIT (R164): the fragment's lanes end; the group ends with its last lane. -/
def execExit (m : Marks) (s : State) : Out :=
  issue s (.exit m) m (fun _ => {}) fun f => .next (s.exitLanes f)

/-- GROW (R77, R78, R165): the first GROW parks until the growth is granted; a later one, or one in a harvest group,
has no effect. -/
def execGrow (m : Marks) (x : BitVec 4) (s : State) : Out :=
  issue s (.grow m x) m (fun f => { legal := (s.launchOf f.g).any fun l => l.kd.allot = x.toNat }) fun f =>
    if f.g.grown then .next (s.goOn f m) else .next (s.park f (.grow (unitLen m 0)))

/-- TRAP (R166). -/
def execTrap (m : Marks) (i : BitVec 10) (s : State) : Out :=
  issue s (.trap m i) m (fun _ => {}) fun f => trapOut s f m ⟨0x12, i.toNat, 0, f.sl.mask⟩

end Sys2Proof.Machine
end

