-- ==== Sys2Proof/Machine/Arbiter.lean ====
section
/-! DEFINITION. Which of several contexts a shared engine serves (R30): strict class order, and within a class round robin in the
order in which their work arrived. -/

namespace Sys2Proof.Machine

/-! ## Engines by number on their die (R1, R2) -/

def copyEngine (core : Nat) : Nat := core % 192
def textureUnit (core : Nat) : Nat := 1000 + core % 192
def rayUnit (core : Nat) : Nat := 2000 + core % 192
def matrixEngine (cluster : Nat) : Nat := 3000 + cluster % 48
def rasterEngine (cluster : Nat) : Nat := 4000 + cluster % 48
def selvedge : Nat := 5000

/-- What an engine of a die has to choose from; and that, put in place. -/
def Die.arbOf (d : Die) (e : Nat) : Arb := (d.arb.find? fun a => a.engine = e).getD ⟨e, none, []⟩
def Die.setArb (d : Die) (a : Arb) : Die := { d with arb := d.arb.filter (fun b => b.engine ≠ a.engine) ++ (if a.order = [] then [] else [a]) }

/-- Work of a context has arrived at an engine. -/
def Arb.arrive (a : Arb) (ctx : Nat) : Arb := { a with order := if a.order.contains ctx then a.order else a.order ++ [ctx] }

/-- Work of a context has arrived that no operation is yet: an engine that works triangle by triangle chooses at each. -/
def State.engineArrive (s : State) (die e ctx : Nat) : State := s.modDie die fun d => d.setArb ((d.arbOf e).arrive ctx)

/-- An engine has accepted an operation of a context; where no other context's operation could begin there now, of those that are `waiting`,
it begins at once, if it is `ready`. -/
def State.engineAccept (s : State) (die e ctx : Nat) (ready : Bool) (waiting : List Nat) : State :=
  s.modDie die fun d =>
    let a := d.arbOf e
    let begins := ready && a.chosen.all (fun c => !waiting.contains c) && (a.order.all (· = ctx) || waiting.all (· = ctx))
    d.setArb { a.arrive ctx with chosen := if begins then some ctx else a.chosen }

/-- An engine has served a context, which has `more` work there or none. -/
def State.engineServe (s : State) (die e ctx : Nat) (more : Bool) : State :=
  s.modDie die fun d =>
    let a := d.arbOf e
    d.setArb { a with chosen := none, order := a.order.filter (· ≠ ctx) ++ (if more then [ctx] else []) }

/-- The class of a context. -/
def State.arbClass (s : State) (ctx : Nat) : Nat := ((s.ctx? ctx).map (·.cls)).getD 1

/-- The context that goes next among those whose work an engine could do now: the one chosen before, which later work does not displace; or
the first, in the order of turns, of those of the best class. -/
def State.engineNext (s : State) (die e : Nat) (waiting : List Nat) : Option Nat :=
  let a := (s.die die).arbOf e
  match a.chosen.filter waiting.contains with
  | some c => some c
  | none => (a.order ++ waiting).find? fun c => waiting.contains c && waiting.all fun d => s.arbClass c ≤ s.arbClass d

/-- Whether it is a context's turn (log 94). -/
def State.engineTurn (s : State) (die e ctx : Nat) (waiting : List Nat) : Bool := s.engineNext die e waiting = some ctx

/-- An engine that has served a context chooses the next at once. -/
def State.engineChoose (s : State) (die e : Nat) (waiting : List Nat) : State :=
  s.modDie die fun d => d.setArb { d.arbOf e with chosen := s.engineNext die e waiting }

end Sys2Proof.Machine
end

