-- ==== Sys2Proof/Machine/FarAtomics.lean ====
section
/-! DEFINITION. Far atomics and combining (R250 to R264): the requests that leave an edge unit, the switch points on
their way, their performance at the home, the split of replies, the replay of a fault. -/

namespace Sys2Proof.Machine

/-! ## Operators (R253 to R257) -/

/-- The operator of a combinable operation on values of `w` bits: the old value and the operand give the new value. -/
def farOp (op : Nat) (unsigned : Bool) (w o v : Nat) : Nat :=
  let less (x y : Nat) : Bool := if unsigned then x < y else signedOf w x < signedOf w y
  if op = 0xC0 then (o + v) % 2 ^ w
  else if op = 0xC1 then (if less v o then v else o)
  else if op = 0xC2 then (if less o v then v else o)
  else if op = 0xC3 then o &&& v
  else if op = 0xC4 then o ||| v
  else if op = 0xC5 then o ^^^ v
  else v

/-- The lowest clear bit of a 64-bit word (R255). -/
def lowestClear (o : Nat) : Option Nat := (List.range 64).find? fun i => o / 2 ^ i % 2 = 0

/-- How many bits of a 32-bit word are set. -/
def bitCount (x : Nat) : Nat := ((List.range 32).filter fun i => x / 2 ^ i % 2 = 1).length

/-- The new value of a location and the result, by operation, for the old value, the operand `v` and the third operand `c`. -/
def farApply (op : Nat) (unsigned : Bool) (size o v c : Nat) : Nat × Nat :=
  let w := 8 * size
  if op = 0xC7 || op = 0xCB then (if o = c then v else o, o)
  else if op = 0xC8 then
    match lowestClear o with
    | some i => (o ||| 2 ^ i, i)
    | none => (o, 0xFFFFFFFF)
  else if op = 0xC9 then ((o &&& (2 ^ w - 1 - c)) ||| (v &&& c), o)
  else if op = 0xCA then (if bitCount (o ||| v) ≤ min (c % 64) 32 then o ||| v else o, o)
  else (farOp op unsigned w o v, o)

/-! ## Switch points (R260) -/

/-- A sector crossbar's output: a slice 0 to 15, or 16 for the ring. -/
def crossbarPoint (sector out : Nat) : Nat := 17 * sector + out
/-- A ring stop's output: 0 local, 1 to the next stop, 2 to the previous stop, 3 the bridge, 4 + p Weft port p. -/
def ringPoint (die stop out : Nat) : Nat := 200 + 16 * (4 * die + stop) + out
def bridgePoint (die : Nat) : Nat := 400 + die
def weftPoint (port : Nat) : Nat := 500 + port

/-- The die of a switch point. -/
def pointDie (point : Nat) : Nat :=
  if point < 200 then point / 51 else if point < 400 then (point - 200) / 64 else if point < 500 then point - 400 else (point - 500) / 6

/-- The pool of wait entries that a point draws on, and how many it holds: the outputs of a crossbar share one buffer, every output of a
ring stop has its own. -/
def waitPool (point : Nat) : Nat × Nat :=
  if point < 200 then (point / 17, 256)
  else if point < 400 then (point, 64)
  else (point, 128)

/-- The ring stops after `a` on the way to `b`, `k` of them, in one direction. -/
def ringStops (next : Bool) (a : Nat) : Nat → List Nat
  | 0 => []
  | k + 1 => let b := if next then (a + 1) % 4 else (a + 3) % 4
    b :: ringStops next b k

/-- The hops at ring stops from stop `a`, entered at port `port`, to stop `b`, left by output `out`. -/
def ringHops (die a b port out : Nat) : List Hop :=
  let fwd := (b + 4 - a) % 4
  let next := if fwd = 2 then Config.ringNext (4 * die + a) (4 * die + b) else fwd < 2
  let k := if next then fwd else 4 - fwd
  let dir := if next then 1 else 2
  let inPort := if next then 8 else 7
  if fwd = 0 then [⟨ringPoint die a out, port⟩]
  else
    ⟨ringPoint die a dir, port⟩ ::
      (ringStops next a k).map fun x => ⟨ringPoint die x (if x = b then out else dir), inPort⟩

/-- The way from a cluster to a home slice. -/
def routeTo (cluster slice : Nat) : List Hop :=
  let sc := cluster / 16
  let sh := slice / 16
  if sc = sh then [⟨crossbarPoint sc (slice % 16), cluster % 16⟩]
  else if sc / 3 = sh / 3 then
    ⟨crossbarPoint sc 16, cluster % 16⟩ :: ringHops (sc / 3) (sc % 3) (sh % 3) 0 0 ++ [⟨crossbarPoint sh (slice % 16), 16⟩]
  else
    ⟨crossbarPoint sc 16, cluster % 16⟩ :: ringHops (sc / 3) (sc % 3) 3 0 3 ++
      ⟨bridgePoint (sc / 3), 0⟩ :: ringHops (sh / 3) 3 (sh % 3) 0 0 ++ [⟨crossbarPoint sh (slice % 16), 16⟩]

/-- The way from a cluster out of a Weft port, 0 to 11. -/
def routeOut (cluster port : Nat) : List Hop :=
  let sc := cluster / 16
  let d := port / 6
  if sc / 3 = d then ⟨crossbarPoint sc 16, cluster % 16⟩ :: ringHops d (sc % 3) 3 0 (4 + port % 6) ++ [⟨weftPoint port, 0⟩]
  else ⟨crossbarPoint sc 16, cluster % 16⟩ :: ringHops (sc / 3) (sc % 3) 3 0 3 ++
    [⟨bridgePoint (sc / 3), 0⟩, ⟨ringPoint d 3 (4 + port % 6), 0⟩, ⟨weftPoint port, 0⟩]

/-- The way in from a Weft port to a home slice. -/
def routeIn (port slice : Nat) : List Hop :=
  let d := port / 6
  let sh := slice / 16
  if sh / 3 = d then ringHops d 3 (sh % 3) (1 + port % 6) 0 ++ [⟨crossbarPoint sh (slice % 16), 16⟩]
  else ⟨ringPoint d 3 3, 1 + port % 6⟩ :: ⟨bridgePoint d, 0⟩ :: ringHops (sh / 3) 3 (sh % 3) 0 0 ++ [⟨crossbarPoint sh (slice % 16), 16⟩]

/-- The Weft port that requests to other modules leave by: the lowest trained one (log 20). -/
def Net.outPort (n : Net) : Nat := ((List.range 12).find? fun p => (n.links[p]?).any fun l => l.trained).getD 0

/-- The way of a request for a physical address from a cluster. -/
def State.routeOf (s : State) (cluster pa : Nat) : List Hop :=
  if remoteBase ≤ pa then routeOut cluster s.net.outPort else routeTo cluster (s.homeOf pa)

/-! ## Sending (R250, R251) -/

/-- An edge unit has the translation of a piece. -/
def State.installBit (s : State) (ag : Agent) (b : Bit) : State :=
  match b.spot with
  | .mem va t true => s.install ag t va
  | _ => s

/-- Log2 of the size of the page that a piece lies in, and whether it is an SO page. -/
def Bit.page (b : Bit) : Nat × Bool :=
  match b.spot with
  | .mem _ t _ => (t.bits, t.kind = .so)
  | .pad _ _ => (12, false)

/-- The virtual and physical address of a piece in memory. -/
def Bit.addrs (b : Bit) : Nat × Nat :=
  match b.spot with
  | .mem va t _ => (va, t.pa va)
  | .pad _ off => (off, off)

/-- Put a request into the network at its edge unit. -/
def State.enterNet (s : State) (r : Req) : State := s.setNet { s.net with requests := s.net.requests ++ [r], origs := s.net.origs ++ [r] }

/-- Send a request of an agent from its edge unit for a group's instruction at an address, by a lane; group 0 is none. What the agent's
context has dirty of the line in the unit's cluster has gone home before it (R220; log 112). -/
def State.sendFar (s : State) (ag : Agent) (gid slot lane : Nat) (pc : Addr) (op : Nat) (unsigned : Bool) (size : Nat) (b : Bit) (v c : Nat)
    (release : Option Nat) (m : Member) : State :=
  let (rid, s) := s.fresh
  let s := s.installBit ag b
  let (va, pa) := b.addrs
  let s := (s.cleanLines fun l => coreCluster l.core = ag.unit && l.asid = ag.asid && l.pline = pa / 64).touchHome ag.unit pa
  s.enterNet
    { rid := rid, gid := gid, slot := slot, pc := pc, core := ag.core, asid := ag.asid, cls := ag.cls, op := op, unsigned := unsigned,
      size := size, va := va, pa := pa, bits := b.page.1, so := b.page.2, lane := lane, v := v, c := c, member := m,
      noCombine := decide (0xC7 ≤ op), faulted := false, release := release, route := s.routeOf ag.unit pa,
      entry := s.clock (ag.unit / 48), origs := [rid] }

/-- A far atomic of a fragment (R250): `w` result words, no result for `.nr`. It is a write and waits for the group's loads (R232) and for
the context's of its lines (R220); it stands behind the group's far atomics, which are performed in issue order (R231, R232, R233). AUX[0] is 1 on each of its traps (R250). -/
def farOut (s : State) (f : Frag) (m : Marks) (d : Code) (a : Code) (op : Nat) (unsigned : Bool) (size w : Nat) (nr : Bool) (v c : Nat → Nat) : Out :=
  let xs := s.checkLanes f.g .far [3] size size (f.src a 2) (lanesOf f.writers)
  match lanesTrap 1 xs with
  | some t => trapLanes s f m .far xs t
  | none =>
    if s.loadsOpen f.g || s.farAcross f.g (linesOfLanes xs) || s.lateAhead f.g (memLines (xs.flatMap LaneAccess.pieces)) then .next s
    else
      let oid := s.ctl.nextId
      let (s, vals) := s.writerVals f (perLane fun _ => 0)
      let s : State := if nr then s else s.resultLater f d w vals f.active xs.length .far
      let s := xs.foldl (fun (s : State) x => match x.pieces with
        | b :: _ => s.sendFar (s.agentOf f.g) f.g.gid f.slot x.lane f.sl.pc op unsigned size b (v x.lane) (c x.lane) f.g.relScope
            (if nr then .silent else .lane oid x.lane)
        | [] => s) s
      let s : State := if nr then s else s.noteRead f.g (linesOfLanes xs)
      let s : State := match s.group? f.g.gid with
        | some g => s.putGroup { g with relScope := if xs.isEmpty then g.relScope else none }
        | none => s
      .next (s.goOn f m)

/-- The words and bytes of a size field (R253). -/
def farWords (z : BitVec 2) : Nat := if z = 0 then 1 else 2

/-- MADD to MXCH (R253). -/
def farOpOut (s : State) (i : Instr) (m : Marks) (d a b : Code) (op : Nat) (nr unsigned : Bool) (z : BitVec 2) : Out :=
  let w := farWords z
  issue s i m
    (fun _ => { srcs := [opnd a 2], srcB := some (opnd b w), dst := if nr then none else some (opnd d w), late := !nr }) fun f =>
    farOut s f m d a op unsigned (4 * w) w nr (f.srcB b w) fun _ => 0

def execMadd (m : Marks) (d a b : Code) (n : Bool) (z : BitVec 2) (s : State) : Out := farOpOut s (.madd m d a b n z) m d a b 0xC0 n false z
def execMmin (m : Marks) (d a b : Code) (n u : Bool) (z : BitVec 2) (s : State) : Out := farOpOut s (.mmin m d a b n u z) m d a b 0xC1 n u z
def execMmax (m : Marks) (d a b : Code) (n u : Bool) (z : BitVec 2) (s : State) : Out := farOpOut s (.mmax m d a b n u z) m d a b 0xC2 n u z
def execMand (m : Marks) (d a b : Code) (n : Bool) (z : BitVec 2) (s : State) : Out := farOpOut s (.mand m d a b n z) m d a b 0xC3 n false z
def execMor (m : Marks) (d a b : Code) (n : Bool) (z : BitVec 2) (s : State) : Out := farOpOut s (.mor m d a b n z) m d a b 0xC4 n false z
def execMxor (m : Marks) (d a b : Code) (n : Bool) (z : BitVec 2) (s : State) : Out := farOpOut s (.mxor m d a b n z) m d a b 0xC5 n false z
def execMxch (m : Marks) (d a b : Code) (n : Bool) (z : BitVec 2) (s : State) : Out := farOpOut s (.mxch m d a b n z) m d a b 0xC6 n false z

/-- MCAS, MCAS.64, MBIM and MPLS, whose third operand is the C source (R254, R256, R257). -/
def farThirdOut (s : State) (i : Instr) (m : Marks) (d a b : Code) (c : BitVec 4) (op w : Nat) : Out :=
  issue s i m
    (fun _ => { srcs := [opnd a 2], srcB := some (opnd b w), srcC := some (opnd (cCode d c) w), dst := some (opnd d w), late := true }) fun f =>
    farOut s f m d a op false (4 * w) w false (f.srcB b w) (f.src (cCode d c) w)

def execMcas (m : Marks) (d a b : Code) (c : BitVec 4) (s : State) : Out := farThirdOut s (.mcas m d a b c) m d a b c 0xC7 1
def execMbim (m : Marks) (d a b : Code) (c : BitVec 4) (s : State) : Out := farThirdOut s (.mbim m d a b c) m d a b c 0xC9 1
def execMpls (m : Marks) (d a b : Code) (c : BitVec 4) (s : State) : Out := farThirdOut s (.mpls m d a b c) m d a b c 0xCA 1
def execMcas64 (m : Marks) (d a b : Code) (c : BitVec 4) (s : State) : Out := farThirdOut s (.mcas64 m d a b c) m d a b c 0xCB 2

/-- MFCS (R255). -/
def execMfcs (m : Marks) (d a : Code) (s : State) : Out :=
  issue s (.mfcs m d a) m (fun _ => { srcs := [opnd a 2], dst := some (opnd d 1), late := true }) fun f =>
    farOut s f m d a 0xC8 false 8 1 false (fun _ => 0) fun _ => 0

/-! ## Performance at the home (R251, R244) -/

/-- Give a reply to its member: a lane's result, a wait entry, another module, or nobody. -/
def State.reply (s : State) (m : Member) (v : Nat) : State :=
  match m with
  | .silent => s
  | .outside => s.setEvents { s.events with lastRead := bytesOf v 8 }
  | .lane oid l =>
    match s.out? oid with
    | some r => s.putOut { r with vals := r.vals.set l v, left := r.left - 1 }
    | none => s
  | .beater pad off =>
    match s.pad? pad with
    | some p => s.modCluster (coreCluster p.core) fun c =>
        { c with
          shadows := mapWhere (fun (x : Shadow) => x.pad = pad && x.off = off)
            (fun x => { x with batch := x.asked.map fun k => (v, 0, k), asked := none }) c.shadows }
    | none => s
  | .wait wid => s.setNet { s.net with waits := s.net.waits.map fun w => if w.wid = wid then { w with reply := some v } else w }

/-- A requester's request is given up: a lane's result is one lane short; the Beater holds its shadow with the fault (R252, R271). -/
def State.replyLost (s : State) (m : Member) (va : Nat) : State :=
  match m with
  | .beater pad off =>
    match s.pad? pad with
    | some p => s.modCluster (coreCluster p.core) fun c =>
        { c with shadows := mapWhere (fun (x : Shadow) => x.pad = pad && x.off = off) (fun x => { x with fault := some va, asked := none }) c.shadows }
    | none => s
  | .lane oid l => match s.out? oid with
    | some r => s.putOut { r with mask := r.mask &&& ~~~(1#64 <<< l), left := r.left - 1 }
    | none => s
  | _ => s

/-- The context of an address space. -/
def State.ctxOfAsid (s : State) (asid : Nat) : Nat := ((s.contexts.find? fun c => c.asid = asid).map (·.ctxid)).getD 0

/-- Whether the home of an address answers with a fault (R252): an uncorrectable error, or a module out of reach. -/
def State.homeFaults (s : State) (pa : Nat) : Bool := s.msys.badLines.contains (pa / 64) || !s.backed pa


/-- The requests of lanes that a request stands for, of all that are in the network. -/
def Net.parts (n : Net) (r : Req) : List Req := n.origs.filter fun o => r.origs.contains o.rid

/-- Perform a request at its home: the cores of its members have written back their dirty bytes of the line; the
releases that it carries are recorded; the old value is the reply. A device register reads as a free value and keeps nothing (log 23). -/
def State.performFar (s : State) (r : Req) : State :=
  let parts := s.net.parts r
  let s := parts.foldl (fun (s : State) o => s.flushLine o.core (o.pa / 64)) s
  let s := s.request (coreCluster r.core) r.pa r.cls (s.ctxOfAsid r.asid) false
  let old := if devicePa r.pa then ofBytes ((List.range r.size).map fun i => Config.deviceByte s.ctl.freeCtr (r.pa + i)) else s.field r.pa r.size
  let (new, res) := farApply r.op r.unsigned r.size old r.v r.c
  let s := if devicePa r.pa then s.tick else s.writeHome r.pa (bytesOf new r.size)
  let s := parts.foldl (fun (s : State) o => match o.release with
    | some sc => s.recordRelease o.core o.asid sc (o.pa / 64)
    | none => s) s
  let s := s.setNet { s.net with requests := s.net.requests.filter (fun q => q.rid ≠ r.rid),
                                 origs := s.net.origs.filter fun o => !r.origs.contains o.rid }
  s.reply r.member res

/-- The wait entries that a member hangs on, with those below them. -/
def waitsUnder (ws : List WaitEntry) : Nat → Member → List Nat
  | 0, _ => []
  | k + 1, .wait wid => match ws.find? fun w => w.wid = wid with
    | some w => wid :: (waitsUnder ws k w.first ++ waitsUnder ws k w.second)
    | none => []
  | _ + 1, _ => []

/-- A home fault of a request, split into one fault reply for each lane's request, which its edge unit will replay
alone and not combinable (R252, R263). -/
def State.faultFar (s : State) (r : Req) : State :=
  let again := (s.net.parts r).map fun o => { o with noCombine := true, faulted := true, route := [] }
  let gone := waitsUnder s.net.waits (s.net.waits.length + 1) r.member
  s.setNet { s.net with requests := (s.net.requests.filter fun q => q.rid ≠ r.rid) ++ again,
                        waits := s.net.waits.filter fun w => !gone.contains w.wid }

/-- Whether two requests have a source in common: the edge unit of a cluster, or the Weft port (R220). -/
def Net.sameSource (n : Net) (x y : Req) : Bool := (n.parts x).any fun a => (n.parts y).any fun b => coreCluster a.core = coreCluster b.core

/-- Where a request stands: the switch point next on its way, or its home. -/
def Req.place (r : Req) : Option Nat := r.route.head?.map (·.point)

/-- Whether two lanes' requests are of one agent (R227): a group, or where they are of none, whoever sends from their edge unit or port. -/
def Req.sameAgent (x y : Req) : Bool := x.gid = y.gid && (x.gid ≠ 0 || coreCluster x.core = coreCluster y.core)

/-- Whether an agent has sent one of a request's members before one of another's to the same line: far atomics of an agent are performed in
the order in which it sends them, a group's in issue order and within an instruction in lane order (R231, R251, R262). -/
def Net.before (n : Net) (x y : Req) : Bool :=
  (n.parts x).any fun a => (n.parts y).any fun b => a.rid < b.rid && a.sameAgent b && a.pa / 64 = b.pa / 64

/-- Whether a request has gone ahead of another on the way that is left to both. -/
def Req.aheadOf (x y : Req) : Bool :=
  !x.faulted && x.route.length < y.route.length &&
    x.route.map (·.point) = (y.route.drop (y.route.length - x.route.length)).map (·.point)

/-- Whether no request that is to be performed before another one is elsewhere than ahead on its way: one may have taken another way, or be
about to be replayed. -/
def Net.clear (n : Net) (r : Req) : Bool := n.requests.all fun q => q.rid = r.rid || !n.before q r || q.aheadOf r

/-- Whether a request is the first at its place: no earlier request from a source of it, for its line and class, is there (R220), and none that
goes before it is behind (R251). -/
def Net.isFirst (n : Net) (r : Req) : Bool :=
  n.clear r &&
  match n.requests.find? fun q => q.rid = r.rid ||
      (q.pa / 64 = r.pa / 64 && q.cls = r.cls && q.faulted = r.faulted && q.place = r.place && n.sameSource q r) with
  | some q => q.rid = r.rid
  | none => false

/-! ### Arbitration by class (R221)

The other requests (misses, SO accesses, write-backs, the engines' transfers) are performed in the turn that makes them and never wait at
a point; arbitration between them tells only when they go, by the agenda (log 106). -/

/-- The output or the queue at which a request waits: a switch point, or its home slice, whose key follows those of the points. -/
def State.outputOf (s : State) (r : Req) : Nat := r.place.getD (600 + s.homeOf r.pa)

/-- Whether a request is ready at its place: first there, and held no longer for others to join it (R259). -/
def State.reqReady (s : State) (r : Req) : Bool :=
  !r.faulted && s.net.isFirst r && (r.noCombine || r.route = [] || r.entry + 4 < s.clock (pointDie (s.outputOf r)))

/-- Whether a request of a class is ready at an output. -/
def State.classReady (s : State) (out cls : Nat) : Bool := s.net.requests.any fun q => q.cls = cls && s.outputOf q = out && s.reqReady q

/-- How many SV requests have gone from an output since one of BK. -/
def Net.turnOf (n : Net) (out : Nat) : Nat := ((n.turns.find? fun t => t.1 = out).map (·.2)).getD 0

/-- Whether the classes let a request go: RT first, three of SV to one of BK, HV where no other is ready. -/
def State.classTurn (s : State) (r : Req) : Bool :=
  let out := s.outputOf r
  if r.cls = 0 then true
  else if s.classReady out 0 then false
  else if r.cls = 1 then !(3 ≤ s.net.turnOf out && s.classReady out 2)
  else if r.cls = 2 then !(s.net.turnOf out < 3 && s.classReady out 1)
  else !(s.classReady out 1 || s.classReady out 2)

/-- A request has gone from an output: where the SV and BK requests there stand. -/
def State.countTurn (s : State) (r : Req) : State :=
  let out := s.outputOf r
  let n := if r.cls = 1 && s.classReady out 2 then s.net.turnOf out + 1 else if r.cls = 1 || r.cls = 2 then 0 else s.net.turnOf out
  s.setNet { s.net with turns := (s.net.turns.filter fun t => t.1 ≠ out) ++ (if n = 0 then [] else [(out, n)]) }

/-- FAR_ATOMIC_PERFORM: a request that has reached its home is performed, or answered with a home fault. -/
def execFarAtomicPerform (rid : Nat) (s : State) : Out :=
  match s.net.requests.find? fun r => r.rid = rid with
  | some r =>
    if r.route ≠ [] || r.faulted || !s.net.isFirst r || !s.classTurn r then .next s
    else if s.homeFaults r.pa then .next ((s.countTurn r).faultFar r)
    else .next ((s.countTurn r).performFar r)
  | none => .next s

/-! ## Combining (R258, R259, R261) -/

/-- Whether two requests match (R258). -/
def Req.matches (x y : Req) : Bool :=
  !x.noCombine && !y.noCombine && x.asid = y.asid && x.va = y.va && x.pa = y.pa && x.op = y.op && x.unsigned = y.unsigned && x.size = y.size && x.cls = y.cls

/-- Whether the request that enters may take the place of the one held: it came later, and no other request that is to be performed before it
is left behind (R251, R262). -/
def Net.mayJoin (n : Net) (x y : Req) : Bool :=
  ((n.requests.takeWhile fun q => q.rid ≠ y.rid).any fun q => q.rid = x.rid) &&
    n.requests.all fun q => q.rid = x.rid || q.rid = y.rid || !n.before q y || q.aheadOf x

/-- The two members of a pair in order: the lower input port first, then the earlier (R260). -/
def pairOrder (held entering : Req) (ph pe : Nat) : Req × Req := if pe < ph then (entering, held) else (held, entering)

/-- REQUEST_COMBINE: the request that enters joins the one held, which has been held for at most 4 cycles; not where the order by port would
turn an agent's program order (R262). -/
def execRequestCombine (held entering : Nat) (s : State) : Out :=
  match s.net.requests.find? fun r => r.rid = held, s.net.requests.find? fun r => r.rid = entering with
  | some x, some y =>
    match x.route, y.route with
    | hx :: rest, hy :: _ =>
      let pool := waitPool hx.point
      let silent := x.member = .silent && y.member = .silent
      let room := silent || (s.net.waits.filter fun w => (waitPool w.point).1 = pool.1).length < pool.2
      let pair := pairOrder x y hx.port hy.port
      if hx.point ≠ hy.point || x.rid = y.rid || !x.matches y || !room || x.entry + 4 < s.clock (pointDie hx.point) || !s.net.mayJoin x y || s.net.before pair.2 pair.1 then .next s
      else
        let (p, q) := pair
        let port := if hy.port < hx.port then hy.port else hx.port
        let (wid, s) := s.fresh
        let entry : WaitEntry := ⟨wid, p.member, q.member, p.v, p.op, p.unsigned, p.size, hx.point, none⟩
        let z : Req := { x with v := farOp x.op x.unsigned (8 * x.size) p.v q.v, member := if silent then .silent else .wait wid,
                                route := ⟨hx.point, port⟩ :: rest, entry := p.entry, origs := x.origs ++ y.origs }
        .next (s.setNet { s.net with requests := (s.net.requests.filter fun r => r.rid ≠ y.rid).map (fun r => if r.rid = x.rid then z else r),
                                     waits := if silent then s.net.waits else s.net.waits ++ [entry] })
    | _, _ => .next s
  | _, _ => .next s

/-- COMBINING_STAGE_EXIT: a request goes on to its next point, behind those that are there; a Weft port whose partner
does not combine marks it (R264). -/
def execCombiningStageExit (rid : Nat) (s : State) : Out :=
  match s.net.requests.find? fun r => r.rid = rid with
  | some r =>
    match r.route with
    | h :: rest =>
      if !s.net.isFirst r || !s.classTurn r then .next s
      else
        let s := s.countTurn r
        let bare := 500 ≤ h.point && !(s.net.links[h.point - 500]?).any fun l => l.comb
        let z : Req := { r with route := rest, entry := s.clock (pointDie (rest.head?.getD h).point), noCombine := r.noCombine || bare }
        .next (s.setNet { s.net with requests := (s.net.requests.filter fun q => q.rid ≠ rid) ++ [z] })
    | [] => .next s
  | none => .next s

/-- REPLY_SPLIT: the first member takes the reply, the second the reply with the first one's operand applied. -/
def execReplySplit (wid : Nat) (s : State) : Out :=
  match s.net.waits.find? fun w => w.wid = wid with
  | some w =>
    match w.reply with
    | some v =>
      let s := s.setNet { s.net with waits := s.net.waits.filter fun x => x.wid ≠ wid }
      .next ((s.reply w.first v).reply w.second (farOp w.op w.unsigned (8 * w.size) v w.a))
    | none => .next s
  | none => .next s

end Sys2Proof.Machine
end

