-- ==== Sys2Proof/Machine/GlobalQueues.lean ====
section
/-! DEFINITION. Global queues and proxy shadows (R265 to R272): QENQ and QDEQ at the descriptor's home, the wait for a
slot's stamp, QPOST, the Beater. -/

namespace Sys2Proof.Machine

/-! ## Descriptors (R265) -/

/-- A queue descriptor as read. -/
structure QDesc where
  head : Nat
  tail : Nat
  ring : Nat
  stamps : Nat
  log2n : Nat
  rest : Nat
  deriving DecidableEq, Repr

/-- The 64 bytes of a descriptor. -/
def qdescOf (v : Nat) : QDesc :=
  ⟨v % 2 ^ 64, v / 2 ^ 64 % 2 ^ 64, v / 2 ^ 128 % 2 ^ 64, v / 2 ^ 192 % 2 ^ 64, v / 2 ^ 256 % 256, v / 2 ^ 264⟩

def QDesc.ok (q : QDesc) : Bool := q.rest = 0 && 4 ≤ q.log2n && q.log2n ≤ 20

def queueFull : Nat := 2 ^ 64 - 1
def queueBad : Nat := 2 ^ 64 - 2

/-- The agent for accesses that the task unit and the queues make at home slices for a context: no L1 takes part. -/
def Ctx.homeAgent (c : Ctx) (core : Nat) : Agent := c.agent 1000 (coreCluster core)

/-- The agent for a group: behind its own core's dirty bytes (R170), translating in its edge unit. -/
def State.homeAgentOf (s : State) (g : Group) : Agent := { s.agentOf g with bypass := true }

/-- A write at a virtual address by an agent's core that a FENCE.rel at a scope has made a release (R238, R242). -/
def State.relLine (s : State) (ag : Agent) (rel : Option Nat) (a : Nat) : State :=
  match rel, s.pageOf ag a with
  | some sc, some (t, _) => s.recordRelease ag.core ag.asid sc (t.pa a / 64)
  | _, _ => s

/-- Reserve an index of a queue at its descriptor's home: the result code or index, or the address that faults. -/
def State.reserve (s : State) (ag : Agent) (desc : Nat) (enq : Bool) : Except (Nat × Nat) (State × QDesc × Nat) :=
  match s.peekVa ag desc 64 with
  | .error e => .error e
  | .ok (s, v) =>
    let q := qdescOf v
    if !q.ok then .ok (s, q, queueBad)
    else if enq then
      if 2 ^ q.log2n ≤ q.tail - q.head then .ok (s, q, queueFull)
      else (s.pokeVa ag (desc + 8) (bytesOf (q.tail + 1) 8)).map fun s => (s, q, q.tail)
    else
      if q.tail ≤ q.head then .ok (s, q, queueFull)
      else (s.pokeVa ag desc (bytesOf (q.head + 1) 8)).map fun s => (s, q, q.head)

/-- What a stamp wait tries: the state after its slot's transfer, `none` while the stamp is not there, or a fault. -/
abbrev StampTry := Except (Nat × Nat) (Option State)

/-- The address of a slot's stamp, and of the slot in the ring. -/
def StampWait.stampAddr (w : StampWait) : Nat := w.stamps + 4 * (w.index % 2 ^ w.log2n)
def StampWait.slotAddr (w : StampWait) : Nat := w.ring + 32 * (w.index % 2 ^ w.log2n)

/-- Read a slot's stamp. -/
def State.stampOf (s : State) (ag : Agent) (w : StampWait) : Except (Nat × Nat) (State × Nat) := s.peekVa ag w.stampAddr 4

/-- Write a slot's stamp as a release at MODULE scope by the cores listed (R266, R267, R271). -/
def State.putStamp (s : State) (ag : Agent) (w : StampWait) (v : Nat) (cores : List Nat) : Except (Nat × Nat) State :=
  let a := w.stampAddr
  match s.pokeVa ag a (bytesOf (v % 2 ^ 32) 4), s.pageOf ag a with
  | .ok s, some (t, _) => .ok (cores.dedup.foldl (fun (s : State) c => s.recordRelease c ag.asid 6 (t.pa a / 64)) s)
  | .ok s, none => .ok s
  | .error e, _ => .error e

/-- Publish an entry once its slot's stamp has reached the index. -/
def State.publish (s : State) (ag : Agent) (w : StampWait) (entry : List Byte) (cores : List Nat) : StampTry :=
  match s.stampOf ag w with
  | .error e => .error e
  | .ok (s, st) =>
    if st ≠ w.index % 2 ^ 32 then .ok none
    else match s.pokeVa ag w.slotAddr entry with
      | .error e => .error e
      | .ok s => (s.putStamp ag w (w.index + 1) cores).map some

/-- Take an entry once its slot's stamp says it is there, an acquire at MODULE scope by a core; `put` delivers it before the slot is
given back. -/
def State.takeSlot (s : State) (ag : Agent) (w : StampWait) (core : Nat) (put : State → List Byte → Except (Nat × Nat) State) :
    Except (Nat × Nat) (Option (State × List Byte)) :=
  match s.stampOf ag w with
  | .error e => .error e
  | .ok (s, st) =>
    if st ≠ (w.index + 1) % 2 ^ 32 then .ok none
    else
      let a := w.stampAddr
      let s : State := match s.pageOf ag a with | some (t, _) => s.acquireLine core 6 (t.pa a / 64) | none => s
      match s.peekVa ag w.slotAddr 32 with
      | .error e => .error e
      | .ok (s, v) => match put s (bytesOf v 32) with
        | .error e => .error e
        | .ok s => (s.putStamp ag w (w.index + 2 ^ w.log2n) [core]).map fun s => some (s, bytesOf v 32)

/-! ## The entry of a group (R266, R267) -/

/-- A group's read of translated pieces: their lines come into the L1. -/
def State.loadBits (s : State) (g : Group) (bs : List Bit) : State × List Byte :=
  let s := bs.foldl (fun (s : State) b => s.bringBit (s.agentOf g) true b) s
  (s, s.readBits g.core bs)

/-- The 32 bytes at a generic address as a group reads them now, or the fault where the access is no longer allowed. -/
def State.entryAt (s : State) (g : Group) (lane a : Nat) : Except (Nat × Nat) (State × List Byte) :=
  match s.checkAccess (s.agentOf g) .rd [1, 2, 3] 8 lane a 32 with
  | .ok bs => .ok (s.loadBits g bs)
  | .error c => .error (c, a)

/-- Write 32 bytes at a generic address for a group, a release at a scope where a FENCE.rel has made it one. -/
def State.putEntry (s : State) (g : Group) (rel : Option Nat) (lane a : Nat) (v : List Byte) : Except (Nat × Nat) State :=
  match s.checkAccess (s.agentOf g) .wr [1, 2, 3] 8 lane a 32 with
  | .ok bs =>
    let s := s.homeBits (s.agentOf g) bs v
    .ok (match rel with
      | some sc => (bs.flatMap Bit.lines).foldl (fun (s : State) ln => s.recordRelease g.core (s.asidOf g) sc ln) s
      | none => s)
  | .error c => .error (c, a)

/-- One lane's wait goes as far as it can: true once it is over. -/
def State.stampStep (s : State) (g : Group) (w : StampWait) : Except (Nat × Nat) (State × Bool) :=
  let ag := s.homeAgentOf g
  if w.enq then
    match s.entryAt g w.lane w.entry.toNat with
    | .error e => .error e
    | .ok (s, entry) => match s.publish ag w entry [g.core] with
      | .error e => .error e
      | .ok none => .ok (s, false)
      | .ok (some s) => .ok ((s.relLine ag w.rel w.slotAddr).relLine ag w.rel w.stampAddr, true)
  else
    match s.takeSlot ag w g.core (fun s v => s.putEntry g w.rel w.lane w.entry.toNat v) with
    | .error e => .error e
    | .ok none => .ok (s, false)
    | .ok (some (s, _)) => .ok (s.relLine ag w.rel w.stampAddr, true)

/-- The index that a wait takes at its descriptor: with the index, or over with a code as its result. -/
def StampWait.take (w : StampWait) (q : QDesc) (r : Nat) : StampWait :=
  { w with index := r, ring := q.ring, stamps := q.stamps, log2n := q.log2n, desc := none, retried := false }

/-- How far the lanes of a QENQ or QDEQ are: the state, the waits that remain, each result that is now known, the faults of lanes whose
replay has faulted too. -/
structure StampRun where
  s : State
  ws : List StampWait
  res : List (Nat × Nat)
  faults : List (Nat × Nat)

/-- A lane whose access has faulted, behind its walk: it is replayed once, and then it is given up (R252); a group that is parked by a trap is
told of that only once it runs again. -/
def StampRun.fault (r : StampRun) (g : Group) (w : StampWait) (addr : Nat) : StampRun :=
  let r := { r with s := r.s.tryVa (r.s.homeAgentOf g) .wr addr }
  if w.retried && g.phase = .none then { r with faults := r.faults ++ [(w.lane, addr)] } else { r with ws := r.ws ++ [{ w with retried := true }] }

/-- One lane goes as far as it can, in ascending order of lanes: its index, then its slot. -/
def StampRun.lane (g : Group) (r : StampRun) (w : StampWait) : StampRun :=
  match w.desc with
  | some d => match r.s.reserve (r.s.homeAgentOf g) d w.enq with
    | .error e => r.fault g w e.2
    | .ok (s, q, i) =>
      if queueBad ≤ i then { r with s := s, res := r.res ++ [(w.lane, i)] }
      else { r with s := s.relLine (s.homeAgentOf g) w.rel d, res := r.res ++ [(w.lane, i)], ws := r.ws ++ [w.take q i] }
  | none => match r.s.stampStep g w with
    | .error e => r.fault g w e.2
    | .ok (s, done) => { r with s := s, ws := if done then r.ws else r.ws ++ [w] }

/-- Every lane's wait goes as far as it can. -/
def State.stampSteps (s : State) (g : Group) (ws : List StampWait) : StampRun := ws.foldl (fun r w => r.lane g w) ⟨s, [], [], []⟩

/-- Results that have become known, in a list of every lane's. -/
def withResults (vals : List Nat) (res : List (Nat × Nat)) : List Nat := res.foldl (fun v p => v.set p.1 p.2) vals

/-- A QENQ's or QDEQ's result with its lanes gone on; lanes whose replay has faulted are not written and trap the group (R252). Nothing tells of
those of a group that has ended since (log 99). -/
def State.runStamps (s : State) (r : Outst) (g : Group) (ws : List StampWait) : State :=
  let x := s.stampSteps g ws
  let s := x.s.putOut { r with vals := withResults r.vals x.res, mask := r.mask &&& ~~~(maskOf (x.faults.map (·.1))), kind := .queue x.ws }
  match x.faults, s.group? g.gid with
  | f :: _, some g => if g.ended then s else s.trapLate g r.slot r.pc 1 f.2 (maskOf (x.faults.map (·.1)))
  | _, _ => s

/-! ## QENQ and QDEQ -/

/-- The trap of an instruction with two accesses in each lane: the first in the order of R168 that either raises. -/
def pairTrap (aux aux' : Nat) (xs ys : List LaneAccess) : Option Trap :=
  match lanesTrap aux xs, lanesTrap aux' ys with
  | some t, some u =>
    if t.code = u.code then some { t with lanes := t.lanes ||| u.lanes }
    else if trapRank u.code < trapRank t.code then some u else some t
  | some t, none => some t
  | none, some u => some u
  | none, none => none

/-- AUX of a trap that is no ST, STREL, local atomic or ACAS: bit 0 names a write on PAGE_FAULT and ACCESS alone (R99, R168). -/
def Trap.auxOf (t : Trap) : Trap := if t.code = 0x08 || t.code = 0x09 then t else { t with aux := 0 }

/-- An instruction with two accesses in each lane traps for its lanes. -/
def trapPairs (s : State) (f : Frag) (m : Marks) (acc acc' : Acc) (xs ys : List LaneAccess) (t : Trap) : Out :=
  trapOut ((s.tryLanes f.g acc t.code xs).tryLanes f.g acc' t.code ys) f m t.auxOf

/-- QENQ and QDEQ of a fragment: behind the group's earlier accesses, indexes are taken at the descriptors' homes, lower lanes first, and
each lane goes on to its slot as far as its stamp lets it; the result waits for all of them. The writes of one that takes an index, or is
still to take one, carry the release of a FENCE.rel before it (R238). -/
def queueOut (s : State) (f : Frag) (m : Marks) (d a b : Code) (enq : Bool) : Out :=
  let ls := lanesOf f.writers
  let xs := s.checkLanes f.g .wr [3] 64 64 (f.src a 2) ls
  let ys := s.checkLanes f.g (if enq then .rd else .wr) [1, 2, 3] 8 32 (f.srcB b 2) ls
  match pairTrap 1 (if enq then 0 else 1) xs ys with
  | some t => trapPairs s f m .wr (if enq then .rd else .wr) xs ys t
  | none =>
    if s.relBusy f.g then .next s
    else
      let oid := s.ctl.nextId
      let ws : List StampWait := ls.map fun l => ⟨l, enq, 0, 0, 0, 0, BitVec.ofNat 64 (f.srcB b 2 l), some (f.src a 2 l), false, f.g.relScope⟩
      let (s, vals) := s.writerVals f (perLane fun _ => 0)
      let s : State := if enq then s else s.noteRead f.g (linesOfLanes xs)
      let s := (s.resultLater f d 2 vals f.active 0 (.queue ws)).goOn f m
      match s.out? oid, s.group? f.g.gid with
      | some r, some g =>
        let x := s.stampSteps g ws
        let g := if x.ws ≠ [] || x.res.any (fun p => p.2 < queueBad) then { g with relScope := none } else g
        .next ((s.putGroup g).runStamps r g ws)
      | _, _ => .next s

/-- QENQ (R266). -/
def execQenq (m : Marks) (d a b : Code) (s : State) : Out :=
  issue s (.qenq m d a b) m (fun _ => { srcs := [opnd a 2], srcB := some (opnd b 2), dst := some (opnd d 2), late := true }) fun f =>
    queueOut s f m d a b true

/-- QDEQ (R267). -/
def execQdeq (m : Marks) (d a b : Code) (s : State) : Out :=
  issue s (.qdeq m d a b) m (fun _ => { srcs := [opnd a 2], srcB := some (opnd b 2), dst := some (opnd d 2), late := true }) fun f =>
    queueOut s f m d a b false

/-! ## Shadows (R269, R270) -/

/-- A shadow's header as read. -/
structure ShadowHead where
  qdesc : Nat
  posts : Nat
  got : Nat
  log2m : Nat
  rest : Nat
  deriving DecidableEq, Repr

def State.shadowHead (s : State) (pid off : Nat) : ShadowHead :=
  let v := ofBytes (s.padBytes pid off 64)
  ⟨v % 2 ^ 64, v / 2 ^ 64 % 2 ^ 32, v / 2 ^ 96 % 2 ^ 32, v / 2 ^ 128 % 256, v / 2 ^ 136⟩

def ShadowHead.ok (h : ShadowHead) : Bool := h.rest = 0 && 3 ≤ h.log2m && h.log2m ≤ 6

/-- The cluster whose Beater serves a pad. -/
def Pad.cluster (p : Pad) : Nat := coreCluster p.core

/-- Notify the Beater of a post to a shadow. -/
def State.notifyBeater (s : State) (p : Pad) (off : Nat) (g : Group) (flush : Bool) : State :=
  let cycle := s.clock (coreDie p.core)
  let owner := ((s.teams.find? fun t => t.pad = p.pid && t.place ≠ .gone).map (·.tid)).getD g.tid
  let ctx := s.ctxIdOf g
  s.modCluster p.cluster fun c =>
    let here (x : Shadow) : Bool := x.pad = p.pid && x.off = off
    if c.shadows.any here then
      { c with shadows := mapWhere here (fun x => { x with posted := x.posted ++ [(cycle, g.core)], flush := x.flush || flush }) c.shadows }
    else { c with shadows := c.shadows ++ [⟨p.pid, off, owner, ctx, [(cycle, g.core)], flush, false, none, false, none, none⟩] }

/-- A lane's post: the result code or the number of the post. The header lies in its allocation (R200); entries that would run past the end of
that are kept behind it (log 118). -/
def State.postShadow (s : State) (g : Group) (flush : Bool) (pid off : Nat) (entry : List Byte) : State × Nat :=
  let h := s.shadowHead pid off
  if !h.ok then (s, 0xFFFFFFFE)
  else if (h.posts + 2 ^ 32 - h.got) % 2 ^ 32 = 2 ^ h.log2m then (s, 0xFFFFFFFF)
  else
    let s := s.writePad pid (off + 0x40 + 32 * (h.posts % 2 ^ h.log2m)) entry
    let s := s.writePad pid (off + 8) (bytesOf ((h.posts + 1) % 2 ^ 32) 4)
    match s.pad? pid with
    | some p => (s.notifyBeater p off g flush, h.posts)
    | none => (s, h.posts)

/-- Post the lanes' entries in ascending order. -/
def State.postLanes (s : State) (g : Group) (flush : Bool) : List (LaneAccess × LaneAccess) → State × List (Nat × Nat)
  | [] => (s, [])
  | (x, y) :: r =>
    let (s, entry) := s.loadBits g y.pieces
    let (s, v) := match x.pieces.head?.map (·.spot) with
      | some (.pad pid off) => s.postShadow g flush pid off entry
      | _ => (s, 0xFFFFFFFE)
    let (s, vs) := s.postLanes g flush r
    (s, (x.lane, v) :: vs)

/-- The lines of scratchpad that a lane's post has written: the header's and the entry's. -/
def State.postLines (s : State) (x : LaneAccess) (v : Nat) : List Nat :=
  match x.pieces.head?.map (fun b => b.spot) with
  | some (Spot.pad pid off) =>
    if 0xFFFFFFFE ≤ v then [] else [padLine pid off, padLine pid (off + 0x40 + 32 * (v % 2 ^ (s.shadowHead pid off).log2m))].dedup
  | _ => []

/-- QPOST (R270). -/
def execQpost (m : Marks) (d a b : Code) (flush : Bool) (s : State) : Out :=
  issue s (.qpost m d a b flush) m (fun _ => { srcs := [opnd a 2], srcB := some (opnd b 2), dst := some (opnd d 1), late := true }) fun f =>
    let ls := lanesOf f.writers
    let xs := s.checkLanes f.g .wr [1, 2] 64 64 (f.src a 2) ls
    let ys := s.checkLanes f.g .rd [1, 2, 3] 8 32 (f.srcB b 2) ls
    match pairTrap 1 0 xs ys with
    | some t => trapPairs s f m .wr .rd xs ys t
    | none =>
      if s.relBusy f.g then .next s
      else
        let (s, vs) := s.postLanes f.g flush (xs.zip ys)
        let s := s.noteWrite f.g ((xs.zip vs).flatMap fun p => s.postLines p.1 p.2.2)
        let (s, vals) := s.writerVals f (laneValues vs)
        .next ((s.resultLater f d 1 vals f.active 0 .alu).goOn f m)

/-! ## The Beater (R271) -/

/-- Whether a shadow is to be forwarded. -/
def State.shadowDue (s : State) (x : Shadow) : Bool :=
  x.posted ≠ [] && (8 ≤ x.posted.length || x.flush || x.due || (s.team? x.tid).all fun t => t.preempt.isSome || t.place ≠ .running)

/-- The cycle in which the oldest waiting entry was posted. -/
def Shadow.oldest (x : Shadow) : Nat := (x.posted.head?.map (·.1)).getD 0

/-- The agent that forwards a shadow. -/
def State.beaterAgent (s : State) (cluster ctx : Nat) : Agent :=
  match s.ctx? ctx with
  | some c => c.homeAgent (4 * cluster)
  | none => ⟨1000, cluster, 0, 0, false, 1, 0, 0, 0, 0, false, true⟩

/-- Write entries of a reserved batch as far as their stamps allow: how many are written, and the fault, if any. -/
def State.forward (s : State) (ag : Agent) (x : Shadow) (q : QDesc) (got log2m r : Nat) : Nat → Nat → State × Nat × Option Nat
  | 0, j => (s, j, none)
  | k + 1, j =>
    let entry := s.padBytes x.pad (x.off + 0x40 + 32 * ((got + j) % 2 ^ log2m)) 32
    let w : StampWait := ⟨0, true, r + j, q.ring, q.stamps, q.log2n, 0, none, false, none⟩
    match s.publish ag w entry ((x.posted.drop j).take 1 |>.map (·.2)) with
    | .error e => (s.tryVa ag .wr e.2, j, some e.2)
    | .ok none => (s, j, none)
    | .ok (some s) => s.forward ag x q got log2m r k (j + 1)

/-- Update the record of a shadow; one with nothing left to forward is dropped. -/
def State.putShadow (s : State) (cl : Nat) (x : Shadow) : State :=
  s.modCluster cl fun c =>
    { c with shadows := (mapWhere (fun (y : Shadow) => y.pad = x.pad && y.off = x.off) (fun _ => x) c.shadows).filter fun y =>
        y.posted ≠ [] || y.batch.isSome || y.asked.isSome }

/-- The Beater sends its MADD.64 on a true queue's TAIL, for a batch of the oldest entries: a request in the network as any other. -/
def State.askBatch (s : State) (cl : Nat) (x : Shadow) : State :=
  let ag := { s.beaterAgent cl x.ctx with core := 4 * cl }
  let a := (s.shadowHead x.pad x.off).qdesc + 8
  let k := min 8 x.posted.length
  match s.checkRange ag .far a 8 with
  | .ok (b :: _) =>
    (s.putShadow cl { x with asked := some k }).sendFar ag 0 0 (x.pad * 2 ^ 20 + x.off) 0 0xC0 false 8 b k 0 none (.beater x.pad x.off)
  | .ok [] => s
  | .error e => (s.tryVa ag .far e.2).putShadow cl { x with fault := some e.2 }

/-- A batch that holds its indexes goes on: write what the stamps allow, then advance GET. -/
def State.runBatch (s : State) (cl : Nat) (x : Shadow) (r j k : Nat) : State :=
  let ag := s.beaterAgent cl x.ctx
  let h := s.shadowHead x.pad x.off
  match s.peekVa ag h.qdesc 64 with
  | .error e => (s.tryVa ag .rd e.2).putShadow cl { x with fault := some e.2 }
  | .ok (s, v) =>
    let (s, j, e) := s.forward ag x (qdescOf v) h.got h.log2m r (k - j) j
    if j < k then s.putShadow cl { x with batch := some (r, j, k), fault := e }
    else
      let s := s.writePad x.pad (x.off + 0x0C) (bytesOf ((h.got + k) % 2 ^ 32) 4)
      let left := x.posted.drop k
      s.putShadow cl { x with posted := left, batch := none, due := false, flush := x.flush && left ≠ [], fault := none }

/-- The cluster and record of a shadow. -/
def State.shadow? (s : State) (pid off : Nat) : Option (Nat × Shadow) :=
  match s.pad? pid with
  | some p => ((s.cluster p.cluster).shadows.find? fun x => x.pad = pid && x.off = off).map fun x => (p.cluster, x)
  | none => none

/-- BEATER_BATCH: a batch begins in the order of the oldest waiting entry, or goes on. -/
def execBeaterBatch (pid off : Nat) (s : State) : Out :=
  match s.shadow? pid off with
  | some (cl, x) =>
    let first := (s.cluster cl).shadows.all fun y => !s.shadowDue y || y.batch.isSome || y.asked.isSome || y.fault.isSome || x.oldest ≤ y.oldest
    if x.fault.isSome || x.asked.isSome then .next s
    else match x.batch with
      | some (r, j, k) => .next (s.runBatch cl x r j k)
      | none => if s.shadowDue x && first then .next (s.askBatch cl x) else .next s
  | none => .next s

/-- BEATER_AGE_TIMEOUT: 128 cycles after its oldest waiting entry was posted, a shadow is due. -/
def execBeaterAgeTimeout (pid off : Nat) (s : State) : Out :=
  match s.shadow? pid off with
  | some (cl, x) => if x.posted ≠ [] && x.oldest + 128 ≤ s.clock (cl / 48) then .next (s.putShadow cl { x with due := true }) else .next s
  | none => .next s

end Sys2Proof.Machine
end

