-- ==== Sys2Proof/Machine/Tasks.lean ====
section
/-! DEFINITION. The task unit (R305 to R316): TKARM, TKGET, TKDONE, TKPOST, and the enqueues that they begin. -/

namespace Sys2Proof.Machine

/-- The agent of the task unit's accesses for a context. -/
def State.taskAgent (s : State) (ctx core : Nat) : Agent :=
  match s.ctx? ctx with
  | some c => c.agent core (coreCluster core)
  | none => ⟨core, coreCluster core, 0, 0, false, 1, 0, 0, 0, 0, false, true⟩

/-- Write a field at a virtual address. -/
def State.putVa (s : State) (ag : Agent) (a n v : Nat) : Except (Nat × Nat) State := s.pokeVa ag a (bytesOf (v % 2 ^ (8 * n)) n)
/-- Add to a field at a virtual address: the old value. -/
def State.addVa (s : State) (ag : Agent) (a n v : Nat) : Except (Nat × Nat) (State × Nat) :=
  match s.peekVa ag a n with
  | .error e => .error e
  | .ok (s, o) => (s.putVa ag a n (o + v)).map fun s => (s, o)

/-- A release at MODULE scope by a core at the line of a virtual address (R242). -/
def State.releaseAt (s : State) (ag : Agent) (a : Nat) : State :=
  match s.pageOf ag a with
  | some (t, _) => s.recordRelease ag.core ag.asid 6 (t.pa a / 64)
  | none => s

/-! ## Enqueueing a task (R306, R312) -/

/-- The entry of a task. -/
def State.taskEntry (s : State) (ag : Agent) (tcb : Nat) : Except (Nat × Nat) (State × List Byte) :=
  (s.peekVa ag (tcb + 0x20) 24).map fun x => (x.1, bytesOf tcb 8 ++ bytesOf x.2 24)

/-- A task whose pool has a bad descriptor is kept: STATE 5, FCODE 0x00FE, an engine error. -/
def State.keepTask (s : State) (ag : Agent) (tcb : Nat) : State :=
  let s := (s.pokeOr ag (tcb + 4) [5]).pokeOr ag (tcb + 6) (bytesOf 0xFE 2)
  s.engineError (s.homeDie ag tcb) ag.ctx tcb 5

/-- Which instruction a piece of work belongs to. -/
inductive WorkOf where | done | arm | post
  deriving DecidableEq, Repr

/-- The result where a task's pool is bad. -/
def WorkOf.bad (k : WorkOf) (count : Nat) : Nat :=
  match k with
  | .done => count
  | .arm => 0xFFFFFFFD
  | .post => queueBad

/-- The result where a task takes index `i`. -/
def WorkOf.took (k : WorkOf) (count i : Nat) : Nat :=
  match k with
  | .done => count + 1
  | .arm => 1
  | .post => i

/-- How far a piece of work is: the state, what is left, whether it is finished, the fault of the access at which it stands. What was
performed before the fault stays. -/
structure WorkRun where
  s : State
  w : TaskWork
  fin : Bool
  fault : Option (Nat × Nat)

/-- Go on with a piece of work as far as it can: the stamp of an enqueue, a READY task that waits for room, the next
successor, at the end LIVE. Its writes carry the release of a FENCE.rel before the instruction (R238). -/
def State.work (s : State) (ag : Agent) (k : WorkOf) (w : TaskWork) : Nat → WorkRun
  | 0 => ⟨s, w, false, none⟩
  | n + 1 =>
    match w.stamp with
    | some x =>
      match s.taskEntry ag x.entry.toNat with
      | .error e => ⟨s, w, false, some e⟩
      | .ok (s, entry) => match s.publish ag x entry [ag.core] with
        | .error e => ⟨s, w, false, some e⟩
        | .ok none => ⟨s, w, false, none⟩
        | .ok (some s) =>
          ((s.relLine ag w.rel x.slotAddr).relLine ag w.rel x.stampAddr).work ag k { w with stamp := none, count := k.took w.count x.index } n
    | none =>
      match w.blocked with
      | some t =>
        match s.putVa ag (t + 4) 1 2 with
        | .error e => ⟨s, w, false, some e⟩
        | .ok s => match (s.relLine ag w.rel t).peekVa ag (t + 0x18) 8 with
          | .error e => ⟨s.relLine ag w.rel t, w, false, some e⟩
          | .ok (s, pool) => match s.reserve ag pool true with
            | .error e => ⟨s, w, false, some e⟩
            | .ok (s, q, r) =>
              if r = queueBad then (s.keepTask ag t).work ag k { w with blocked := none, count := k.bad w.count } n
              else if r = queueFull then ⟨s, w, false, none⟩
              else (s.relLine ag w.rel pool).work ag k
                { w with blocked := none, stamp := some ⟨0, true, r, q.ring, q.stamps, q.log2n, BitVec.ofNat 64 t, none, false, none⟩ } n
      | none =>
        match w.succs with
        | a :: rest =>
          match s.peekVa ag a 8 with
          | .error e => ⟨s, w, false, some e⟩
          | .ok (s, x) => match s.addVa ag x 4 (2 ^ 32 - 1) with
            | .error e => ⟨s, w, false, some e⟩
            | .ok (s, o) => ((s.releaseAt ag x).relLine ag w.rel x).work ag k { w with succs := rest, blocked := if o = 1 then some x else none } n
        | [] =>
          if k = .done then match s.addVa ag (w.pool + 0x40) 8 (2 ^ 64 - 1) with
            | .error e => ⟨s, w, false, some e⟩
            | .ok (s, _) => ⟨s.relLine ag w.rel (w.pool + 0x40), w, true, none⟩
          else ⟨s, w, true, none⟩

/-- Steps enough for any piece of work. -/
def TaskWork.fuel (w : TaskWork) : Nat := 3 * w.succs.length + 4

/-- The kind under which a piece of work is outstanding. -/
def WorkOf.kind (k : WorkOf) (w : TaskWork) : OutKind :=
  match k with
  | .done => .task w
  | .arm => .arm w
  | .post => .post w

/-- The piece of work that a result waits for. -/
def OutKind.work? : OutKind → Option (WorkOf × TaskWork)
  | .task w => some (.done, w)
  | .arm w => some (.arm, w)
  | .post w => some (.post, w)
  | _ => none

/-- A task-unit access of a result has faulted (R252, R308): it is replayed once; if that faults too, its group traps after issue, once
no other trap parks it, and holds the task whose entry its TKGET has taken (R309). A residency report has no group: an engine error tells of
it, from the die of the TCB's home; firmware's own TKPOST is left as failed, with the address, for firmware (R316). -/
def State.taskFault (s : State) (r : Outst) (e : Nat × Nat) (ag : Agent) (tcb : Nat) : State :=
  let s := s.tryVa ag .wr e.2
  if !r.retried then s.putOut { r with retried := true }
  else match s.group? r.gid with
    | some g =>
      if g.ended then (s.leaveTask { g with task := r.kind.taskOf }).dropOut r.oid
      else if g.phase ≠ .none then s.putOut r
      else (s.dropOut r.oid).trapLate { g with task := g.task.or r.kind.taskOf } r.slot r.pc 1 e.2 r.mask
    | none =>
      if s.groups.any fun g => g.phase = .taskPosting r.oid then s.putOut { r with left := 2, vals := [e.2] }
      else (s.dropOut r.oid).engineError (s.homeDie ag tcb) ag.ctx e.2 5

/-- A result's piece of work goes on. -/
def State.runWork (s : State) (r : Outst) (k : WorkOf) (w : TaskWork) : State :=
  let ag := s.taskAgent w.ctx w.core
  let x := s.work ag k w w.fuel
  let r' : Outst := { r with kind := k.kind x.w, left := if x.fin then 0 else 1, vals := perLane fun _ => x.w.count }
  match x.fault with
  | some e => x.s.taskFault r' e ag w.tcb
  | none => x.s.putOut { r' with retried := false }

/-- Whether a result is a TKGET's that holds an index. -/
def OutKind.isTaken : OutKind → Bool
  | .tkget _ => true
  | _ => false

/-- Whether a wait of a group's other slot stands before an instruction of a slot parked as `own`, in the task unit's order: a TKGET that waits
on its pool, or an instruction that is replayed. A TKGET that waits for its turn issued behind what is replayed (R309). -/
def Park.beforeTask (own : Option Park) : Park → Bool
  | .tkget _ turn _ => !turn || own ≠ some .replay
  | .replay => own ≠ some .replay
  | _ => false

/-- Whether the task unit still has work of a fragment's group to finish: it performs a group's instructions in issue order (R309). -/
def State.taskBusy (s : State) (f : Frag) : Bool :=
  (s.outs.any fun r => r.gid = f.g.gid && (r.kind.work?.isSome || r.kind.isTaken) && r.left ≠ 0) ||
    (f.g.slot? (1 - f.slot)).any fun sl => sl.park.any (Park.beforeTask f.sl.park)

/-- The group's next write has carried the release of a FENCE.rel before it (R238). -/
def State.dropRel (s : State) (g : Group) : State :=
  match s.group? g.gid with
  | some h => if h.relScope.isSome then s.putGroup { h with relScope := none } else s
  | none => s

/-- Begin a piece of work for a fragment's instruction. -/
def State.beginWork (s : State) (f : Frag) (d : Code) (n : Nat) (k : WorkOf) (w : TaskWork) : State :=
  let oid := s.ctl.nextId
  let s := s.resultLater f d n (perLane fun _ => w.count) f.sl.mask 1 (k.kind w)
  match s.out? oid with
  | some r => s.runWork r k w
  | none => s

/-! ## The instructions -/

/-- A lane's check as far as MISALIGNED and APERTURE: the task unit meets the other faults at its own accesses (R308). -/
def LaneAccess.placeOnly (x : LaneAccess) : LaneAccess :=
  match x.bits with
  | .ok _ => x
  | .error c => if c = 0x07 || c = 0x0A then x else { x with bits := .ok [] }

/-- The check of a TCB or pool address in the lowest lane (R308). -/
def State.taskCheck (s : State) (f : Frag) (align : Nat) (a : Nat) : List LaneAccess :=
  (s.checkLanes f.g .wr [3] align align (fun _ => a) [f.low]).map LaneAccess.placeOnly

/-- A group without a current task (R309). -/
def Frag.unbound (f : Frag) : Frag := { f with g := { f.g with task := none } }

/-- The outcome of what a task instruction does at issue: a state, or the state reached and the address that faults there. -/
abbrev TaskTry := Except (State × Nat) State

/-- An access that the task unit makes for a fragment's instruction has faulted: the instruction is replayed once, and if that faults too
ACCESS after issue is taken, in the fragment `late` (R252, R308). -/
def faultOut (s : State) (f late : Frag) (m : Marks) (addr : Nat) : Out :=
  let s := s.tryVa (s.taskAgent (s.ctxIdOf f.g) f.g.core) .wr addr
  if f.sl.park = some .replay then .next (s.takeTrap late (maskAt f.sl m 0) ⟨0x09, 5, addr, f.sl.mask⟩) else .next (s.park f .replay)

/-- A task instruction's first checks, then its body. -/
def taskOut (s : State) (f late : Frag) (m : Marks) (align a : Nat) (body : Agent → TaskTry) : Out :=
  let xs := s.taskCheck f align a
  match lanesTrap 1 xs with
  | some t => trapOut s f m t.auxOf
  | none =>
    if s.relBusy f.g || s.taskBusy f then .next s
    else match body (s.taskAgent (s.ctxIdOf f.g) f.g.core) with
      | .ok s => .next (s.goOn f m)
      | .error (s, x) => faultOut s f late m x

/-- A piece of work for a context and a core, with nothing to do yet, whose writes carry a release. -/
def Agent.work (ag : Agent) (tcb count : Nat) (rel : Option Nat) : TaskWork := ⟨tcb, [], none, none, count, 0, ag.ctx, ag.core, rel⟩

/-- TKARM (R310). -/
def execTkarm (m : Marks) (d a b : Code) (x : BitVec 4) (s : State) : Out :=
  issue s (.tkarm m d a b x) m (fun _ => { srcs := [opnd a 2], srcB := some (opnd b 1), dst := some (opnd d 1), late := true }) fun f =>
    let tcb := f.src a 2 f.low
    let preds := f.srcB b 1 f.low
    let give (s : State) (v : Nat) : State := s.resultLater f d 1 (perLane fun _ => v) f.sl.mask 0 .alu
    taskOut s f f m 64 tcb fun ag =>
      let s := s.releaseAt ag tcb
      match s.peekVa ag (tcb + 4) 1 with
      | .error e => .error (s, e.2)
      | .ok (s, st) =>
        if st ≠ 0 && st ≠ 4 then .ok (give s 0xFFFFFFFF)
        else if 65535 < preds then .ok (give s 0xFFFFFFFE)
        else
          let dep := preds + x.toNat
          match s.pokeVa ag tcb (bytesOf dep 4 ++ [if dep = 0 then 2 else 1, BitVec.ofNat 8 x.toNat]) with
          | .error e => .error (s, e.2)
          | .ok s =>
            let s := (s.relLine ag f.g.relScope tcb).dropRel f.g
            .ok (if dep = 0 then s.beginWork f d 1 .arm { ag.work tcb 1 f.g.relScope with blocked := some tcb } else give s 0)

/-- TKPOST (R313). STATE and the enqueue are written as a piece of work, behind LIVE. -/
def execTkpost (m : Marks) (d a : Code) (n : Bool) (s : State) : Out :=
  issue s (.tkpost m d a n) m (fun _ => { srcs := [opnd a 2], dst := some (opnd d 2), late := true }) fun f =>
    let tcb := f.src a 2 f.low
    taskOut s f f m 64 tcb fun ag =>
      let s := s.releaseAt ag tcb
      match s.peekVa ag (tcb + 4) 1 with
      | .error e => .error (s, e.2)
      | .ok (s, st) => match s.peekVa ag (tcb + 0x18) 8 with
        | .error e => .error (s, e.2)
        | .ok (s, pool) =>
          if st ≠ 0 && st ≠ 4 && st ≠ 5 then .ok (s.resultLater f d 2 (perLane fun _ => 2 ^ 64 - 3) f.sl.mask 0 .alu)
          else match if n then (s.addVa ag (pool + 0x40) 8 1).map (fun x => x.1.relLine ag f.g.relScope (pool + 0x40)) else .ok s with
            | .error e => .error (s, e.2)
            | .ok s => .ok ((s.dropRel f.g).beginWork f d 2 .post { ag.work tcb 0 f.g.relScope with blocked := some tcb })

/-- TKDONE (R312): the binding is cleared as it issues. -/
def execTkdone (m : Marks) (d a : Code) (s : State) : Out :=
  issue s (.tkdone m d a) m (fun _ => { srcs := [opnd a 2], dst := some (opnd d 1), late := true }) fun f =>
    let tcb := f.src a 2 f.low
    if f.g.task ≠ some tcb then trapOut s f m ⟨0x02, 0, 0, f.sl.mask⟩
    else taskOut s f f.unbound m 64 tcb fun ag =>
      let s := s.releaseAt ag tcb
      match s.putVa ag (tcb + 4) 1 4 with
      | .error e => .error (s, e.2)
      | .ok s =>
        let s := s.relLine ag f.g.relScope tcb
        match s.peekVa ag (tcb + 8) 8 with
        | .error e => .error (s, e.2)
        | .ok (s, list) => match s.peekVa ag (tcb + 0x10) 2 with
          | .error e => .error (s, e.2)
          | .ok (s, n) => match s.peekVa ag (tcb + 0x18) 8 with
            | .error e => .error (s, e.2)
            | .ok (s, pool) =>
              let s := (match s.group? f.g.gid with | some g => s.putGroup { g with task := none } | none => s).dropRel f.g
              .ok (s.beginWork f d 1 .done { ag.work tcb 0 f.g.relScope with succs := (List.range n).map fun j => list + 8 * j, pool := pool })

/-- The watches of a TKGET that waits on a pool: the lines of TAIL and LIVE (R311). -/
def State.tkgetWatch (s : State) (ag : Agent) (gid slot pool : Nat) : State :=
  [pool, pool + 0x40].foldl (fun (s : State) a => match s.pageOf ag a with
    | some (t, _) => s.addMonitors [⟨.tkget gid slot, none, t.pa a, 8, false⟩]
    | none => s) s

/-- Whether a watch is a PC slot's TKGET. -/
def Monitor.isTkget (gid slot : Nat) (m : Monitor) : Bool :=
  match m.who with
  | .tkget g i => g = gid && i = slot
  | _ => false

/-- Whether a result is a TKGET's. -/
def OutKind.isTkget : OutKind → Bool
  | .tkget _ => true
  | .noTask => true
  | _ => false

/-- Whether a fragment's group holds a task, or has issued a TKGET that has not returned (R309); the fragment's own TKGET that waits on a
pool is not counted, since it issues again. -/
def State.holdsTask (s : State) (f : Frag) : Bool :=
  f.g.task.isSome || (s.outs.any fun r => r.gid = f.g.gid && r.kind.isTkget) ||
    (s.msys.monitors.any fun m => [0, 1].any fun i => i ≠ f.slot && m.isTkget f.g.gid i) ||
    (f.g.slot? (1 - f.slot)).any fun sl => match sl.park with | some (.tkget _ _ _) => true | _ => false

/-- TKGET (R311): an index of the pool's queue is taken at issue, and the result waits for its stamp. Behind task work of the group that is
not finished it issues and waits for its turn, parked as one that waits on its pool (R309; log 93); until it issues again it keeps its place
before the group's later task instructions. -/
def execTkget (m : Marks) (d a b : Code) (s : State) : Out :=
  issue s (.tkget m d a b) m (fun _ => { srcs := [opnd a 2], srcB := some (opnd b 2), dst := some (opnd d 2), late := true }) fun f =>
    let pool := f.src a 2 f.low
    let dst := f.srcB b 2 f.low
    let xs := s.taskCheck f 128 pool
    let ys := s.checkLanes f.g .wr [1, 2, 3] 8 32 (fun _ => dst) [f.low]
    let give (s : State) (v : Nat) : Out := .next ((s.resultLater f d 2 (perLane fun _ => v) f.sl.mask 0 .noTask).goOn f m)
    if s.holdsTask f then trapOut s f m ⟨0x02, 0, 0, f.sl.mask⟩
    else match pairTrap 1 1 xs ys with
    | some t => trapOut (s.tryLanes f.g .wr t.code ys) f m t.auxOf
    | none =>
      if s.relBusy f.g then .next s
      else if s.taskBusy f then .next (s.park f (.tkget (unitLen m 0) true false))
      else
        let ag := s.taskAgent (s.ctxIdOf f.g) f.g.core
        let s := s.dropMonitors (Monitor.isTkget f.g.gid f.slot)
        match s.reserve ag pool false with
        | .error e => faultOut s f f m e.2
        | .ok (s, q, r) =>
          if r = queueBad then give s r
          else if r ≠ queueFull then
            let w : StampWait := ⟨f.low, false, r, q.ring, q.stamps, q.log2n, BitVec.ofNat 64 dst, none, false, f.g.relScope⟩
            .next ((((s.relLine ag w.rel pool).dropRel f.g).resultLater f d 2 (perLane fun _ => 0) f.sl.mask 1 (.tkget w)).goOn f m)
          else match s.peekVa ag (pool + 0x40) 8 with
            | .error e => faultOut s f f m e.2
            | .ok (s, live) =>
              if live = 0 || 2 ^ 63 ≤ live then give s 0
              else .next ((s.tkgetWatch ag f.g.gid f.slot pool).park f (.tkget (unitLen m 0) false false))

/-- How a TKGET's access faults: the state reached, how far its result is, the fault. -/
abbrev TkgetTry := Except (State × Outst × (Nat × Nat)) State

/-- A TKGET has its entry: the task runs, bound to the group, with an acquire at its line (R309, R315). A group that has ended since holds the
task as it ends, and leaves it (R309). -/
def State.tkgetRun (s : State) (g : Group) (r : Outst) (w : StampWait) (tcb : Nat) : TkgetTry :=
  let ag := s.taskAgent (s.ctxIdOf g) g.core
  match s.putVa ag (tcb + 4) 1 3 with
  | .error e => .error (s, { r with kind := .tkget w }, e)
  | .ok s =>
    let s : State := match s.pageOf ag tcb with | some (t, _) => s.acquireLine g.core 6 (t.pa tcb / 64) | none => s
    let s := (s.relLine ag w.rel tcb).putOut { r with kind := .tkget w, left := 0, vals := perLane fun _ => tcb }
    match s.group? g.gid with
    | some g => .ok (if g.ended then s.leaveTask { g with task := some tcb } else s.putGroup { g with task := some tcb })
    | none => .ok s

/-- A TKGET takes its entry once the stamp says so, which ends its QDEQ; then the task runs (R311). -/
def State.tkgetStep (s : State) (g : Group) (r : Outst) (w : StampWait) : TkgetTry :=
  let ag := s.taskAgent (s.ctxIdOf g) g.core
  match w.desc with
  | some tcb => s.tkgetRun g r w tcb
  | none => match s.takeSlot ag w g.core (fun s v => s.putEntry g w.rel w.lane w.entry.toNat v) with
    | .error e => .error (s, r, e)
    | .ok none => .ok s
    | .ok (some (s, v)) =>
      let tcb := ofBytes (v.take 8)
      (s.relLine ag w.rel w.stampAddr).tkgetRun g { r with retried := false } { w with desc := some tcb } tcb

/-! ## Indexes that outlive their instruction (R268) -/

/-- The task of a dequeued entry, whose group runs no more, is left as by a group that ends while it holds it (R309; log 119). -/
def State.orphanTask (s : State) (ag : Agent) (v : List Byte) : State :=
  let tcb := ofBytes (v.take 8)
  let s := (s.pokeOr ag (tcb + 4) [5]).pokeOr ag (tcb + 6) (bytesOf 0xFF 2)
  s.engineError (s.homeDie ag tcb) ag.ctx tcb 5

/-- An index that a killed or restarted group held completes in hardware: its entry is published, or the slot taken is given back. True once it
is over. -/
def State.orphanStep (s : State) (ctx core : Nat) (o : Orphan) : State × Bool :=
  match s.ctx? ctx with
  | none => (s, true)
  | some c =>
    let ag := c.homeAgent core
    if o.wait.enq then match s.publish ag o.wait o.entry [core] with
      | .ok (some s) => (s, true)
      | .ok none => (s, false)
      | .error e => (s.tryVa ag .wr e.2, false)
    else match s.takeSlot ag o.wait core fun s _ => .ok s with
      | .ok (some (s, v)) => (if o.task then s.orphanTask ag v else s, true)
      | .ok none => (s, false)
      | .error e => (s.tryVa ag .wr e.2, false)

/-- The waits of a result that have taken an index become orphans, each QENQ with its entry as it reads now. -/
def State.orphansOf (s : State) (g : Group) (task : Bool) (ws : List StampWait) : State × List Orphan :=
  (ws.filter fun w => w.desc.isNone).foldl (fun (x : State × List Orphan) w =>
    if !w.enq then (x.1, x.2 ++ [⟨w, [], task⟩])
    else match x.1.entryAt g w.lane w.entry.toNat with
      | .ok (s, v) => (s, x.2 ++ [⟨w, v, false⟩])
      | .error e => (x.1.tryPieces (x.1.agentOf g) .rd (((x.1.decodeAddr (x.1.agentOf g) w.lane e.2 32).map (·.2)).getD []), x.2 ++ [⟨w, List.replicate 32 0, false⟩])) (s, [])

/-- TKGET_WAKE: a write to the pool's TAIL or LIVE line lets a parked TKGET issue again, which then drops its watches; one without both of its
watches, whose table was full or which waits for its turn, tries again as a WAITC without a watch does (R187). -/
def execTkgetWake (gid slot : Nat) (s : State) : Out :=
  let mine := s.msys.monitors.filter fun m => m.isTkget gid slot
  if 2 ≤ mine.length && !mine.any (·.fired) then .next s
  else
    match s.group? gid with
    | some g => match g.slot? slot with
      | some sl => match sl.park with
        | some (.tkget n turn _) =>
          if sl.stop.isSome then .next s else .next (s.putGroup (g.setSlot slot (some { sl with park := some (.tkget n turn true) })))
        | _ => .next s
      | none => .next s
    | none => .next s

/-- TASK_ENQUEUE_RETRY: the task unit tries a pending enqueue again. -/
def execTaskEnqueueRetry (oid : Nat) (s : State) : Out :=
  match s.out? oid with
  | some r => match r.kind.work? with
    | some (k, w) => if r.left = 1 then .next (s.runWork r k w) else .next s
    | none => .next s
  | none => .next s

end Sys2Proof.Machine
end

