-- ==== Sys2Proof/Machine/Copy.lean ====
section
/-! DEFINITION. The copy engine (R323 to R343): the commands, their descriptors, pieces and elements, deliveries,
residency reports, CBMRD. -/

namespace Sys2Proof.Machine

/-! ## Descriptors (R326, R327, R328) -/

/-- A field of a descriptor or record that has been read. -/
def fieldOf (bs : List Byte) (off n : Nat) : Nat := ofBytes ((bs.drop off).take n)

/-- Address arithmetic modulo 2^64. -/
def addrPlus (a : Nat) (d : Int) : Nat := unsignedOf 64 ((a : Int) + d)

/-- The aperture that an address alone decides (R200): 0 LOCAL, 1 SCRATCH, 2 CLUSTER, 3 GLOBAL, 4 none. -/
def apertureOf (a : Nat) : Nat :=
  if a < 2 ^ 56 then 3 else if a < scratchBase then 4 else if a < clusterBase then 1 else if a < localBase then 2
  else if a < localBase + 2 ^ 48 then 0 else 4

/-- What kind of command an opcode is: linear, tiled, or by elements. -/
def copyLinear (op : Nat) : Bool := op = 0xD8 || op = 0xDA
def copyTiled (op : Nat) : Bool := op = 0xD9 || op = 0xDB

/-- The size of a command's descriptor. -/
def copyDescSize (op : Nat) : Nat := if copyLinear op then 32 else 64

namespace CopyOp

def f (o : CopyOp) (off n : Nat) : Nat := fieldOf o.desc off n
def bar (o : CopyOp) : Nat := if copyLinear o.op then o.f 0x14 2 else if copyTiled o.op then o.f 0x20 2 else o.f 0x2A 2
def tcb (o : CopyOp) : Nat := if copyLinear o.op then o.f 0x18 8 else if copyTiled o.op then o.f 0x28 8 else o.f 0x30 8
def counts (o : CopyOp) : Bool := 2 ^ 15 ≤ o.bar
def barrier (o : CopyOp) : Nat := o.bar % 512
/-- The contiguous or destination side. -/
def dst (o : CopyOp) : Nat := if copyLinear o.op || copyTiled o.op then o.f 8 8 else o.f 0x10 8
def esize (o : CopyOp) : Nat := 2 ^ o.f 0x29 1
def count (o : CopyOp) : Nat := o.f 0x28 1
def bmap (o : CopyOp) : Nat := if copyLinear o.op || copyTiled o.op then 0 else o.f 0x20 8
/-- `.nf` (R332). -/
def noFault (o : CopyOp) : Bool := !copyLinear o.op && !copyTiled o.op && o.x / 2 % 2 = 1
/-- Rows and bytes per row: a linear range is one row. -/
def rows (o : CopyOp) : Nat := if copyLinear o.op then 1 else o.f 0x14 4
def rowBytes (o : CopyOp) : Nat := o.f 0x10 4
/-- Where a row begins on each side. -/
def srcRow (o : CopyOp) (r : Nat) : Nat := if copyLinear o.op then o.f 0 8 else addrPlus (o.f 0 8) (r * signedOf 32 (o.f 0x18 4))
def dstRow (o : CopyOp) (r : Nat) : Nat := if copyLinear o.op then o.f 8 8 else addrPlus (o.f 8 8) (r * signedOf 32 (o.f 0x1C 4))
/-- Pieces end where the destination is a multiple of 64 or at the end of the row: one more where a row begins off a word. -/
def perRow (o : CopyOp) : Nat := (o.rowBytes + 66) / 64
/-- Where piece `i` begins in its row, and its length: its ends within the row lie between aligned words of the destination (R248). -/
def rowCut (o : CopyOp) (i : Nat) : Nat × Nat :=
  let k := o.dstRow (i / o.perRow) % 4
  let off := 64 * (i % o.perRow) - k
  (off, min o.rowBytes (64 * (i % o.perRow + 1) - k) - off)

/-- The numbers of an operation's pieces or elements, ascending (R330, R332). -/
def parts (o : CopyOp) : List Nat :=
  if copyLinear o.op || copyTiled o.op then (List.range (o.rows * o.perRow)).filter fun i => (o.rowCut i).2 ≠ 0
  else (List.range o.count).filter fun e => o.f 0x18 8 / 2 ^ e % 2 = 1

/-- The parts not performed or skipped yet. -/
def todo (o : CopyOp) : List Nat := o.parts.filter fun i => !o.done.contains i

/-- The reserved fields are zero and the counts lie in their ranges (R326 to R328). -/
def fieldsOk (o : CopyOp) : Bool :=
  o.bar / 512 % 64 = 0 &&
  (if copyLinear o.op then
    1 ≤ o.f 0x10 4 && o.f 0x10 4 ≤ 16777216 && o.f 0x16 2 = 0 && (o.op ≠ 0xDA || o.f 4 4 = 0)
  else if copyTiled o.op then
    1 ≤ o.rowBytes && o.rowBytes ≤ 65536 && 1 ≤ o.rows && o.rows ≤ 65536 && o.rows * o.rowBytes ≤ 16777216 &&
    o.f 0x22 6 = 0 && o.f 0x30 16 = 0
  else
    1 ≤ o.count && o.count ≤ 64 && o.f 0x29 1 ≤ 8 && o.f 0x18 8 / 2 ^ o.count = 0 && o.f 0x2C 4 = 0 && o.f 0x38 8 = 0 &&
    (o.op ≠ 0xDD || o.bar = 0) && o.f 8 8 % 4 = 0 && o.bmap % 8 = 0)

/-- The addresses whose aperture the command itself checks, LOCAL being illegal in each. -/
def bases (o : CopyOp) : List Nat :=
  if o.op = 0xDA then [o.f 8 8]
  else if copyLinear o.op || copyTiled o.op then [o.f 0 8, o.f 8 8]
  else [o.f 0 8, o.f 8 8, o.f 0x10 8] ++ (if o.bmap = 0 then [] else [o.bmap])

/-- The ranges that step 4 of R324 checks. -/
def ranges (o : CopyOp) : List (Nat × Nat) :=
  if o.op = 0xDA then [(o.f 8 8, o.rowBytes)]
  else if copyLinear o.op || copyTiled o.op then
    (List.range o.rows).flatMap fun r => (o.srcRow r, o.rowBytes) :: if o.op = 0xD9 then [] else [(o.dstRow r, o.rowBytes)]
  else [(o.f 8 8, 4 * o.count), (o.f 0x10 8, o.count * o.esize)] ++ (if o.bmap = 0 then [] else [(o.bmap, 8)])

end CopyOp

/-! ## Destinations -/

/-- The team of rank `r` in a team's cluster launch; outside one, rank 0 is the team itself (R331). A sibling that has exited is none; a team's
own operations go on behind its end (R164). -/
def State.rankTeam (s : State) (t : Team) (r : Nat) : Option Team :=
  if (s.launch? t.lid).any fun l => l.clsize ≠ 0 then
    s.teams.find? fun u => u.lid = t.lid && u.clusterNo = t.clusterNo && u.rank = r && (u.place ≠ .gone || u.tid = t.tid)
  else if r = 0 then some t else none

/-- The ranks that CPYM names. -/
def ranksOf (x : Nat) : List Nat := (List.range 4).filter fun r => x / 2 ^ r % 2 = 1

/-- The teams that own the scratchpad at an address that an operation writes (R329). -/
def State.copyOwners (s : State) (g : Group) (o : CopyOp) (dst : Nat) : List Team :=
  match s.teamOf g with
  | none => []
  | some t =>
    if o.op = 0xD9 then (ranksOf o.x).filterMap (s.rankTeam t)
    else if apertureOf dst = 2 then (s.rankTeam t ((dst - clusterBase) / 2 ^ 19)).toList
    else [t]

/-- Where the rows or the elements that an operation delivers begin. -/
def CopyOp.dstRows (o : CopyOp) : List Nat := if copyTiled o.op then (List.range o.rows).map o.dstRow else [o.dst]

/-- Where CPYM writes `n` bytes at a SCRATCH address in the team of a rank; nothing outside its allocation. -/
def State.rankPieces (s : State) (t : Team) (a n r : Nat) : Option (List Piece) :=
  if apertureOf a ≠ 1 then none
  else match (s.rankTeam t r).bind fun u => s.pad? u.pad with
    | some p => if a - scratchBase + n ≤ p.len then some [⟨.pad p.pid (a - scratchBase), n⟩] else none
    | none => none

/-- The agent that the engine is for a group: it reads and writes at the homes, past the core's L1 (R339, R207). -/
def State.engineAgent (s : State) (g : Group) : Agent := { s.agentOf g with bypass := true }

/-- The pieces of an engine's range; nothing for LOCAL or where no aperture holds it. -/
def State.enginePieces (s : State) (g : Group) (a n : Nat) : Option (List Piece) :=
  match s.decodeAddr (s.engineAgent g) 0 a n with
  | some (0, _) => none
  | some (_, ps) => some ps
  | none => none

/-! ## The checks of R329 and R324, step 4 -/

/-- Whether every delivered byte lies in scratchpad. -/
def CopyOp.toScratch (o : CopyOp) : Bool :=
  o.op ≠ 0xDD && o.dstRows.all fun a => apertureOf a = 1 || apertureOf a = 2

/-- The legality of a descriptor. -/
def State.copyLegal (s : State) (g : Group) (o : CopyOp) : Bool :=
  let clsize := ((s.launchOf g).map (·.clsize)).getD 0
  o.fieldsOk && o.bases.all (fun a => apertureOf a ≠ 0) &&
  (!o.counts || (o.toScratch && o.dstRows.all fun a => (s.copyOwners g o a).all fun t => o.barrier < t.barriers.length)) &&
  (o.tcb = 0 || (o.tcb < 2 ^ 56 && o.tcb % 64 = 0)) &&
  (o.op ≠ 0xD9 || (apertureOf o.dst = 1 && (ranksOf o.x).all fun r => r < max 1 clsize))

/-- The first address whose range lies in no one allocation or spans apertures. -/
def State.copyAperture (s : State) (g : Group) (o : CopyOp) : Option Nat :=
  match o.ranges.find? fun r => (s.enginePieces g r.1 r.2).isNone with
  | some r => some r.1
  | none =>
    if o.op ≠ 0xD9 then none
    else match s.teamOf g with
      | none => none
      | some t => (List.range o.rows).findSome? fun r =>
          if (ranksOf o.x).all fun k => (s.rankPieces t (o.dstRow r) o.rowBytes k).isSome then none else some (o.dstRow r)

/-! ## Pieces and elements (R330, R332, R334, R337) -/

/-- Translate an engine's pieces; an address that fails is answered. -/
def State.engineBits (s : State) (ag : Agent) (acc : Acc) : List Piece → Except Nat (List Bit)
  | [] => .ok []
  | p :: ps =>
    let here := match p.place with | .va a => a | .pad _ o => scratchBase + o
    match s.checkPiece ag acc p with
    | .error _ => .error here
    | .ok b => (s.engineBits ag acc ps).map (b :: ·)

/-- The first address of a range that no aperture holds: behind GLOBAL for one that begins in it. -/
def badPlace (a : Nat) : Nat := max a (2 ^ 56)

/-- Translate an engine's range at a generic address. -/
def State.engineRange (s : State) (g : Group) (acc : Acc) (a n : Nat) : Except Nat (List Bit) :=
  match s.enginePieces g a n with
  | none => .error (badPlace a)
  | some ps => s.engineBits (s.engineAgent g) acc ps

/-- Where a piece or element lies: its length, the address read (none for CPYS), and the address written. For an element
the scattered address comes from its index as memory holds it now. -/
structure CopyPart where
  len : Nat
  src : Option Nat
  dst : Nat
  deriving DecidableEq, Repr

/-- A row piece. -/
def CopyOp.rowPart (o : CopyOp) (i : Nat) : CopyPart :=
  let r := i / o.perRow
  let (off, n) := o.rowCut i
  ⟨n, if o.op = 0xDA then none else some (addrPlus (o.srcRow r) off), addrPlus (o.dstRow r) off⟩

/-- The scattered address of an element. -/
def State.scattered (s : State) (g : Group) (o : CopyOp) (e : Nat) : Except Nat (State × Nat) :=
  match s.engineRange g .rd (o.f 8 8 + 4 * e) 4 with
  | .error a => .error a
  | .ok bs =>
    let (s, v) := s.engineReads (s.engineAgent g) bs
    .ok (s, addrPlus (o.f 0 8) (ofBytes v * o.esize : Nat))

/-- A piece or element of an operation. -/
def State.copyPart (s : State) (g : Group) (o : CopyOp) (i : Nat) : Except Nat (State × CopyPart) :=
  if copyLinear o.op || copyTiled o.op then .ok (s, o.rowPart i)
  else (s.scattered g o i).map fun (s, a) =>
    let data := o.f 0x10 8 + i * o.esize
    (s, if o.op = 0xDC then ⟨o.esize, some a, data⟩ else ⟨o.esize, some data, a⟩)

/-- The places that a part writes, one list of pieces for each target. -/
def State.copyTargets (s : State) (g : Group) (o : CopyOp) (p : CopyPart) : List (Option (List Piece)) :=
  if o.op = 0xD9 then (ranksOf o.x).map fun r => (s.teamOf g).bind fun t => s.rankPieces t p.dst p.len r
  else [s.enginePieces g p.dst p.len]

/-- Translate every target of a part. -/
def State.targetBits (s : State) (g : Group) (dst : Nat) : List (Option (List Piece)) → Except Nat (List (List Bit))
  | [] => .ok []
  | none :: _ => .error (badPlace dst)
  | some ps :: r =>
    match s.engineBits (s.engineAgent g) .wr ps with
    | .error a => .error a
    | .ok bs => (s.targetBits g dst r).map (bs :: ·)

/-- What a part moves once its addresses are known: the bytes read. -/
def State.copyData (s : State) (g : Group) (o : CopyOp) (i : Nat) (p : CopyPart) : Except Nat (State × List Byte) :=
  match p.src with
  | none =>
    .ok (s, (List.range p.len).map fun j => BitVec.ofNat 8 (o.f 0 4 / 2 ^ (8 * (((o.rowCut i).1 + j) % 4))))
  | some a => match s.engineRange g .rd a p.len with
    | .error e => .error e
    | .ok bs => .ok (s.engineReads (s.engineAgent g) bs)

/-- The pages of memory through which a part is read. -/
def State.sourcePages (s : State) (g : Group) (p : CopyPart) : List (Nat × Nat) :=
  match p.src.map fun a => s.engineRange g .rd a p.len with
  | some (.ok bs) => (bs.filterMap fun b => match b.spot with | .mem _ t _ => some (t.vbase, t.bits) | .pad _ _ => none).dedup
  | _ => []

/-- A part that is ready to be written: the bytes read, the pages that they come from, and the pieces of each target. -/
structure CopyMove where
  s : State
  dst : Nat
  v : List Byte
  pages : List (Nat × Nat)
  targets : List (List Bit)

/-- A part's bytes read and its targets translated: the fault, and whether it was a write, or what there is to write. -/
def State.readPart (s : State) (g : Group) (o : CopyOp) (i : Nat) : Except (Nat × Bool) CopyMove :=
  match s.copyPart g o i with
  | .error a => .error (a, false)
  | .ok (s, p) =>
    let pages := s.sourcePages g p
    match s.copyData g o i p with
    | .error a => .error (a, false)
    | .ok (s, v) => match s.targetBits g p.dst (s.copyTargets g o p) with
      | .error a => .error (a, true)
      | .ok ts => .ok ⟨s, p.dst, v, pages, ts⟩

/-- A part's bytes moved: the fault, and whether it was a write, or the state behind the writes. -/
def State.moveBytes (s : State) (g : Group) (o : CopyOp) (i : Nat) : Except (Nat × Bool) State :=
  (s.readPart g o i).map fun x => x.targets.foldl (fun (s : State) bs => s.engineWrites (s.engineAgent g) bs x.v) x.s

/-- The parts of a target that lie in scratchpads, if all of them do. -/
def padParts (bs : List Bit) : Option (List (Nat × Nat × Nat)) :=
  bs.mapM fun b => match b.spot with | .pad pid off => some (pid, off, b.len) | .mem _ _ _ => none

/-- A part, read, on its way into scratchpads: nothing where memory is a target. -/
def CopyMove.way (x : CopyMove) (i : Nat) : Option CopyWay := (x.targets.mapM padParts).map fun ts => ⟨i, x.dst, x.v, x.pages, ts, 0⟩

/-- The words of 4 bytes that a part writes, counted from the word of its first byte. -/
def CopyWay.words (y : CopyWay) : Nat := (y.dst % 4 + y.bytes.length + 3) / 4
/-- A mask of the words that are not written yet. -/
def CopyWay.rest (y : CopyWay) : Nat := (2 ^ y.words - 1) ^^^ y.written

/-- The bytes of some words of a target's parts written: a mask of the words. -/
def CopyWay.writeTarget (y : CopyWay) (mask : Nat) : State → Nat → List (Nat × Nat × Nat) → State
  | s, _, [] => s
  | s, at_, (pid, off, n) :: ps =>
    let s := (List.range n).foldl (fun (s : State) j =>
      if mask / 2 ^ ((y.dst % 4 + at_ + j) / 4) % 2 = 0 then s else s.writePad pid (off + j) [y.bytes.getD (at_ + j) 0]) s
    y.writeTarget mask s (at_ + n) ps

/-- Write some words of a part that is on its way. -/
def CopyWay.write (y : CopyWay) (mask : Nat) (s : State) : State := y.targets.foldl (fun s ps => y.writeTarget mask s 0 ps) s

/-- The bytes a part counts at a barrier. -/
def CopyOp.partLen (o : CopyOp) (i : Nat) : Nat := if copyLinear o.op || copyTiled o.op then (o.rowPart i).len else o.esize

/-- Where a part that is delivered into scratchpad begins: a row piece, or an element of a CPYG. -/
def CopyOp.partDst (o : CopyOp) (i : Nat) : Nat := if copyLinear o.op || copyTiled o.op then (o.rowPart i).dst else o.dst + i * o.esize

/-- Count a part at the barrier of every owner of its place; an underflow is an engine error (R334, R342; log 90). -/
def State.countPart (s : State) (g : Group) (o : CopyOp) (i : Nat) : State :=
  if !o.counts then s
  else (s.copyOwners g o (o.partDst i)).foldl (fun (s : State) t => match s.deliverBarrier t.tid o.barrier (o.partLen i) with
    | some s => s
    | none => s.engineError (coreDie g.core) (s.ctxIdOf g) 0 0) s

/-- Set an element's bit of the completion bitmap, or the address that faults. -/
def State.markElement (s : State) (g : Group) (o : CopyOp) (e : Nat) : Except Nat State :=
  if o.bmap = 0 then .ok s
  else match s.engineRange g .wr o.bmap 8 with
    | .error a => .error a
    | .ok bs =>
      let (s, v) := s.engineReads (s.engineAgent g) bs
      .ok (s.engineWrites (s.engineAgent g) bs (bytesOf (ofBytes v ||| 2 ^ e) 8))

/-- Put an operation back into its group. -/
def State.putCopy (s : State) (gid : Nat) (o : CopyOp) : State :=
  match s.group? gid with
  | some g => s.putGroup { g with copyOps := put CopyOp.n o g.copyOps }
  | none => s

/-- An operation waits on a fault, behind its walk. -/
def State.copyFault (s : State) (g : Group) (o : CopyOp) (e : Nat × Bool) : State :=
  (s.tryVa (s.engineAgent g) (if e.2 then .wr else .rd) e.1).putCopy g.gid { o with fault := some e, repaired := false }

/-- A part is performed or skipped: it counts. -/
def State.partDone (s : State) (g : Group) (o : CopyOp) (i : Nat) : State :=
  (s.putCopy g.gid { o with done := o.done ++ [i], ways := o.ways.filter fun y => y.part ≠ i }).countPart g o i

/-- A part's bytes are written: its bit of the bitmap is set, and it is done; a bitmap that cannot be written is a fault of `held`. -/
def State.markPart (s held : State) (g : Group) (o : CopyOp) (i : Nat) : State :=
  match s.markElement g o i with
  | .error a => held.copyFault g o (a, true)
  | .ok s => s.partDone g o i

/-- Perform or skip a part whole. -/
def State.endPiece (s : State) (g : Group) (o : CopyOp) (i : Nat) : State :=
  match s.moveBytes g o i with
  | .error e => if o.noFault then (s.tryVa (s.engineAgent g) .wr e.1).partDone g o i else s.copyFault g o e
  | .ok s' => s'.markPart s g o i

/-- A part on its way goes on by the words of a mask; with the last of them it is done. -/
def State.goWay (s : State) (g : Group) (o : CopyOp) (y : CopyWay) (mask : Nat) : State :=
  let y' := { y with written := y.written ||| mask }
  let o := { o with ways := (o.ways.filter fun z => z.part ≠ y.part) ++ [y'] }
  let s := (y.write (mask &&& y.rest) s).putCopy g.gid o
  if y'.rest = 0 then s.markPart s g o y.part else s

/-- The words that the engine takes next: all that are left, or some of them, by a free choice, since other agents see each word on its own
(R248). -/
def State.nextWords (s : State) (y : CopyWay) : Nat :=
  if Config.freeChoice s.ctl.freeCtr then y.rest else (Config.freeBits 72 s.ctl.freeCtr).toNat % 2 ^ y.words

/-- A part goes on: one that has been read from what was read, one of several words into scratchpads word by word; others are performed
whole. -/
def State.runPart (s : State) (g : Group) (o : CopyOp) (i : Nat) : State :=
  match o.ways.find? fun y => y.part = i with
  | some y => (s.goWay g o y (s.nextWords y)).tick
  | none => match s.readPart g o i with
    | .error _ => s.endPiece g o i
    | .ok x => match x.way i with
      | some y => if y.words < 2 then s.endPiece g o i else (x.s.goWay g o y (s.nextWords y)).tick
      | none => s.endPiece g o i

/-- Every part on its way is written to its end, as where revocation stops the operations at a boundary (R343). -/
def State.finishWays (s : State) (gid : Nat) : State :=
  match s.group? gid with
  | none => s
  | some g => g.copyOps.foldl (fun (s : State) o => o.ways.foldl (fun (s : State) y =>
      match (s.group? gid).bind fun g => g.copyOps.find? fun p => p.n = o.n with
      | some p => s.goWay g p y y.rest
      | none => s) s) s

/-! ## Which part may go (R337, R338) -/

/-- A stretch of storage: a pad or memory, and whether it may lie on an SO page. -/
structure Span where
  pad : Option Nat
  lo : Nat
  len : Nat
  so : Bool
  deriving DecidableEq, Repr

/-- The stretches of pieces, by physical address where a translation is there. A page without one may be mapped SO when it is repaired, and
its accesses keep their place among SO accesses (R337, R338). -/
def State.spansOf (s : State) (ag : Agent) (ps : List Piece) : List Span := ps.map fun p => match p.place with
  | .pad pid off => ⟨some pid, off, p.len, false⟩
  | .va a => match s.pageOf ag a with
    | some (t, _) => ⟨none, t.pa a, p.len, decide (t.kind = .so)⟩
    | none => ⟨none, a, p.len, true⟩

def Span.meets (x y : Span) : Bool := x.pad = y.pad && x.lo < y.lo + y.len && y.lo < x.lo + x.len

/-- The stretches of a range. -/
def State.rangeSpans (s : State) (g : Group) (a n : Nat) : List Span := s.spansOf (s.engineAgent g) ((s.enginePieces g a n).getD [])

/-- The span of the completion bitmap, if there is one, and of the index of an element. -/
def State.bitmapSpans (s : State) (g : Group) (o : CopyOp) : List Span := if o.bmap = 0 then [] else s.rangeSpans g o.bmap 8
def State.indexSpans (s : State) (g : Group) (o : CopyOp) (i : Nat) : List Span :=
  if copyLinear o.op || copyTiled o.op then [] else s.rangeSpans g (o.f 8 8 + 4 * i) 4

def meetAny (xs ys : List Span) : Bool := xs.any fun x => ys.any x.meets
def anySo (xs : List Span) : Bool := xs.any (·.so)

/-- What a part writes besides the bitmap, and what it reads, by its index as memory holds it; nothing where that cannot be read. -/
def State.partWrites (s : State) (g : Group) (o : CopyOp) (i : Nat) : Option (List Span) :=
  match s.copyPart g o i with
  | .ok (_, p) => some ((s.copyTargets g o p).flatMap fun t => s.spansOf (s.engineAgent g) (t.getD []))
  | .error _ => if o.op = 0xDC then some (s.rangeSpans g (o.f 0x10 8 + i * o.esize) o.esize) else none
def State.partReads (s : State) (g : Group) (o : CopyOp) (i : Nat) : Option (List Span) :=
  match s.copyPart g o i with
  | .ok (_, p) => some ((p.src.map fun a => s.rangeSpans g a p.len).getD [] ++ s.indexSpans g o i)
  | .error _ => none

/-- Whether some spans may meet others that are not certain. -/
def mayMeet (xs : List Span) (ys : Option (List Span)) : Bool :=
  match ys with
  | some ys => meetAny xs ys
  | none => xs ≠ []
def maySo (xs : Option (List Span)) : Bool :=
  match xs with
  | some xs => anySo xs
  | none => true

/-- Whether an operation before a part's, of those listed newest first, may still write its index. -/
def State.indexMoved (s : State) (g : Group) : List CopyOp → CopyOp → Nat → Bool
  | [], _, _ => false
  | q :: qs, o, i =>
    let ix := s.indexSpans g o i
    (ix ≠ [] && q.todo.any fun k =>
      (q.op = 0xDD && s.indexMoved g qs q k) || mayMeet ix ((s.partWrites g q k).map (· ++ s.bitmapSpans g q))) || s.indexMoved g qs o i

/-- What a part writes, its bitmap included, and what it reads, where that is certain: an operation before it may still write the index that
one of them goes by. -/
def State.sureWrites (s : State) (g : Group) (before : List CopyOp) (o : CopyOp) (i : Nat) : Option (List Span) :=
  if o.op = 0xDD && s.indexMoved g before o i then none else (s.partWrites g o i).map (· ++ s.bitmapSpans g o)
def State.sureReads (s : State) (g : Group) (before : List CopyOp) (o : CopyOp) (i : Nat) : Option (List Span) :=
  if o.op = 0xDC && s.indexMoved g before o i then none else s.partReads g o i

/-- Whether an operation has started. -/
def CopyOp.started (o : CopyOp) : Bool := o.done ≠ [] || o.ways ≠ [] || o.fault.isSome || o.parts = []

/-- Whether a part may be performed now: earlier operations have started, have written what it touches and have read what it writes,
earlier parts of its own have written what it writes, and SO accesses keep their order. A part whose own index cannot be read may go, to its
fault; one that is on its way goes on. -/
def State.partReady (s : State) (g : Group) (o : CopyOp) (i : Nat) : Bool :=
  let w := (s.partWrites g o i).getD []
  let wb := w ++ s.bitmapSpans g o
  let all := wb ++ s.indexSpans g o i ++ (s.partReads g o i).getD []
  let before := g.copyOps.filter fun p => p.n < o.n
  (o.ways.any fun y => y.part = i) ||
  (before.all (fun p => p.started && p.todo.all fun j =>
    let qs := (before.filter fun q => q.n < p.n).reverse
    let pw := s.sureWrites g qs p j
    let pr := s.sureReads g qs p j
    !mayMeet all pw && !mayMeet wb pr && !(anySo all && (maySo pw || maySo pr))) &&
  (o.todo.filter fun j => j < i).all fun j =>
    !mayMeet w (s.partWrites g o j) && !(anySo all && (maySo (s.partWrites g o j) || maySo (s.partReads g o j) || anySo (s.bitmapSpans g o))))

/-- Whether engine operations of a group go on: its team is not saved, and revocation has not stopped them (R343). -/
def State.engineRuns (s : State) (g : Group) : Bool :=
  (s.teamOf g).all fun t => t.place = .running || t.place = .gone

/-- The groups of a core whose engine operations go on. -/
def State.engineGroups (s : State) (core : Nat) : List Group := s.groups.filter fun g => g.core = core && s.engineRuns g

/-- Whether a group's copy-engine context has an operation that could start now. -/
def State.copyWaits (s : State) (g : Group) : Bool := g.copyOps.any fun o => !o.started && o.todo.any (s.partReady g o)

/-- The contexts of a core with a copy that could start now. -/
def State.copiesWaiting (s : State) (core : Nat) : List Nat := ((s.engineGroups core).filter s.copyWaits).map s.ctxIdOf

/-! ## The commands -/

/-- Whether a group's context holds 32 operations: the command is not ready (R323). -/
def State.copyFull (s : State) : Bool := s.frag?.any fun f => 32 ≤ f.g.copyOps.length

/-- Accept an operation: its number. -/
def Group.acceptCopy (g : Group) (o : CopyOp) : Group :=
  { g with copy := g.copy.accept, copyOps := g.copyOps ++ [{ o with n := g.copy.accepted + 1 }] }

/-- A copy command (R324, R325), behind the group's earlier accesses (R246). -/
def copyOut (s : State) (i : Instr) (m : Marks) (d a : Code) (op x : Nat) : Out :=
  if s.copyFull then .next s
  else issue s i m (fun f => { role := f.g.role.copies, srcs := [opnd a 2], dst := some (opnd d 2), late := true }) fun f =>
    let n := copyDescSize op
    let xs := s.checkLanes f.g .rd [1, 2, 3] n n (fun _ => f.src a 2 f.low) [f.low]
    match lanesTrap 0 xs with
    | some t => trapLanes s f m .rd xs t
    | none =>
      if s.relBusy f.g then .next s
      else
        let bits := xs.flatMap LaneAccess.pieces
        let s := bits.foldl (fun (s : State) b => s.bringBit (s.agentOf f.g) true b) s
        let o : CopyOp := ⟨0, op, s.readBits f.g.core bits, x, [], [], none, false⟩
        if !s.copyLegal f.g o then trapOut s f m ⟨0x02, 0, 0, f.sl.mask⟩
        else match s.copyAperture f.g o with
          | some addr => trapOut s f m ⟨0x0A, 0, addr, maskOf [f.low]⟩
          | none =>
            let s := s.putGroup { f.g with copy := f.g.copy.accept, copyOps := (f.g.acceptCopy o).copyOps }
            let s := s.engineAccept (coreDie f.g.core) (copyEngine f.g.core) (s.ctxIdOf f.g) true (s.copiesWaiting f.g.core)
            .next ((s.resultLater f d 2 (perLane fun _ => f.g.copy.accepted + 1) f.sl.mask 0 .engine).goOn f m)

/-- CPY, CPYS and CPYT (R330). -/
def execCpy (m : Marks) (d a : Code) (x : Bool) (s : State) : Out := copyOut s (.cpy m d a x) m d a 0xD8 x.toNat
def execCpys (m : Marks) (d a : Code) (x : Bool) (s : State) : Out := copyOut s (.cpys m d a x) m d a 0xDA x.toNat
def execCpyt (m : Marks) (d a : Code) (x : Bool) (s : State) : Out := copyOut s (.cpyt m d a x) m d a 0xDB x.toNat
/-- CPYM (R331). -/
def execCpym (m : Marks) (d a : Code) (x : BitVec 4) (s : State) : Out := copyOut s (.cpym m d a x) m d a 0xD9 x.toNat
/-- CPYG and CPYX (R332). -/
def execCpyg (m : Marks) (d a : Code) (nf x : Bool) (s : State) : Out := copyOut s (.cpyg m d a nf x) m d a 0xDC (x.toNat + 2 * nf.toNat)
def execCpyx (m : Marks) (d a : Code) (nf x : Bool) (s : State) : Out := copyOut s (.cpyx m d a nf x) m d a 0xDD (x.toNat + 2 * nf.toNat)

/-- CBMRD (R333): a relaxed read of a bitmap at its bank or home. -/
def execCbmrd (m : Marks) (d a : Code) (s : State) : Out :=
  if s.copyFull then .next s
  else issue s (.cbmrd m d a) m (fun f => { role := f.g.role.copies, srcs := [opnd a 2], dst := some (opnd d 2), late := true }) fun f =>
    let xs := s.checkLanes f.g .rd [1, 2, 3] 8 8 (fun _ => f.src a 2 f.low) [f.low]
    match lanesTrap 0 xs with
    | some t => trapLanes s f m .rd xs t
    | none =>
      if s.loadHeld f.g (xs.flatMap LaneAccess.pieces) then .next s
      else
        let (s, v) := s.engineReads (s.agentOf f.g) (xs.flatMap LaneAccess.pieces)
        let s := s.noteRead f.g (linesOfLanes xs)
        .next ((s.resultLater f d 2 (perLane fun _ => ofBytes v) f.sl.mask 0 .alu).goOn f m)

/-! ## Performing -/

/-- The copy engine starts an operation: its context has had its turn. -/
def State.startCopy (s : State) (g : Group) (op : Nat) : State :=
  s.engineServe (coreDie g.core) (copyEngine g.core) (s.ctxIdOf g)
    ((s.groups.filter fun h => h.core = g.core && s.ctxIdOf h = s.ctxIdOf g).any fun h => h.copyOps.any fun o => !o.started && !(h.gid = g.gid && o.n = op))

/-- COPY_PIECE_DELIVERY: an operation that has started goes on; one that has not waits for its context's turn (R30). -/
def execCopyPieceDelivery (gid op piece : Nat) (s : State) : Out :=
  match s.group? gid with
  | some g => match g.copyOps.find? fun o => o.n = op with
    | some o =>
      if !s.engineRuns g || o.fault.isSome || !o.todo.contains piece || !s.partReady g o piece then .next s
      else if o.started then .next (s.runPart g o piece)
      else if s.engineTurn (coreDie g.core) (copyEngine g.core) (s.ctxIdOf g) (s.copiesWaiting g.core) then
        let s := (s.startCopy g op).runPart g o piece
        .next (s.engineChoose (coreDie g.core) (copyEngine g.core) (s.copiesWaiting g.core))
      else .next s
    | none => .next s
  | none => .next s

/-! ## Completion (R314, R335) -/

/-- The residency report on a TCB: DEP falls by one, a release at MODULE scope of what came before the copy (R315), and a task that becomes ready is enqueued by the task unit; or the
address that faults. -/
def State.reportResidency (s : State) (g : Group) (tcb : Nat) : Except (Nat × Nat) State :=
  let ag := s.taskAgent (s.ctxIdOf g) g.core
  match s.addVa ag tcb 4 (2 ^ 32 - 1) with
  | .error e => .error e
  | .ok (s, old) =>
    let s := s.releaseAt ag tcb
    if old ≠ 1 then .ok s
    else match s.putVa ag (tcb + 4) 1 2 with
      | .error e => .error e
      | .ok s =>
        let (oid, s) := s.fresh
        let w : TaskWork := { ag.work tcb 0 none with blocked := some tcb }
        let r : Outst := ⟨oid, 0, 0, 0, 1, 0, perLane fun _ => 0, 1, .arm w, 0, false⟩
        .ok ((s.addOut r).runWork r .arm w)

/-- The operation is complete: its number passes and it leaves the context. -/
def Group.endCopy (g : Group) (n : Nat) : Group :=
  { g with copy := g.copy.complete n, copyOps := g.copyOps.filter fun o => o.n ≠ n }

/-- COPY_OP_COMPLETE: every part is performed or skipped; an operation without a part waits for the earlier ones. -/
def execCopyOpComplete (gid op : Nat) (s : State) : Out :=
  match s.group? gid with
  | some g => match g.copyOps.find? fun o => o.n = op with
    | some o =>
      let earlier := g.copyOps.any fun p => p.n < o.n
      if !s.engineRuns g || o.fault.isSome || o.todo ≠ [] || (o.parts = [] && earlier) then .next s
      else
        let fin (s : State) : State := match s.group? gid with | some g => s.putGroup (g.endCopy o.n) | none => s
        if o.tcb = 0 then .next (fin s)
        else match s.reportResidency g o.tcb with
          | .error (_, a) => .next (s.copyFault g o (a, true))
          | .ok s => .next (fin s)
    | none => .next s
  | none => .next s

end Sys2Proof.Machine
end

