-- ==== Sys2Proof/Machine/Formats.lean ====
section
/-! DEFINITION. Operand formats and format slots (R345 to R361): codes and values, conversion into a format, slot
words, element strings, FCVT. -/

namespace Sys2Proof.Machine

/-! ## Formats (R345, R347, R348, R351) -/

/-- A format: floating; logarithmic with the bits of its field, its fraction bits and its bias; an integer, signed or not,
with its width; T2; B1. -/
inductive NFmt where
  | flt (f : FFmt)
  | lns (w frac bias : Nat)
  | int (sgn : Bool) (w : Nat)
  | t2
  | b1
  deriving DecidableEq, Repr

/-- The format of a code. -/
def nfmt (c : Nat) : NFmt :=
  match c with
  | 0 => .flt f32
  | 1 => .flt f64
  | 2 => .flt ⟨8, 10, 127, true, false⟩
  | 3 => .flt f16
  | 4 => .flt bf16
  | 5 => .flt ⟨5, 2, 15, true, false⟩
  | 6 => .flt ⟨4, 3, 7, false, true⟩
  | 7 => .flt ⟨3, 4, 3, false, true⟩
  | 8 => .flt ⟨3, 2, 3, false, false⟩
  | 9 => .flt ⟨2, 3, 1, false, false⟩
  | 10 => .flt ⟨2, 1, 1, false, false⟩
  | 11 => .lns 15 8 64
  | 12 => .lns 7 3 8
  | 13 => .lns 5 2 4
  | 14 => .lns 3 1 2
  | 15 => .int true 16
  | 16 => .int false 16
  | 17 => .int true 8
  | 18 => .int false 8
  | 19 => .int true 4
  | 20 => .int false 4
  | 21 => .int true 2
  | 22 => .t2
  | _ => .b1

/-- Kinds: 0 floating, 1 logarithmic, 2 integer. -/
def fmtKind (c : Nat) : Nat := if c ≤ 10 then 0 else if c ≤ 14 then 1 else 2

/-- Width class. -/
def fmtClass (c : Nat) : Nat :=
  if c = 0 then 32 else if c = 1 then 64 else if c ≤ 4 || c = 11 || c = 15 || c = 16 then 16
  else if (5 ≤ c && c ≤ 7) || c = 12 || c = 17 || c = 18 then 8
  else if (8 ≤ c && c ≤ 10) || c = 13 || c = 14 || c = 19 || c = 20 then 4 else 2

/-- Bits stored per element: F19 has a container of 24 bits. -/
def fmtBits (c : Nat) : Nat :=
  if c = 2 then 24
  else match nfmt c with
    | .flt f => f.width
    | .lns w _ _ => w + 1
    | .int _ w => w
    | .t2 => 2
    | .b1 => 1

/-- Bits of the code itself. -/
def codeBits (c : Nat) : Nat := if c = 2 then 19 else fmtBits c

/-- Element `e` of an array as memory holds it (R346). -/
def elemAt (c : Nat) (v e : Nat) : Nat := v / 2 ^ (fmtBits c * e) % 2 ^ codeBits c

/-! ## Logarithmic values (R349) -/

/-- Whether `e` − 1/2 lies at or below 2^(39 + i/256). -/
def lnsBelow (i e : Nat) : Bool := (2 * e - 1) ^ 256 ≤ 2 ^ (10240 + i)

/-- Build an entry from its bits below the top one. -/
def lnsBits (i : Nat) : Nat → Nat → Nat
  | 0, e => e
  | k + 1, e => lnsBits i k (if lnsBelow i (e + 2 ^ k) then e + 2 ^ k else e)

/-- E[i]: the integer nearest to 2^(39 + i/256). -/
def lnsEntry (i : Nat) : Nat := lnsBits i 39 (2 ^ 39)

/-- The value of a field with `frac` fraction bits under a bias. -/
def lnsValue (frac : Nat) (bias : Nat) (F : Nat) : Frac :=
  (Frac.ofInt (lnsEntry (F % 2 ^ frac * 2 ^ (8 - frac)))).shift ((F / 2 ^ frac : Nat) - (bias : Int) - 39)

/-! ## Values -/

/-- The exact value of an element or of a vector operand. -/
inductive NVal where
  | nan (neg signalling : Bool)
  | nar
  | inf (neg : Bool)
  | zero (neg : Bool)
  | fin (x : Frac)
  deriving DecidableEq, Repr

def FVal.toN : FVal → NVal
  | .nan n s => .nan n s
  | .inf n => .inf n
  | .zero n => .zero n
  | .fin x => .fin x

/-- An integer as a value. -/
def NVal.ofInt (z : Int) : NVal := if z = 0 then .zero false else .fin (Frac.ofInt z)

/-- The value of a code (R347, R348, R351). -/
def decodeN (fm : NFmt) (c : Nat) : NVal :=
  match fm with
  | .flt f => (decodeF f c).toN
  | .lns w frac bias =>
    let F := c % 2 ^ w
    let neg : Bool := c / 2 ^ w % 2 = 1
    if F = 0 then if neg then .nar else .zero false
    else .fin (if neg then (lnsValue frac bias F).neg else lnsValue frac bias F)
  | .int sgn w => NVal.ofInt (if sgn then signedOf w c else ((c % 2 ^ w : Nat) : Int))
  | .t2 => NVal.ofInt (if c % 4 = 1 then 1 else if c % 4 = 3 then -1 else 0)
  | .b1 => NVal.ofInt (if c % 2 = 0 then 1 else -1)

/-- Scale a value by a power of two. -/
def NVal.shift (v : NVal) (k : Int) : NVal := match v with | .fin x => .fin (x.shift k) | _ => v

/-! ## Conversion into a format (R352) -/

/-- How a conversion rounds: direction, saturation, NANP. -/
structure ConvMode where
  rm : Nat
  sat : Bool
  nanp : Bool
  deriving DecidableEq, Repr

/-- The largest field of `w` bits whose value is at or below a magnitude. -/
def lnsFloor (frac bias : Nat) (x : Frac) : Nat → Nat → Nat
  | 0, F => F
  | k + 1, F => lnsFloor frac bias x k (if (lnsValue frac bias (F + 2 ^ k)).le x then F + 2 ^ k else F)

/-- The value of a field, zero for field 0. -/
def lnsOrZero (frac bias F : Nat) : Frac := if F = 0 then ⟨0, 1⟩ else lnsValue frac bias F

/-- Round a non-zero value into a logarithmic format (step 8). -/
def toLns (w frac bias : Nat) (cm : ConvMode) (x : Frac) : Nat × Nat :=
  let neg : Bool := x.num < 0
  let a := x.abs
  let sign := if neg then 2 ^ w else 0
  let top := 2 ^ w - 1
  if (lnsValue frac bias top).lt a then (if cm.sat then sign + top else 2 ^ w, evOver)
  else
    let F := lnsFloor frac bias a w 0
    let lo := lnsOrZero frac bias F
    if lo.beq a then (sign + F, 0)
    else
      let mid := (lo.add (lnsValue frac bias (F + 1))).mul ⟨1, 2⟩
      let up : Bool := match cm.rm with
        | 0 => mid.lt a || (mid.beq a && F % 2 = 1)
        | 1 => false
        | 2 => neg
        | 3 => !neg
        | _ => mid.le a
      let G := if up then F + 1 else F
      if G = 0 then (0, evUnder) else (sign + G, 0)

/-- Round a non-zero value into a floating format (step 8): underflow where what is delivered is below the smallest normal value. -/
def toFlt (f : FFmt) (cm : ConvMode) (x : Frac) : Nat × Nat :=
  let neg : Bool := x.num < 0
  let (c, inexact) := roundCode f cm.rm neg x.num.natAbs x.den
  if f.maxCode < c then
    (if cm.sat then f.signBit neg + f.maxCode
     else if f.ieee then overflowCode f cm.rm neg
     else if f.oneNan then f.signBit neg + f.nan
     else f.signBit neg + f.maxCode, evOver)
  else (f.signBit neg + c, if inexact && decide (c < 2 ^ f.m) then evUnder else 0)

/-- The range of an integer format. -/
def intRange : NFmt → Int × Int
  | .int true w => (-(2 : Int) ^ (w - 1), (2 : Int) ^ (w - 1) - 1)
  | .int false w => (0, (2 : Int) ^ w - 1)
  | _ => (-1, 1)

/-- The code of an integer in range. -/
def intCode (fm : NFmt) (y : Int) : Nat :=
  match fm with
  | .int _ w => unsignedOf w y
  | .t2 => unsignedOf 2 y
  | _ => if y < 0 then 1 else 0

/-- Step 7: an integer format other than B1. -/
def toInt (fm : NFmt) (cm : ConvMode) (x : Frac) : Nat × Nat :=
  let y := roundInt cm.rm x
  let (lo, hi) := intRange fm
  if lo ≤ y && y ≤ hi then (intCode fm y, 0)
  else if cm.sat || decide (fm = .t2) then (intCode fm (if y < lo then lo else hi), evOver)
  else (intCode fm y, evOver)

/-- The greatest magnitude of a format with a sign: the end of an integer's range. -/
def maxOf (fm : NFmt) (neg : Bool) : Nat :=
  match fm with
  | .flt f => f.signBit neg + f.maxCode
  | .lns w _ _ => (if neg then 2 ^ w else 0) + 2 ^ w - 1
  | _ => intCode fm (if neg then (intRange fm).1 else (intRange fm).2)

/-- The NaN of a format with a sign; the zero code where it has none. -/
def nanCode (fm : NFmt) (neg : Bool) : Nat :=
  match fm with
  | .flt f => if f.hasNan then f.signBit neg + f.nan else 0
  | .lns w _ _ => 2 ^ w
  | _ => 0

def NFmt.hasNan : NFmt → Bool
  | .flt f => f.hasNan
  | .lns _ _ _ => true
  | _ => false

/-- Convert a value into a format: the code and its events. -/
def convertInto (fm : NFmt) (cm : ConvMode) (v : NVal) : Nat × Nat :=
  let nanStep (neg sig : Bool) : Nat × Nat :=
    if cm.nanp then (0, evNan) else (nanCode fm neg, if sig || !fm.hasNan then evNan else 0)
  match v with
  | .nan neg sig => nanStep neg sig
  | .nar => nanStep false false
  | .inf neg =>
    match fm with
    | .flt f => if f.ieee then (f.signBit neg + f.infCode, 0)
        else if cm.sat || !f.oneNan then (maxOf fm neg, evOver) else (nanCode fm neg, evOver)
    | _ => if cm.sat || !fm.hasNan then (maxOf fm neg, evOver) else (nanCode fm neg, evOver)
  | .zero neg => match fm with | .flt f => (f.signBit neg, 0) | _ => (0, 0)
  | .fin x =>
    match fm with
    | .flt f => toFlt f cm x
    | .lns w frac bias => toLns w frac bias cm x
    | .b1 => (if x.num < 0 then 1 else 0, 0)
    | _ => toInt fm cm x

/-! ## Format slots (R353, R354) -/

/-- A slot word. -/
structure FSlot where
  afmt : Nat
  bfmt : Nat
  acc : Nat
  scale : Nat
  round : Nat
  sat : Bool
  nanp : Nat
  soff : Nat
  ea : Int
  eb : Int
  rest : Nat
  deriving DecidableEq, Repr

def fslotOf (w : Nat) : FSlot :=
  ⟨w % 32, w / 2 ^ 5 % 32, w / 2 ^ 10 % 4, w / 2 ^ 12 % 4, w / 2 ^ 14 % 8, w / 2 ^ 17 % 2 = 1, w / 2 ^ 18 % 4, w / 2 ^ 20 % 2 ^ 14,
   signedOf 8 (w / 2 ^ 34), signedOf 8 (w / 2 ^ 42), w / 2 ^ 50⟩

/-- The validity of a slot. -/
def FSlot.ok (q : FSlot) : Bool :=
  q.rest = 0 && q.afmt ≤ 23 && q.bfmt ≤ 23 && q.acc ≤ 2 && q.round ≤ 4 && q.nanp ≤ 1 &&
  fmtKind q.afmt = fmtKind q.bfmt && fmtClass q.afmt = fmtClass q.bfmt && (decide (q.acc = 2) == decide (fmtKind q.afmt = 2)) &&
  (fmtKind q.afmt ≠ 2 || q.scale = 0) && (q.soff = 0 || 2 ≤ q.scale) && ((q.ea = 0 && q.eb = 0) || q.scale = 1)

def FSlot.conv (q : FSlot) : ConvMode := ⟨q.round, q.sat, q.nanp = 1⟩

/-- A format slot of a group's grid. -/
def State.fslot (s : State) (g : Group) (i : Nat) : FSlot := fslotOf (((s.launchOf g).map fun l => l.kd.slots.getD i 0).getD 0)

/-! ## FCVT (R361) -/

/-- The value of a vector operand of a MODE type. -/
def vecValue (t v : Nat) : NVal :=
  match elemOf t with
  | .int sgn w => NVal.ofInt (if sgn then signedOf w v else ((v % 2 ^ w : Nat) : Int))
  | .flt f => (decodeF f v).toN

/-- `.enc`. -/
def encodeLane (q : FSlot) (t v : Nat) : Nat × List Nat :=
  let e : Int := if q.scale = 1 then q.ea else 0
  let (c, ev) := convertInto (nfmt q.afmt) q.conv ((vecValue t v).shift (-e))
  (c, [ev])

/-- `.dec`. -/
def decodeLane (q : FSlot) (t v : Nat) : Nat × List Nat :=
  let e : Int := if q.scale = 1 then q.ea else 0
  let x := decodeN (nfmt q.afmt) (v % 2 ^ codeBits q.afmt)
  match elemOf t with
  | .int _ w => (unsignedOf w (match x with | .fin y => y.trunc | _ => 0), [0])
  | .flt f =>
    match x with
    | .nan neg sig => if q.nanp = 1 then (0, [evNan]) else (f.signBit neg + f.nan, [if sig then evNan else 0])
    | .nar => (if q.nanp = 1 then 0 else f.nan, [evNan])
    | .inf neg => (f.signBit neg + f.infCode, [0])
    | .zero neg => (f.signBit neg, [0])
    | .fin y => let (c, ev) := roundTo f q.round (y.shift e); (c, [ev])

/-- Words of a code of an A format. -/
def FSlot.words (q : FSlot) : Nat := if q.afmt = 1 then 2 else 1

/-- FCVT. -/
def execFcvt (m : Marks) (d a : Code) (dec : Bool) (x : BitVec 3) (s : State) : Out :=
  let q (f : Frag) : FSlot := s.fslot f.g x.toNat
  issue s (.fcvt m d a dec x) m
    (fun f => { typed := f.g.type = 6 || f.g.type = 9 || (f.g.type = 0 && (!dec || fmtKind (q f).afmt = 2)) || (f.g.type = 1 && !dec),
                srcs := [opnd a (if dec then (q f).words else f.words)],
                dst := some (opnd d (if dec then f.words else (q f).words)), late := true }) fun f =>
    let n := if dec then f.words else (q f).words
    let rs := laneNums.map fun l => (if dec then decodeLane (q f) f.g.type (f.src a (q f).words l) else encodeLane (q f) f.g.type (f.src a f.words l))
    .next (s.withEventsLate f (maskAt f.sl m 0) 4 (rs.map (·.2)) f.sl.mask fun counts s =>
      (s.resultLater f d n (rs.map (·.1)) f.sl.mask 0 (.narrow counts)).goOn f m)

end Sys2Proof.Machine
end

