-- ==== Sys2Proof/Machine/Matrix.lean ====
section
/-! DEFINITION. The matrix engine (R356 to R377): tiles, gangs, MMA and MMAZ with the exact dot product, ACCLD, ACCST,
ACCRD, MFREE, MBURST, and the arrays. -/

namespace Sys2Proof.Machine

/-! ## Slots and shapes (R367) -/

/-- K by the width class of the formats. -/
def FSlot.depth (q : FSlot) : Nat :=
  match fmtClass q.afmt with
  | 64 => 16
  | 32 => 32
  | 16 => 64
  | 8 => 128
  | 4 => 256
  | _ => 512

/-- Bytes of the whole of A, and of B. -/
def FSlot.aBytes (q : FSlot) : Nat := q.depth * 32 * fmtBits q.afmt / 8
def FSlot.bBytes (q : FSlot) : Nat := q.depth * 32 * fmtBits q.bfmt / 8
/-- Whether accumulators are FP64 pairs. -/
def FSlot.wide (q : FSlot) : Bool := q.acc = 1
/-- The MODE type that ACC stands for. -/
def FSlot.accType (q : FSlot) : Nat := if q.acc = 0 then 6 else if q.acc = 1 then 9 else 0
/-- The tiles that an operation on tile `t` acts on. -/
def FSlot.tiles (q : FSlot) (t : Nat) : List Nat := if q.wide then [t, t + 1] else [t]

/-! ## Tiles (R362) -/

/-- A word of a tile; a tile without an owner reads as zeros. -/
def Tile.word (t : Tile) (i : Nat) : Nat := if t.owner.isNone then 0 else (t.words.getD i 0).toNat
/-- The overflow counter of a tile; 0 where nobody owns it. -/
def Tile.overflows (t : Tile) : Nat := if t.owner.isNone then 0 else t.ovf

/-- An accumulator value of a cluster's tiles. -/
def Cluster.acc (c : Cluster) (wide : Bool) (t r k : Nat) : Nat :=
  if wide then
    let x := c.tiles.getD (t + r / 16) Tile.reset
    let i := 64 * (r % 16) + 2 * k
    x.word i + 2 ^ 32 * x.word (i + 1)
  else (c.tiles.getD t Tile.reset).word (32 * r + k)

/-- An accumulator with its overflow mark and its event bits. -/
structure AccOut where
  val : Nat
  wrap : Bool
  ev : Nat
  deriving DecidableEq, Repr

/-- A tile with the words of some accumulators in row-major order, 1,024 words in all; its counter takes the overflows. -/
def Tile.fill (t : Tile) (wide : Bool) (xs : List AccOut) (ovf : Nat) : Tile :=
  let n := (xs.filter (·.wrap)).length
  { t with words := if wide then xs.flatMap fun x => [wordAt x.val 0, wordAt x.val 1] else xs.map fun x => wordAt x.val 0
           ovf := min (ovf + n) 0xFFFFFFFF }

/-- Write 32 × 32 accumulators in row-major order; `keep` says whether the counters go on from their values. -/
def Cluster.putAcc (c : Cluster) (wide : Bool) (t : Nat) (xs : List AccOut) (keep : Bool) : Cluster :=
  let start (x : Tile) : Nat := if keep then x.overflows else 0
  if wide then
    { c with tiles := (c.tiles.modify t fun x => x.fill true (xs.take 512) (start x)).modify (t + 1) fun x => x.fill true (xs.drop 512) (start x) }
  else { c with tiles := c.tiles.modify t fun x => x.fill false xs (start x) }

/-! ## The exact dot product (R357, R358) -/

/-- An element of A or B: under NANP = 1, NaN and NaR read as +0. -/
def FSlot.elem (q : FSlot) (fmt c : Nat) : NVal :=
  match decodeN (nfmt fmt) c with
  | .nan n sg => if q.nanp = 1 then .zero false else .nan n sg
  | .nar => if q.nanp = 1 then .zero false else .nar
  | v => v

def NVal.isNeg : NVal → Bool
  | .nan n _ => n
  | .nar => false
  | .inf n => n
  | .zero n => n
  | .fin x => x.num < 0

/-- The exact product of two values; a NaN, a NaR or ∞ × 0 gives NaN. -/
def NVal.mul (a b : NVal) : NVal :=
  let neg := a.isNeg != b.isNeg
  match a, b with
  | .nan _ _, _ => .nan false false
  | _, .nan _ _ => .nan false false
  | .nar, _ => .nan false false
  | _, .nar => .nan false false
  | .inf _, .zero _ => .nan false false
  | .zero _, .inf _ => .nan false false
  | .inf _, _ => .inf neg
  | _, .inf _ => .inf neg
  | .zero _, _ => .zero neg
  | _, .zero _ => .zero neg
  | .fin x, .fin y => .fin (x.mul y)

/-- A value whose zero is +0. -/
def NVal.plusZero : NVal → NVal
  | .zero _ => .zero false
  | v => v

/-- The product of two logarithmic codes of one format (R350). -/
def lnsProduct (q : FSlot) (w frac bias a b : Nat) : NVal :=
  match q.elem q.afmt a, q.elem q.afmt b with
  | .fin x, .fin y =>
    let v := lnsValue frac (2 * bias) (a % 2 ^ w + b % 2 ^ w)
    .fin (if (x.num < 0) = (y.num < 0) then v else v.neg)
  | x, y => (x.mul y).plusZero

/-- The product of an element of A and one of B. In a logarithmic slot a product with a zero operand is +0, also where the two
formats differ (R350, R357). -/
def FSlot.product (q : FSlot) (a b : Nat) : NVal :=
  match nfmt q.afmt with
  | .lns w frac bias => if q.afmt = q.bfmt then lnsProduct q w frac bias a b else ((q.elem q.afmt a).mul (q.elem q.bfmt b)).plusZero
  | _ => (q.elem q.afmt a).mul (q.elem q.bfmt b)

/-- The accumulator's value as stored. -/
def FSlot.accValue (q : FSlot) (v : Nat) : NVal := vecValue q.accType v

/-- The default NaN of ACC. -/
def FSlot.accNan (q : FSlot) : Nat := if q.acc = 1 then f64.nan else f32.nan
/-- The floating format of ACC. -/
def FSlot.accFmt (q : FSlot) : FFmt := if q.acc = 1 then f64 else f32

/-- Round an exact sum into the accumulator. -/
def FSlot.finish (q : FSlot) (x : Frac) (allNegZero : Bool) : AccOut :=
  if q.acc = 2 then
    let y := x.trunc
    if -(2 : Int) ^ 31 ≤ y && y < (2 : Int) ^ 31 then ⟨unsignedOf 32 y, false, 0⟩
    else ⟨if q.sat then (if y < 0 then 2 ^ 31 else 2 ^ 31 - 1) else unsignedOf 32 y, true, 0⟩
  else if x.num = 0 then ⟨q.accFmt.signBit (allNegZero || q.round = 2), false, 0⟩
  else
    let (c, ev) := toFlt q.accFmt q.conv x
    ⟨c, ev % 8 / 4 = 1, ev⟩

def NVal.isNan : NVal → Bool
  | .nan _ _ => true
  | .nar => true
  | _ => false
def NVal.isInf (neg : Bool) : NVal → Bool
  | .inf n => n = neg
  | _ => false
def NVal.frac : NVal → Frac
  | .fin x => x
  | _ => ⟨0, 1⟩

/-- The result of the terms of one element. -/
def FSlot.dot (q : FSlot) (terms : List NVal) : AccOut :=
  if terms.any NVal.isNan || (terms.any (NVal.isInf false) && terms.any (NVal.isInf true)) then ⟨q.accNan, false, evNan⟩
  else if terms.any (NVal.isInf false) then ⟨q.accFmt.infCode, false, 0⟩
  else if terms.any (NVal.isInf true) then ⟨q.accFmt.signBit true + q.accFmt.infCode, false, 0⟩
  else q.finish (Frac.sum (terms.map NVal.frac)) (terms.all fun v => decide (v = .zero true))

/-- What an MMA works on: the slot, the members, each member's A block and B part, the scale vector (R368). -/
structure MmaIn where
  q : FSlot
  size : Nat
  blocks : List Nat
  parts : List Nat
  scale : List Byte
  deriving DecidableEq, Repr

namespace MmaIn

def a (x : MmaIn) (r k : Nat) : Nat :=
  let rows := 32 / x.size
  elemAt x.q.afmt (x.blocks.getD (r / rows) 0) (r % rows * x.q.depth + k)
def b (x : MmaIn) (k c : Nat) : Nat :=
  let deep := x.q.depth / x.size
  elemAt x.q.bfmt (x.parts.getD (k / deep) 0) (k % deep * 32 + c)
/-- The power of two by which a product is scaled (R356). -/
def factor (x : MmaIn) (r c : Nat) : Int :=
  match x.q.scale with
  | 1 => x.q.ea + x.q.eb
  | 2 => signedOf 8 (x.scale.getD r 0).toNat
  | 3 => signedOf 8 (x.scale.getD c 0).toNat
  | _ => 0
/-- The products of element (r, c). -/
def terms (x : MmaIn) (r c : Nat) : List NVal :=
  (List.range x.q.depth).map fun k => (x.q.product (x.a r k) (x.b k c)).shift (x.factor r c)
/-- Element (r, c), with or without the incoming accumulator. -/
def elem (x : MmaIn) (r c : Nat) (acc : Option Nat) : AccOut :=
  x.q.dot (x.terms r c ++ (acc.map x.q.accValue).toList)

end MmaIn

/-- The positions of a tile in row-major order. -/
def tilePositions : List (Nat × Nat) := (List.range 1024).map fun i => (i / 32, i % 32)

/-! ## Gangs (R363, R364, R365) -/

/-- The member that byte `i` of a GANG word names: rank and GRPID. -/
def gangMember (w i : Nat) : Nat × Nat := (w / 2 ^ (8 * i) % 256 / 16, w / 2 ^ (8 * i) % 16)
def gangMembers (w n : Nat) : List (Nat × Nat) := (List.range n).map (gangMember w)

/-- The role of a group of a kernel (R282). -/
def KDesc.role (k : KDesc) (g : Nat) : Role :=
  match k.roles / 4 ^ g % 4 with
  | 0 => .copy
  | 1 => .matrix
  | 2 => .vector
  | _ => .any

/-- The number under which a gang's word lists a group: its team's rank and its GRPID. -/
def Gang.number (x : Gang) (t : Team) (g : Group) : Option Nat :=
  if x.lid = t.lid && x.clusterNo = t.clusterNo then
    (List.range x.size).find? fun i => gangMember x.word.toNat i = (t.rank, g.grpId)
  else none

/-- The number of a group in its current gang. -/
def Gang.memberOf (x : Gang) (gid : Nat) : Nat := ((x.joined.find? fun p => p.2 = gid).map (·.1)).getD 0

/-- Whether a GANG word is legal for a group (R363). -/
def State.gangLegal (s : State) (g : Group) (w n : Nat) : Bool :=
  match s.teamOf g, s.launchOf g with
  | some t, some l =>
    let ms := gangMembers w n
    w / 2 ^ (8 * n) = 0 && ms.all (fun p => p.1 < 4 && p.1 < max 1 l.clsize && p.2 < l.kd.ngroups && (l.kd.role p.2).matrices) &&
    decide ((ms.map (·.1)).dedup.length = n) && ms.contains (t.rank, g.grpId)
  | _, _ => false

/-- Gangs that wait for a group to join, which their words list and which has not joined. -/
def State.gangsAwaiting (s : State) (g : Group) : List Gang :=
  match s.teamOf g with
  | none => []
  | some t => s.gangs.filter fun x => !x.formed && !x.closed && match x.number t g with
      | some i => !x.joined.any fun p => p.1 = i
      | none => false

/-- Gang operations that a group has issued and that are not performed; a number that it has still to issue may count as performed already
(R382). -/
def Group.gangOpen (g : Group) : Nat := g.gangTl.accepted - g.gangTl.counter - (g.gangTl.done.filter fun k => k ≤ g.gangTl.accepted).length

/-- Whether gang operation `k` counts as performed for a group. -/
def Group.gangOver (g : Group) (k : Nat) : Bool := k ≤ g.gangTl.counter || g.gangTl.done.contains k

/-- The current gang of a group. -/
def State.gangOf (s : State) (g : Group) : Option Gang := g.gang.bind s.gang?

/-- Whether a gang holds a gang context of its cluster: its teams are not saved (R380). -/
def State.gangBound (s : State) (x : Gang) : Bool :=
  s.teams.any fun t => t.lid = x.lid && t.clusterNo = x.clusterNo && t.place ≠ .saved

/-- Whether a GANG of a group is not ready (R363). -/
def State.gangHeld (s : State) (g : Group) : Bool :=
  let cur := s.gangOf g
  let spare := cur.any fun x => !x.formed && x.joined.length = x.left.length + 1
  (cur.any (fun x => x.formed) && g.gangOpen ≠ 0) ||
  16 ≤ (s.gangs.filter fun x => x.cluster = coreCluster g.core && s.gangBound x).length - (if spare then 1 else 0)

/-- A group joins a gang as member `i`; the gang is formed once all have joined. -/
def State.joinGang (s : State) (gid : Nat) (x : Gang) (i : Nat) : State :=
  let joined := x.joined ++ [(i, gid)]
  let s := s.putGang { x with joined := joined, formed := decide (joined.length = x.size) }
  match s.group? gid with
  | some g => s.putGroup { g with gang := some x.gid, gangTl := ⟨0, 0, []⟩ }
  | none => s

/-- A group's GANG takes effect: it leaves its gang, then joins one with its word or creates one. -/
def State.runGang (s : State) (f : Frag) (t : Team) (w : Word) (n : Nat) : State :=
  let s := s.leaveGang f.g.gid .join
  match s.gangsAwaiting f.g with
  | x :: _ => match x.number t f.g with
    | some i => s.joinGang f.g.gid x i
    | none => s
  | [] =>
    let (k, s) := s.fresh
    let x : Gang := ⟨k, coreCluster f.g.core, t.ctx, t.lid, t.clusterNo, w, n, [], [], false, false, []⟩
    match x.number t f.g with
    | some i => (s.addGang x).joinGang f.g.gid x i
    | none => s

/-- GANG (R363 to R365). -/
def execGang (m : Marks) (a : Code) (x : BitVec 4) (s : State) : Out :=
  match s.frag? with
  | none => .next s
  | some f =>
    if s.gangHeld f.g then .next (s.park f .gang)
    else issue s (.gang m a x) m (fun f => { role := f.g.role.matrices, srcs := [opnd a 1] }) fun f =>
      let w := f.src a 1 f.low
      match s.teamOf f.g with
      | none => trapOut s f m ⟨0x02, 0, 0, f.sl.mask⟩
      | some t =>
        if !s.gangLegal f.g w x.toNat then trapOut s f m ⟨0x02, 0, 0, f.sl.mask⟩
        else if (s.gangsAwaiting f.g).any fun y => y.word.toNat ≠ w then trapOut s f m ⟨0x0E, 0, 0, f.sl.mask⟩
        else .next ((s.runGang f t (BitVec.ofNat 32 w) x.toNat).goOn f m)

/-! ## Ownership at issue (R377, R385) -/

/-- Whether a context may use tiles of a cluster now. -/
def State.mayOwn (s : State) (cl ctx : Nat) (ts : List Nat) : Bool :=
  ts.all fun t => let x := (s.cluster cl).tiles.getD t Tile.reset; x.owner = some ctx || (x.owner.isNone && !x.rmark)

/-- The context takes the tiles that nobody owns: each reads zero, and its owner record says so (R103). -/
def State.claimTiles (s : State) (cl ctx : Nat) (ts : List Nat) : State :=
  ts.foldl (fun (s : State) t =>
    if ((s.cluster cl).tiles.getD t Tile.reset).owner.isNone then
      let s := s.modCluster cl fun c => { c with tiles := c.tiles.modify t fun x => { x with words := [], ovf := 0, owner := some ctx } }
      match s.ctx? ctx with
      | some c => s.putOwner c ⟨cl, t, false, 0⟩
      | none => s
    else s) s

/-! ## Gang operations (R366, R369, R374, R376) -/

/-- A gang operation as an instruction names it: opcode, D field, X field, and its slot if it has one. -/
structure GangInsn where
  op : Nat
  t : Nat
  x : Nat
  q : FSlot
  deriving DecidableEq, Repr

def GangInsn.hasBlock (i : GangInsn) : Bool := i.op ≠ 0xE6
def GangInsn.tiles (i : GangInsn) : List Nat := if i.hasBlock then i.q.tiles i.t else [i.t]

/-- Bytes of a member's block. -/
def GangInsn.blockLen (i : GangInsn) (size : Nat) : Nat :=
  if i.op = 0xE1 then i.q.aBytes / size else if i.hasBlock then 32 / size * 32 * fmtBits i.q.afmt / 8 else 0

/-- Bytes that an operation touches at a member's address: ACCST writes OVF behind the last member's block. -/
def GangInsn.touchLen (i : GangInsn) (size member : Nat) : Nat :=
  i.blockLen size + (if i.op = 0xE3 && member + 1 = size then 4 else 0)

/-- The scale vector of a gang's MMA in the SCRATCH window of its first listed member's team (R356). -/
def State.scaleVector (s : State) (x : Gang) (t : Team) (q : FSlot) : Option (List Byte) :=
  match (s.rankTeam t (gangMember x.word.toNat 0).1).bind fun u => s.pad? u.pad with
  | some p => if 32 * q.soff + 32 ≤ p.len then some (Memory.read p.bytes (32 * q.soff) 32) else none
  | none => none

/-- Record a member's issue of operation `k`. -/
def GangOp.add (o : GangOp) (i : Nat) (addr : Addr) (pad : Option Nat) (part : List Byte) (scale : List Byte) : GangOp :=
  { o with by_ := o.by_ ++ [i], addrs := o.addrs ++ [(i, addr)], pads := o.pads ++ (pad.map fun p => (i, p)).toList,
           parts := o.parts ++ [(i, part)], scale := scale }

/-- The B bytes of a member (R368): the registers from `b` on, all 64 lanes. -/
def Frag.partBytes (f : Frag) (b n : Nat) : List Byte :=
  (List.range n).flatMap fun j => laneNums.flatMap fun l => bytesOf (f.srcWord (b + j) l).toNat 4

/-! ## Performing (R369, R372, R374, R376) -/

/-- The slot of a held operation, from its gang's launch. -/
def State.opSlot (s : State) (x : Gang) (o : GangOp) : FSlot := fslotOf (((s.launch? x.lid).map fun l => l.kd.slots.getD (o.x % 8) 0).getD 0)

def State.opInsn (s : State) (x : Gang) (o : GangOp) : GangInsn := ⟨o.op, o.t, o.x, s.opSlot x o⟩

/-- The offset of a block in its pad. -/
def blockOff (a : Addr) : Nat := a.toNat % 2 ^ 48 % 2 ^ 19

/-- The bytes of a member's block. -/
def State.blockBytes (s : State) (o : GangOp) (i n : Nat) : List Byte :=
  match o.pads.find? (fun p => p.1 = i), o.addrs.find? (fun p => p.1 = i) with
  | some (_, pid), some (_, a) => s.padBytes pid (blockOff a) n
  | _, _ => []

/-- Write bytes at an offset of a member's block. -/
def State.writeBlock (s : State) (o : GangOp) (i off : Nat) (v : List Byte) : State :=
  match o.pads.find? (fun p => p.1 = i), o.addrs.find? (fun p => p.1 = i) with
  | some (_, pid), some (_, a) => s.writePad pid (blockOff a + off) v
  | _, _ => s

/-- Count the events of an operation's elements under narrow (R360). -/
def State.countNarrow (s : State) (x : Gang) (evs : List Nat) : State :=
  s.countEvents x.ctx x.cluster 4 ((List.range 4).map fun e => (evs.filter fun b => b / 2 ^ e % 2 = 1).length)

/-- MMA or MMAZ is performed. -/
def State.performMma (s : State) (x : Gang) (o : GangOp) (q : FSlot) : State :=
  let members := List.range x.size
  let inp : MmaIn := ⟨q, x.size, members.map fun i => ofBytes (s.blockBytes o i (q.aBytes / x.size)),
    members.map fun i => ofBytes ((o.parts.find? fun p => p.1 = i).map (·.2) |>.getD []), o.scale⟩
  let c := s.cluster x.cluster
  let zero := o.x / 8 = 1
  let rs := tilePositions.map fun (r, k) => inp.elem r k (if zero then none else some (c.acc q.wide o.t r k))
  (s.modCluster x.cluster fun c => c.putAcc q.wide o.t rs (!zero)).countNarrow x (rs.map (·.ev))

/-- ACCLD is performed. -/
def State.performAccld (s : State) (x : Gang) (o : GangOp) (q : FSlot) : State :=
  let rows := 32 / x.size
  let n := rows * 32 * fmtBits q.afmt / 8
  let blocks := (List.range x.size).map fun i => ofBytes (s.blockBytes o i n)
  let rs : List AccOut := tilePositions.map fun (r, k) =>
    let (v, ev) := decodeLane q q.accType (elemAt q.afmt (blocks.getD (r / rows) 0) (r % rows * 32 + k))
    ⟨v, false, ev.foldl (· ||| ·) 0⟩
  (s.modCluster x.cluster fun c => c.putAcc q.wide o.t rs false).countNarrow x (rs.map (·.ev))

/-- The string of some codes (R346). -/
def packCodes (bits : Nat) : List Nat → Nat
  | [] => 0
  | c :: cs => c + 2 ^ bits * packCodes bits cs

/-- ACCST is performed. -/
def State.performAccst (s : State) (x : Gang) (o : GangOp) (q : FSlot) : State :=
  let rows := 32 / x.size
  let n := rows * 32 * fmtBits q.afmt / 8
  let c := s.cluster x.cluster
  let rs := tilePositions.map fun (r, k) =>
    let (v, ev) := encodeLane q q.accType (c.acc q.wide o.t r k)
    (v, ev.foldl (· ||| ·) 0)
  let s := (List.range x.size).foldl (fun (s : State) i =>
    s.writeBlock o i 0 (bytesOf (packCodes (fmtBits q.afmt) (((rs.drop (rows * 32 * i)).take (rows * 32)).map (·.1))) n)) s
  let overs (l : List (Nat × Nat)) : Nat := (l.filter fun p => p.2 / 4 % 2 = 1).length
  let bump (k : Nat) (t : Tile) : Tile := { t with ovf := min (t.overflows + k) 0xFFFFFFFF }
  let s := s.modCluster x.cluster fun c =>
    if q.wide then { c with tiles := (c.tiles.modify o.t (bump (overs (rs.take 512)))).modify (o.t + 1) (bump (overs (rs.drop 512))) }
    else { c with tiles := c.tiles.modify o.t (bump (overs rs)) }
  let total := ((q.tiles o.t).map fun t => ((s.cluster x.cluster).tiles.getD t Tile.reset).overflows).sum
  (s.writeBlock o (x.size - 1) n (bytesOf (min total 0xFFFFFFFF) 4)).countNarrow x (rs.map (·.2))

/-- MFREE is performed: the tile reads zero and nobody owns it. -/
def State.performMfree (s : State) (x : Gang) (o : GangOp) : State :=
  let owner := ((s.cluster x.cluster).tiles.getD o.t Tile.reset).owner
  let s := s.modCluster x.cluster fun c => { c with tiles := c.tiles.modify o.t fun t => { t with words := [], ovf := 0, owner := none } }
  match owner.bind s.ctx? with
  | some c => s.dropOwner c x.cluster o.t
  | none => s

/-! ## Arrays (R370, R371) -/

/-- The cycle in which an array's ramp began, if it is not cold; one that ramps down goes on from the cycle of the ramp
that has its rate. -/
def MArray.rampFrom (a : MArray) (now : Nat) : Option Nat :=
  match a.ramp with
  | .cold => none
  | .up c => some c
  | .down c => if now < c + 16 then some (now - 32) else if now < c + 32 then some (now - 16) else none

/-- An MMA has used an array. -/
def MArray.use (a : MArray) (now : Nat) : MArray := { a with ramp := .up ((a.rampFrom now).getD now), lastMma := now }

/-- MBURST on an array. -/
def MArray.burst (a : MArray) (now k : Nat) : MArray :=
  if k = 0 then { a with hold := 0, lastMma := now }
  else
    let c := (a.rampFrom now).getD now
    { a with ramp := .up c, hold := max now (c + 64) + 256 * k }

/-- The cores of a gang's members: of every group that its word lists, whether it has joined or not. -/
def State.gangCores (s : State) (x : Gang) : List Nat := (gangMembers x.word.toNat x.size).filterMap fun p =>
  (s.teams.find? fun u => u.lid = x.lid && u.clusterNo = x.clusterNo && u.rank = p.1).map (·.core)

/-- MBURST (R371). -/
def execMburst (m : Marks) (x : BitVec 4) (s : State) : Out :=
  issue s (.mburst m x) m (fun f => { role := f.g.role.matrices }) fun f =>
    let cores := match s.gangOf f.g with | some y => s.gangCores y | none => [f.g.core]
    .next ((s.modCluster (coreCluster f.g.core) fun c =>
      { c with arrays := cores.foldl (fun as k => as.modify (k % 4) fun a => a.burst (s.clock (coreDie f.g.core)) x.toNat) c.arrays }).goOn f m)

/-- Perform an operation. -/
def State.performGang (s : State) (x : Gang) (o : GangOp) : State :=
  let q := s.opSlot x o
  if o.op = 0xE1 then
    let cores := s.gangCores x
    let s := s.performMma x o q
    s.modCluster x.cluster fun c => { c with arrays := cores.foldl (fun as k => as.modify (k % 4) fun a => a.use (s.clock (x.cluster / 48))) c.arrays }
  else if o.op = 0xE2 then s.performAccld x o q
  else if o.op = 0xE3 then s.performAccst x o q
  else s.performMfree x o

/-- Whether an earlier operation of the gang on one of its tiles is not performed (R372). -/
def State.tileBehind (s : State) (x : Gang) (o : GangOp) : Bool :=
  let ts := (s.opInsn x o).tiles
  x.ops.any fun p => p.k < o.k && (s.opInsn x p).tiles.any ts.contains

/-- Whether an MMA stands behind an earlier one of its gang, which uses the same arrays (R370). -/
def Gang.arraysBehind (x : Gang) (o : GangOp) : Bool := o.op = 0xE1 && x.ops.any fun p => p.k < o.k && p.op = 0xE1

/-- Whether an operation could be carried out now. -/
def State.gangReady (s : State) (x : Gang) (o : GangOp) : Bool := x.eligible o && !s.tileBehind x o && !x.arraysBehind o

/-- The contexts whose operations a cluster's matrix engine could carry out now. -/
def State.gangsWaiting (s : State) (cluster : Nat) : List Nat :=
  (s.gangs.filter fun x => x.cluster = cluster && x.ops.any (s.gangReady x)).map (·.ctx)

/-! ## Gang operations at issue (R366) -/

/-- A gang operation's last checks and its record (R366 steps 2 to 5). `b` is the base of the B registers. One whose number has been discarded
counts as performed, and a member that issues it only then issues nothing to the engine (R382). -/
def gangOpOut (s : State) (f : Frag) (m : Marks) (word : Word) (i : GangInsn) (addr : Nat) (b n : Nat) : Out :=
  match s.gangOf f.g, s.teamOf f.g with
  | some x, some t =>
    let me := x.memberOf f.g.gid
    let k := f.g.gangTl.accepted + 1
    let block := s.checkAccess (s.agentOf f.g) .wr [1, 2] 64 0 addr (i.touchLen x.size me)
    let vec := if i.op = 0xE1 && 2 ≤ i.q.scale then s.scaleVector x t i.q else some []
    let held := x.ops.find? fun o => o.k = k
    let pad : Option Nat := match block with
      | .ok (⟨.pad p _, _⟩ :: _) => some p
      | _ => none
    if i.hasBlock && i.q.wide && i.t % 2 = 1 then trapOut s f m ⟨0x02, 0, 0, f.sl.mask⟩
    else match i.hasBlock, block, vec with
      | true, .error c, _ => trapOut s f m ⟨c, 0, addr, maskOf [f.low]⟩
      | _, _, none => trapOut s f m ⟨0x0A, 0, scratchBase + 32 * i.q.soff, maskOf [f.low]⟩
      | _, _, some scale =>
        if !s.mayOwn x.cluster t.ctx i.tiles then trapOut s f m ⟨0x0D, 0, 0, f.sl.mask⟩
        else if held.any fun o => !(o.op = i.op && o.t = i.t && o.x = i.x) then trapOut s f m ⟨0x0E, 0, 0, f.sl.mask⟩
        else if s.relBusy f.g then .next s
        else
          let s := s.claimTiles x.cluster t.ctx i.tiles
          if f.g.gangOver k then .next ((s.putGroup { f.g with gangTl := f.g.gangTl.accept }).goOn f m) else
          let o : GangOp := (held.getD ⟨k, word, i.op, i.t, i.x, [], [], [], [], []⟩).add me (BitVec.ofNat 64 (if i.hasBlock then addr else 0))
            (if i.hasBlock then pad else none) (f.partBytes b n) scale
          let ops := if held.isSome then put GangOp.k o x.ops else x.ops ++ [o]
          let s := (s.putGang { x with ops := ops }).putGroup { f.g with gangTl := f.g.gangTl.accept }
          let s := s.engineAccept (x.cluster / 48) (matrixEngine x.cluster) x.ctx (x.eligible o) (s.gangsWaiting x.cluster)
          .next (s.goOn f m)
  | _, _ => trapOut s f m ⟨0x02, 0, 0, f.sl.mask⟩

/-- Whether a ninth operation is not ready (R364). -/
def State.gangFull (s : State) : Bool := s.frag?.any fun f => 8 ≤ f.g.gangOpen

/-- The first word of an instruction. -/
def firstWord (i : Instr) : Word := ((encode i).head?).getD 0

/-- The registers of a member's B part. -/
def State.bRegs (s : State) (g : Group) (q : FSlot) : Nat := ((s.gangOf g).map fun x => q.bBytes / x.size / 256).getD 0

/-- MMA and MMAZ. -/
def mmaOut (s : State) (i : Instr) (m : Marks) (t a b : Code) (x : BitVec 3) (zero : Bool) : Out :=
  if s.gangFull then .next s
  else issue s i m (fun f =>
      { role := f.g.role.matrices, srcs := [opnd a 2] ++ (if s.bRegs f.g (s.fslot f.g x.toNat) = 0 then [] else [opnd b (s.bRegs f.g (s.fslot f.g x.toNat))]) }) fun f =>
    let q := s.fslot f.g x.toNat
    gangOpOut s f m (firstWord i) ⟨0xE1, t.toNat, x.toNat + (if zero then 8 else 0), q⟩ (f.src a 2 f.low) b.toNat (s.bRegs f.g q)

/-- MMA (R369). -/
def execMma (m : Marks) (t a b : Code) (x : BitVec 3) (s : State) : Out := mmaOut s (.mma m t a b x) m t a b x false
/-- MMAZ (R369). -/
def execMmaz (m : Marks) (t a b : Code) (x : BitVec 3) (s : State) : Out := mmaOut s (.mmaz m t a b x) m t a b x true

/-- ACCLD and ACCST at issue. -/
def accMoveOut (s : State) (i : Instr) (m : Marks) (t a : Code) (x : BitVec 3) (op : Nat) : Out :=
  if s.gangFull then .next s
  else issue s i m (fun f => { role := f.g.role.matrices, srcs := [opnd a 2] }) fun f =>
    gangOpOut s f m (firstWord i) ⟨op, t.toNat, x.toNat, s.fslot f.g x.toNat⟩ (f.src a 2 f.low) 0 0

/-- ACCLD (R374). -/
def execAccld (m : Marks) (t a : Code) (x : BitVec 3) (s : State) : Out := accMoveOut s (.accld m t a x) m t a x 0xE2
/-- ACCST (R374). -/
def execAccst (m : Marks) (t a : Code) (x : BitVec 3) (s : State) : Out := accMoveOut s (.accst m t a x) m t a x 0xE3

/-- MFREE (R376). -/
def execMfree (m : Marks) (t : Code) (s : State) : Out :=
  if s.gangFull then .next s
  else issue s (.mfree m t) m (fun f => { role := f.g.role.matrices }) fun f =>
    gangOpOut s f m (firstWord (.mfree m t)) ⟨0xE6, t.toNat, 0, fslotOf 0⟩ 0 0 0

/-- ACCRD (R375): two rows of a tile as it stands. -/
def execAccrd (m : Marks) (d t w : Code) (x : BitVec 4) (s : State) : Out :=
  let n := w.toNat + 1
  issue s (.accrd m d t w x) m (fun f => { role := f.g.role.matrices, dst := some (opnd d n), late := true }) fun f =>
    let cl := coreCluster f.g.core
    let ctx := s.ctxIdOf f.g
    let ts := if w.toNat = 1 then [t.toNat, t.toNat + 1] else [t.toNat]
    if !s.mayOwn cl ctx ts then trapOut s f m ⟨0x0D, 0, 0, f.sl.mask⟩
    else
      let s := s.claimTiles cl ctx ts
      let c := s.cluster cl
      .next ((s.resultLater f d n (perLane fun l => c.acc (w.toNat = 1) t.toNat (2 * x.toNat + l / 32) (l % 32)) f.sl.mask 0 .alu).goOn f m)

/-! ## What the engine and its arrays do -/

/-- GANG_OP_COMPLETE: an operation that all members have issued is carried out. -/
def execGangOpComplete (gang op : Nat) (s : State) : Out :=
  match s.gang? gang with
  | some x => match x.ops.find? fun o => o.k = op with
    | some o =>
      if !s.gangReady x o || !s.engineTurn (x.cluster / 48) (matrixEngine x.cluster) x.ctx (s.gangsWaiting x.cluster) then .next s
      else
        let s := s.engineServe (x.cluster / 48) (matrixEngine x.cluster) x.ctx (s.gangs.any fun y => y.cluster = x.cluster && y.ctx = x.ctx &&
          y.ops.any fun p => !(y.gid = gang && p.k = op))
        let s := ((s.performGang x o).gangDone x op).freeGang gang
        .next (s.engineChoose (x.cluster / 48) (matrixEngine x.cluster) (s.gangsWaiting x.cluster))
    | none => .next s
  | none => .next s

/-- ARRAY_IDLE_RAMPDOWN: a warm array that has performed no MMA for 256 cycles and is not held ramps down. -/
def execArrayIdleRampdown (cluster array : Nat) (s : State) : Out :=
  let now := s.clock (cluster / 48)
  match (s.cluster cluster).arrays[array]? with
  | some a => match a.ramp with
    | .up c =>
      if c + 64 ≤ now && a.lastMma + 256 ≤ now && a.hold ≤ now then
        .next (s.modCluster cluster fun x => { x with arrays := x.arrays.modify array fun b => { b with ramp := .down now, hold := 0 } })
      else .next s
    | _ => .next s
  | none => .next s

/-- MBURST_HOLD_EXPIRY. -/
def execMburstHoldExpiry (cluster array : Nat) (s : State) : Out :=
  match (s.cluster cluster).arrays[array]? with
  | some a =>
    if a.hold ≠ 0 && a.hold ≤ s.clock (cluster / 48) then
      .next (s.modCluster cluster fun x => { x with arrays := x.arrays.modify array fun b => { b with hold := 0 } })
    else .next s
  | none => .next s

end Sys2Proof.Machine
end

