-- ==== Sys2Proof/Machine/Views.lean ====
section
/-! DEFINITION. Views and tiles of a frame (R388, R390 to R392, R411 to R413, R418): knots, the warp of a strip, live
samples and tiles, owner cores, tile areas, handles, display tiles. -/

namespace Sys2Proof.Machine

/-! ## The warp of an axis (R389, R390) -/

/-- Position U and step H of knot `j`. -/
def knotU (ks : List (Nat × Nat)) (j : Nat) : Nat := (ks.getD j (0, 0)).1
def knotH (ks : List (Nat × Nat)) (j : Nat) : Nat := (ks.getD j (0, 0)).2

/-- The span L of an axis up to knot `j`: Σ (U_{i+1} − U_i) × H_i. -/
def knotSpan (ks : List (Nat × Nat)) : Nat → Nat
  | 0 => 0
  | j + 1 => knotSpan ks j + (knotU ks (j + 1) - knotU ks j) * knotH ks j

/-- An axis of a strip's warp: its knots, where knot 0 lies in display space, the display extent E. -/
structure Axis where
  knots : List (Nat × Nat)
  start : Int
  extent : Nat
  deriving DecidableEq, Repr

/-- The axis that a gaze `g` and a fovea offset `c` place: A = min(max(g − C, E − L), 0). -/
def Axis.at (ks : List (Nat × Nat)) (g c : Int) (extent : Nat) : Axis :=
  ⟨ks, min (max (g - c) ((extent : Int) - knotSpan ks 7)) 0, extent⟩

namespace Axis

/-- The segment of sample `i`. -/
def seg (x : Axis) (i : Nat) : Nat := ((List.range 7).find? fun j => knotU x.knots j ≤ i && i < knotU x.knots (j + 1)).getD 6
/-- B_j: where knot `j` lies. -/
def knotAt (x : Axis) (j : Nat) : Int := x.start + knotSpan x.knots j
/-- The step at sample `i`. -/
def step (x : Axis) (i : Nat) : Nat := knotH x.knots (x.seg i)
/-- Where sample `i`'s cell begins. -/
def cell (x : Axis) (i : Nat) : Int := x.knotAt (x.seg i) + ((i - knotU x.knots (x.seg i)) * x.step i : Nat)
/-- The display position of sample `i`. -/
def pos (x : Axis) (i : Nat) : Int := x.cell i + (x.step i / 2 : Nat)
/-- The display extent of tile `t` of the axis (R391). -/
def tileLo (x : Axis) (t : Nat) : Int := x.cell (16 * t)
def tileHi (x : Axis) (t : Nat) : Int := x.tileLo t + (16 * x.step (16 * t) : Nat)

end Axis

/-! ## Strips of a view -/

/-- The class code of RT contexts. -/
def classRt : Nat := 0

namespace View

def tiles (w : View) : Nat := w.tx * w.ty
/-- Whether the view shades (1) or writes visibility (0). -/
def shade (w : View) : Bool := w.flags % 2 = 1
def cullBack (w : View) : Bool := w.flags / 2 % 2 = 1
def frontCw (w : View) : Bool := w.flags / 4 % 2 = 1
/-- The first pixel row of strip `k` and the one behind its last (R390). -/
def row (w : View) (k : Nat) : Nat := (w.strips[k]?.map (·.row0)).getD w.hd
def deadlineOf (w : View) (k : Nat) : Nat := (w.strips[k]?.map (·.deadline)).getD 0

end View

/-- A strip of a view with its warp: what every rule about a (view, strip) uses. -/
structure Warp where
  x : Axis
  y : Axis
  /-- display Y that the strip holds, from and up to -/
  y0 : Nat
  y1 : Nat
  tx : Nat
  deriving DecidableEq, Repr

/-- The warp of strip `k` from the gaze latched for it. -/
def View.warp (w : View) (k : Nat) (l : Latch) : Warp :=
  { x := Axis.at w.xk (signedOf 32 l.gx.toNat) w.cx (256 * w.wd), y := Axis.at w.yk (signedOf 32 l.gy.toNat) w.cy (256 * w.hd),
    y0 := 256 * w.row k, y1 := 256 * w.row (k + 1), tx := w.tx }

namespace Warp

/-- Whether a sample's column or row is live (R390). -/
def liveX (p : Warp) (u : Nat) : Bool := 0 ≤ p.x.pos u && p.x.pos u < p.x.extent
def liveY (p : Warp) (v : Nat) : Bool := (p.y0 : Int) ≤ p.y.pos v && p.y.pos v < p.y1
def live (p : Warp) (u v : Nat) : Bool := p.liveX u && p.liveY v

/-- Column and row of tile `t`. -/
def col (p : Warp) (t : Nat) : Nat := t % p.tx
def rowOf (p : Warp) (t : Nat) : Nat := t / p.tx

/-- The samples of a tile in the order of their index i = 16(v mod 16) + (u mod 16) (R412). -/
def samples (p : Warp) (t : Nat) : List (Nat × Nat) :=
  (List.range 256).map fun i => (16 * p.col t + i % 16, 16 * p.rowOf t + i / 16)

/-- The live samples of a tile. -/
def liveSamples (p : Warp) (t : Nat) : List (Nat × Nat) := (p.samples t).filter fun q => p.live q.1 q.2

/-- Whether a tile is live: at least one of its samples is (R391). -/
def tileLive (p : Warp) (t : Nat) : Bool :=
  (List.range 16).any (fun i => p.liveX (16 * p.col t + i)) && (List.range 16).any (fun i => p.liveY (16 * p.rowOf t + i))

/-- The steps at a tile. -/
def stepX (p : Warp) (t : Nat) : Nat := p.x.step (16 * p.col t)
def stepY (p : Warp) (t : Nat) : Nat := p.y.step (16 * p.rowOf t)

/-- The pixels whose centres lie in an extent, within bounds: the first, and how many (R418). -/
def pixels (lo hi : Int) (first last : Nat) : Nat × Nat :=
  let a := max ((lo + 127) / 256) first
  let b := min ((hi + 127) / 256) last
  if a < b then (a.toNat, (b - a).toNat) else (a.toNat, 0)

/-- The display tile: p0, q0, PW, PH (R418). -/
def display (p : Warp) (t : Nat) : Nat × Nat × Nat × Nat :=
  let (p0, pw) := pixels (p.x.tileLo (p.col t)) (p.x.tileHi (p.col t)) 0 (p.x.extent / 256)
  let (q0, ph) := pixels (p.y.tileLo (p.rowOf t)) (p.y.tileHi (p.rowOf t)) (p.y0 / 256) (p.y1 / 256)
  (p0, q0, pw, ph)

end Warp

/-! ## Latches (R392) -/

/-- The warp of a (view, strip) once it has latched. -/
def State.warpOf (s : State) (fr : Frame) (v k : Nat) : Option Warp :=
  match fr.views[v]?, s.latchOf fr v k with
  | some w, some l => if k < w.nstrips then some (w.warp k l) else none
  | _, _ => none

/-- STRIP_LATCH: at START_k of its counter a view latches its pending gaze, or view 0's, and the pending CLS_AREA. -/
def execStripLatch (frame view strip : Nat) (s : State) : Out :=
  match s.frame? frame with
  | none => .next s
  | some fr => .next (s.latchStrip fr view strip)

/-! ## Owners and tile areas (R391, R411, R412) -/

/-- The number, in the core set, of a tile's owner core. -/
def Frame.ownerNo (fr : Frame) (v t : Nat) : Nat := (t + 7 * v) % fr.cores.length
/-- A tile's owner core. -/
def Frame.owner (fr : Frame) (v t : Nat) : Nat := fr.cores.getD (fr.ownerNo v t) 0

/-- How many of the first `n` tiles of view `v` core number `k` of `cores` owns: t ≡ k − 7v modulo the cores. -/
def ownedBelow (cores k v n : Nat) : Nat := (n + cores - 1 - (k + 7 * cores * v - 7 * v) % cores) / cores

/-- The number of areas of a tile's core that come before it, in ascending order of view and tile. -/
def Frame.areaNo (fr : Frame) (v t : Nat) : Nat :=
  let k := fr.ownerNo v t
  ((List.range v).map fun w => ownedBelow fr.cores.length k w ((fr.views[w]?.map View.tiles).getD 0)).sum +
    ownedBelow fr.cores.length k v t

/-- A tile's area: its record, or one that has not been opened. -/
def Frame.area (fr : Frame) (v t : Nat) : Area :=
  (fr.areas.find? fun a => a.view = v && a.tile = t).getD ⟨v, t, fr.owner v t, 4096 * fr.areaNo v t, none, [], []⟩

/-- Store an area's record. -/
def Frame.putArea (fr : Frame) (a : Area) : Frame :=
  let same (b : Area) : Bool := b.view = a.view && b.tile = a.tile
  { fr with areas := if fr.areas.any same then mapWhere same (fun _ => a) fr.areas else fr.areas ++ [a] }

/-- The frame pool of a core (R409). -/
def Frame.pool (fr : Frame) (core : Nat) : Option Nat := (fr.pads.find? fun p => p.1 = core).map (·.2)

/-- Whether a strip is over for an area: its TRET has returned and the tile is handed over (R411). -/
def Area.over (a : Area) (k : Nat) : Bool := a.retired.contains k && a.handed.contains k

/-- Offsets in a tile area (R412). -/
def visAt (i : Nat) : Nat := 8 * i
def colAt (i : Nat) : Nat := 0x800 + 4 * i
def handleAt : Nat := 0xC00
def stateAt : Nat := 0xC04
def coveredAt : Nat := 0xC08
def liveAt : Nat := 0xC0C

/-- A field of a tile area in its pool. -/
def State.areaField (s : State) (fr : Frame) (a : Area) (off n : Nat) : Nat :=
  match fr.pool a.core with
  | some pid => ofBytes (s.padBytes pid (a.off + off) n)
  | none => 0

/-- Write a field of a tile area. -/
def State.setAreaField (s : State) (fr : Frame) (a : Area) (off n v : Nat) : State :=
  match fr.pool a.core with
  | some pid => s.writePad pid (a.off + off) (bytesOf v n)
  | none => s

/-- The index of a sample in its tile. -/
def sampleIx (u v : Nat) : Nat := 16 * (v % 16) + u % 16

/-! ## Handles (R413) -/

/-- A handle's view, strip and tile. -/
structure Handle where
  view : Nat
  strip : Nat
  tile : Nat
  deriving DecidableEq, Repr

/-- The handle that a word names, if it is valid. -/
def Frame.handle (fr : Frame) (w : Nat) : Option Handle :=
  let h : Handle := ⟨w % 16, w / 32 % 8, w / 256 % 2 ^ 24⟩
  match fr.views[h.view]? with
  | some x => if w / 16 % 2 = 0 && h.strip < x.nstrips && h.tile < x.tiles then some h else none
  | none => none

/-- The word of a handle. -/
def Handle.word (h : Handle) : Nat := h.tile * 256 + h.strip * 32 + h.view

/-- Whether a sample lies in a handle's tile. -/
def Frame.inTile (fr : Frame) (h : Handle) (u v : Nat) : Bool :=
  let tx := (fr.views[h.view]?.map (·.tx)).getD 1
  u / 16 = h.tile % tx && v / 16 = h.tile / tx

/-! ## Opening an area (R411) -/

/-- The strip that an area opens for next: the first that is not over and not dead; nothing while one on the way to
it has not latched. -/
def State.nextStrip (s : State) (fr : Frame) (a : Area) : List Nat → Option Nat
  | [] => none
  | k :: ks =>
    if a.over k then s.nextStrip fr a ks
    else match s.warpOf fr a.view k with
      | none => none
      | some p => if p.tileLive a.tile then some k else s.nextStrip fr a ks

/-- TILE_AREA_OPEN: the area reads 0 but for HANDLE and LIVE. -/
def execTileAreaOpen (frame view tile : Nat) (s : State) : Out :=
  match s.frame? frame with
  | none => .next s
  | some fr => match fr.views[view]? with
    | none => .next s
    | some w =>
      let a := fr.area view tile
      if w.tiles ≤ tile then .next s
      else match s.nextStrip fr a (List.range w.nstrips), fr.pool a.core with
      | some k, some pid =>
        if a.strip = some k then .next s
        else match s.warpOf fr view k with
          | none => .next s
          | some p =>
            let s := s.writePad pid a.off (List.replicate 4096 0)
            let s := s.writePad pid (a.off + handleAt) (bytesOf (Handle.word ⟨view, k, tile⟩) 4)
            let s := s.writePad pid (a.off + liveAt) (bytesOf (p.liveSamples tile).length 4)
            .next (s.putFrame (fr.putArea { a with strip := some k }))
      | _, _ => .next s

/-- A tile is handed over for a strip (R428, R429): STATE ← 2 in an area open for it. A strip that the deadline rule (`late`) hands
over before its area has opened for it counts as retired too, so the area never opens for it (R411); one whose image has arrived
so early still opens. -/
def State.handOver (s : State) (fid v t k : Nat) (late : Bool) : State :=
  match s.frame? fid with
  | none => s
  | some fr =>
    let a := fr.area v t
    let handed := a.handed ++ [k]
    if a.strip = some k then (s.setAreaField fr a stateAt 4 2).putFrame (fr.putArea { a with handed := handed })
    else s.putFrame (fr.putArea { a with handed := handed, retired := if late then a.retired ++ [k] else a.retired })

end Sys2Proof.Machine
end

