-- ==== Sys2Proof/Machine/Raster.lean ====
section
/-! DEFINITION. The raster engine (R393 to R403): EMITV and EMITP, projection, clipping and snapping, coverage and
depth, the classifier, the small path, the fixed rasteriser, fragment batches. -/

namespace Sys2Proof.Machine

/-! ## EMITV and EMITP (R393, R394, R395) -/

/-- The frame and meshlet that a group serves. -/
def Group.meshlet? (g : Group) : Option (Nat × Nat) :=
  match g.part with
  | .meshlet f m => some (f, m)
  | _ => none

/-- A staging slot that holds nothing. -/
def VSlot.empty : VSlot := ⟨false, [], []⟩

/-- EMITV: each lane writes its own slot. From the first one on the group does not stop, not at that one's own safe point either (R393). -/
def execEmitv (m : Marks) (a b : Code) (x : BitVec 4) (s : State) : Out :=
  let n := 4 * x.toNat
  issue s (.emitv m a b x) m
    (fun f => { role := f.g.role.vectors, legal := f.sl.lit.isNone && f.g.meshlet?.isSome, srcs := [opnd a 4],
                srcB := if n = 0 then none else some (opnd b n) }) fun f =>
    let slot (l : Nat) : VSlot := ⟨true, wordsOf (f.src a 4 l) 4, wordsOf (if n = 0 then 0 else f.src b n l) 16⟩
    let old := if f.g.vslots = [] then List.replicate W VSlot.empty else f.g.vslots
    let g := { f.g with vslots := old.mapIdx fun l v => if f.sl.mask.getLsbD l then slot l else v }
    .next ((s.putGroup g).goOn { f with g := g } m)

/-- A lane's EMITP: a slot that is not emitted is an error, a mask of 0 emits nothing, and an earlier primitive of
the index is replaced. -/
def Group.emitPrim (g : Group) (a b nviews : Nat) : Group :=
  let v (i : Nat) : VSlot := g.vslots.getD (a / 2 ^ (8 * i) % 64) VSlot.empty
  let mask := b % 2 ^ nviews
  if !((v 0).emitted && (v 1).emitted && (v 2).emitted) then { g with emitErr := g.emitErr + 1 }
  else if mask = 0 then g
  else
    let p := a / 2 ^ 24 % 128
    { g with eprims := g.eprims.filter (fun e => e.p ≠ p) ++ [⟨p, mask, [v 0, v 1, v 2]⟩] }

/-- Whether an EMITP's operands hold a reserved bit. -/
def emitReserved (a b : Nat) : Bool := (BitVec.ofNat 32 a &&& 0x80C0C0C0#32) ≠ 0 || 2 ^ 16 ≤ b

/-- EMITP. -/
def execEmitp (m : Marks) (a b : Code) (s : State) : Out :=
  issue s (.emitp m a b) m
    (fun f => { role := f.g.role.vectors, legal := f.g.meshlet?.isSome, srcs := [opnd a 1], srcB := some (opnd b 1) }) fun f =>
    let bad := (lanesOf f.sl.mask).filter fun l => emitReserved (f.src a 1 l) (f.srcB b 1 l)
    if bad ≠ [] then trapOut s f m ⟨0x02, 0, 0, maskOf bad⟩
    else
      let nviews := ((s.frameOf f.g).map fun fr => fr.views.length).getD 0
      let g := (lanesOf f.sl.mask).foldl (fun (g : Group) l => g.emitPrim (f.src a 1 l) (f.srcB b 1 l) nviews) f.g
      .next ((s.putGroup g).goOn f m)

/-! ## Projection (R397, step 1) -/

/-- A vertex in clip space: c_x, c_y, c_z, c_w as F32 codes. -/
abbrev Clip := List Word

/-- A component of a clip vertex as an exact number. -/
def Clip.at (c : Clip) (i : Nat) : Frac := (decodeF f32 (c.getD i 0).toNat).frac
def Clip.x (c : Clip) : Frac := Clip.at c 0
def Clip.y (c : Clip) : Frac := Clip.at c 1
def Clip.z (c : Clip) : Frac := Clip.at c 2
def Clip.w (c : Clip) : Frac := Clip.at c 3

/-- The exact dot product of two rows of F32 codes, rounded once with RNE. -/
def dotF32 (xs ys : List Word) : Word :=
  BitVec.ofNat 32 ((fslotOf 0).dot ((xs.zip ys).map fun p => (decodeF f32 p.1.toNat).toN.mul (decodeF f32 p.2.toNat).toN)).val

/-- M × pos. -/
def project (m pos : List Word) : Clip := (List.range 4).map fun i => dotF32 ((m.drop (4 * i)).take 4) pos

/-- Whether a code is infinite or NaN. -/
def notFinite (c : Word) : Bool := 0x7F800000 ≤ c.toNat % 2 ^ 31

/-! ## Culling and clipping (R397, steps 2 to 4) -/

/-- The distance of a vertex from one of the planes, not negative inside: (component, sign, factor of c_w). -/
def planeDist (p : Nat × Int × Int) (c : Clip) : Frac := ((Frac.ofInt p.2.1).mul (Clip.at c p.1)).add ((Frac.ofInt p.2.2).mul (Clip.w c))

/-- The planes of step 2, and of step 3 in its order. -/
def cullPlanes : List (Nat × Int × Int) := [(0, 1, 1), (0, -1, 1), (1, 1, 1), (1, -1, 1), (2, 1, 0), (2, -1, 1)]
def clipPlanes : List (Nat × Int × Int) := [(2, 1, 0), (2, -1, 1), (0, 1, 16), (0, -1, 16), (1, 1, 16), (1, -1, 16)]

/-- Whether a vertex lies outside a plane. -/
def outside (p : Nat × Int × Int) (c : Clip) : Bool := (planeDist p c).num < 0

/-- Round an exact number to F32 with RNE. -/
def toF32 (x : Frac) : Word := BitVec.ofNat 32 (roundZ f32 0 false x).1

/-- The vertex that a plane cuts out of the edge (a, b). -/
def cutEdge (p : Nat × Int × Int) (a b : Clip) : Clip :=
  let da := planeDist p a
  let t := (decodeF f32 (toF32 (da.div (da.sub (planeDist p b)))).toNat).frac
  (List.range 4).map fun i => toF32 ((Clip.at a i).add (t.mul ((Clip.at b i).sub (Clip.at a i))))

/-- A polygon clipped against a plane: each vertex inside stays, and each edge that crosses the plane is cut. -/
def clipPlane (p : Nat × Int × Int) (cs : List Clip) : List Clip :=
  (cs.zip (cs.rotateLeft 1)).flatMap fun e =>
    (if outside p e.1 then [] else [e.1]) ++ (if outside p e.1 = outside p e.2 then [] else [cutEdge p e.1 e.2])

def clipAll (cs : List Clip) : List Clip := clipPlanes.foldl (fun cs p => clipPlane p cs) cs

/-- The fan of a polygon. -/
def fan (cs : List Clip) : List (List Clip) :=
  (List.range (cs.length - 2)).map fun i => [cs.getD 0 [], cs.getD (i + 1) [], cs.getD (i + 2) []]

/-! ## Snapping and orientation (R397, steps 5 and 6) -/

/-- A depth rounded to F32 and clamped to [+0, 1.0]. -/
def clampDepth (x : Frac) : Word := if x.num ≤ 0 then 0 else if (Frac.ofInt 1).le x then 0x3F800000 else toF32 x

/-- X, Y and z of a vertex whose c_w is not 0. -/
def snapX (wd : Nat) (c : Clip) : Int := roundInt 0 ((Frac.ofInt (128 * wd)).mul (((Clip.x c).div (Clip.w c)).add (Frac.ofInt 1)))
def snapY (hd : Nat) (c : Clip) : Int := roundInt 0 ((Frac.ofInt (128 * hd)).mul ((Frac.ofInt 1).sub ((Clip.y c).div (Clip.w c))))
def snapZ (c : Clip) : Word := clampDepth ((Clip.z c).div (Clip.w c))

/-- D of three snapped points. -/
def orient (xs ys : List Int) : Int :=
  let x (i : Nat) : Int := xs.getD i 0
  let y (i : Nat) : Int := ys.getD i 0
  (x 1 - x 0) * (y 2 - y 0) - (y 1 - y 0) * (x 2 - x 0)

/-- A fan triangle snapped, unless it is dropped. -/
def snapTri (w : View) (pid view i : Nat) (orig t : List Clip) : Option Tri :=
  if t.any fun c => (Clip.w c).isZero then none
  else
    let xs := t.map (snapX w.wd)
    let ys := t.map (snapY w.hd)
    if orient xs ys = 0 then none
    else some ⟨(pid * 16 + view) * 16 + i, pid, view, i, xs, ys, t.map snapZ, t.map fun c => c.getD 3 0, orient xs ys, orig, []⟩

/-- Whether a triangle faces front. -/
def Tri.front (w : View) (t : Tri) : Bool := if w.frontCw then 0 < t.d else t.d < 0

/-- What a primitive becomes in a view. -/
inductive Fate where
  | dropped
  | culled
  | tris (ts : List Tri)
  deriving DecidableEq, Repr

/-- Projection, culling, clipping, fanning, snapping and orientation of a primitive in a view (R397). -/
def Prim.inView (p : Prim) (view : Nat) (w : View) : Fate :=
  let cs := p.verts.map fun v => project w.m v.pos
  if p.verts.any (fun v => v.pos.any notFinite) || cs.any (fun c => c.any notFinite) then .dropped
  else if cullPlanes.any fun q => cs.all (outside q) then .culled
  else
    let ts := ((fan (clipAll cs)).mapIdx fun i t => snapTri w p.pid view i cs t).filterMap id
    match ts with
    | [] => .culled
    | t :: _ => if w.cullBack && !t.front w then .culled else .tris ts

/-! ## The amplifier (R396, R397, R407) -/

/-- The agent for the raster engine's accesses. -/
def State.rasterAgent (s : State) (fr : Frame) : Agent := { s.taskAgent fr.ctx (fr.cores.getD 0 0) with core := 1000 }

/-- The rasteriser of a frame waits on a fault, behind its walk. -/
def State.rasterFault (s : State) (fr : Frame) (a : Nat) : State :=
  (s.tryVa (s.rasterAgent fr) .wr a).putFrame { fr with fault := some a, repaired := false }

/-- The bytes of a primitive record. -/
def Prim.bytes (p : Prim) : List Byte :=
  bytesOf p.pid 4 ++ bytesOf p.mask 2 ++ bytesOf 0 58 ++
    p.verts.flatMap fun v => (List.range 16).flatMap fun i => bytesOf (v.attr.getD i 0).toNat 4

/-- Count something in a view's counters. -/
def Frame.count (fr : Frame) (v : Nat) (f : ViewStats → ViewStats) : Frame := { fr with counters := fr.counters.modify v f }

/-- The views of a mask that the frame has. -/
def Frame.viewsOf (fr : Frame) (mask : Nat) : List Nat := (List.range fr.views.length).filter fun v => mask / 2 ^ v % 2 = 1

/-- A primitive projected into one of its views. -/
def Frame.amplify (fr : Frame) (p : Prim) (v : Nat) : Frame :=
  match fr.views[v]? with
  | none => fr
  | some w => match p.inView v w with
    | .dropped => { fr with errPrim := fr.errPrim + 1 }
    | .culled => fr.count v fun c => { c with culled := c.culled + 1 }
    | .tris ts => { fr.count v fun c => { c with rasterised := c.rasterised + 1 } with tris := fr.tris ++ ts }

/-- A primitive's EMITTED counts, and its mark as projected, with the address of its record if it has one. -/
def Frame.projected (fr : Frame) (p : Prim) (rec_ : Option Nat) : Frame :=
  let fr := { fr with prims := put Prim.pid { p with projected := true, record := rec_ } fr.prims }
  (fr.viewsOf p.mask).foldl (fun (fr : Frame) v => fr.count v fun c => { c with emitted := c.emitted + 1 }) fr

/-- Primitive records in use. -/
def Frame.recordsUsed (fr : Frame) : Nat := (fr.prims.filter fun q => q.record.isSome).length

/-- Whether the run of a primitive's meshlet may still be undone: its team is REPLAYABLE and has not exited (R393, R407). -/
def State.meshletOpen (s : State) (fr : Frame) (p : Prim) : Bool :=
  (s.launch? fr.lid).any fun l => l.kd.gflags / 2 % 2 = 1 && s.teams.any fun t => t.lid = l.lid && t.linear = p.pid / 128 / l.kd.ngroups && t.place ≠ .gone

/-- AMPLIFIER_PROJECT: the record is written and the primitive projected; one that finds no free record is dropped.
The primitives of a meshlet go in ascending order; the amplifier takes none whose team may still be killed and run again, nor while a queue
that is full holds it (R403). -/
def execAmplifierProject (frame prim : Nat) (s : State) : Out :=
  match s.frame? frame with
  | none => .next s
  | some fr => match fr.prims.find? fun p => p.pid = prim with
    | none => .next s
    | some p =>
      if p.projected || fr.fault.isSome || fr.queued ≠ [] || s.meshletOpen fr p || fr.prims.any (fun q => q.pid / 128 = p.pid / 128 && q.pid < p.pid && !q.projected) then .next s
      else if fr.primSlots ≤ fr.recordsUsed then
        let fr := fr.projected p none
        .next (s.putFrame { fr with errPrim := fr.errPrim + 1 })
      else
        let a := fr.primRing + 256 * fr.recordsUsed
        match s.pokeVa (s.rasterAgent fr) a p.bytes with
        | .error e => .next (s.rasterFault fr e.2)
        | .ok s => .next (s.putFrame ((fr.viewsOf p.mask).foldl (fun (fr : Frame) v => fr.amplify p v) (fr.projected p (some a))))

/-! ## Coverage (R398) -/

namespace Tri

/-- The snapped vertices in the order in which D is positive. -/
def verts (t : Tri) : List (Int × Int) :=
  let v (i : Nat) : Int × Int := (t.xs.getD i 0, t.ys.getD i 0)
  if t.d < 0 then [v 0, v 2, v 1] else [v 0, v 1, v 2]

/-- Whether a triangle covers a display position. -/
def covers (t : Tri) (px py : Int) : Bool :=
  (t.verts.zip (t.verts.rotateLeft 1)).all fun e =>
    let a := e.1
    let b := e.2
    let f := (b.1 - a.1) * (py - a.2) - (b.2 - a.2) * (px - a.1)
    0 < f || (f = 0 && (b.2 < a.2 || (b.2 = a.2 && a.1 < b.1)))

/-- The display bounding box. -/
def minX (t : Tri) : Int := t.xs.foldl min (t.xs.getD 0 0)
def maxX (t : Tri) : Int := t.xs.foldl max (t.xs.getD 0 0)
def minY (t : Tri) : Int := t.ys.foldl min (t.ys.getD 0 0)
def maxY (t : Tri) : Int := t.ys.foldl max (t.ys.getD 0 0)

/-- Whether the bounding box meets a tile's display extent, so that the triangle can reach it. -/
def reaches (t : Tri) (p : Warp) (tile : Nat) : Bool :=
  p.x.tileLo (p.col tile) ≤ t.maxX && t.minX < p.x.tileHi (p.col tile) &&
  p.y.tileLo (p.rowOf tile) ≤ t.maxY && t.minY < p.y.tileHi (p.rowOf tile)

/-- Whether the bounding box lies inside a tile's display extent. -/
def inside (t : Tri) (p : Warp) (tile : Nat) : Bool :=
  p.x.tileLo (p.col tile) ≤ t.minX && t.maxX < p.x.tileHi (p.col tile) &&
  p.y.tileLo (p.rowOf tile) ≤ t.minY && t.maxY < p.y.tileHi (p.rowOf tile)

/-- Whether the triangle takes the small path to a tile (R400): 8 × |D| < H_x × H_y × AREA. -/
def small (t : Tri) (p : Warp) (tile area : Nat) : Bool :=
  t.inside p tile && 8 * t.d.natAbs < p.stepX tile * p.stepY tile * area

/-- The live samples of a tile that the triangle covers. -/
def coveredIn (t : Tri) (p : Warp) (tile : Nat) : List (Nat × Nat) :=
  (p.liveSamples tile).filter fun q => t.covers (p.x.pos q.1) (p.y.pos q.2)

end Tri

/-! ## Weights and depth (R399) -/

/-- The weights of a sample on the original vertices, as codes, and the depth. -/
structure Weights where
  l1 : Word
  l2 : Word
  z : Word
  deriving DecidableEq, Repr

/-- The key of a sample's free values (log 2): primitive, column, row. -/
def sampleKey (pid u v : Nat) : Nat := 2 ^ 64 + ((pid * 2 ^ 16 + u) * 2 ^ 16 + v) * 4

/-- The values of R399 for a display position. The weights are in proportion to the cross product of the vertices'
distances from the position. Where (c_x, c_y, c_w) are dependent they are 0 and so is the depth; where no weights of sum 1
exist (a position whose ray is parallel to the plane), the values are free. -/
def Tri.weights (t : Tri) (w : View) (px py : Int) (key : Nat) : Weights :=
  let nx := (Frac.mk px (128 * w.wd)).sub (Frac.ofInt 1)
  let ny := (Frac.ofInt 1).sub (Frac.mk py (128 * w.hd))
  let c (i : Nat) : Clip := t.clip.getD i []
  let ax (i : Nat) : Frac := (Clip.x (c i)).sub (nx.mul (Clip.w (c i)))
  let ay (i : Nat) : Frac := (Clip.y (c i)).sub (ny.mul (Clip.w (c i)))
  let cr (i j : Nat) : Frac := ((ax i).mul (ay j)).sub ((ax j).mul (ay i))
  let r0 := cr 1 2
  let r1 := cr 2 0
  let r2 := cr 0 1
  let total := (r0.add r1).add r2
  let along (f : Clip → Frac) : Frac := ((r0.mul (f (c 0))).add (r1.mul (f (c 1)))).add (r2.mul (f (c 2)))
  let den := along Clip.w
  if den.isZero then ⟨0, 0, 0⟩
  else if total.isZero then ⟨Config.freeBits 32 key, Config.freeBits 32 (key + 1), Config.freeBits 32 (key + 2)⟩
  else ⟨toF32 (r1.div total), toF32 (r2.div total), clampDepth ((along Clip.z).div den)⟩

/-- The weights of a sample of a warp. -/
def Tri.sampleWeights (t : Tri) (w : View) (p : Warp) (u v : Nat) : Weights :=
  t.weights w (p.x.pos u) (p.y.pos v) (sampleKey t.pid u v)

/-! ## Visibility (R402) -/

/-- A sample's visibility word takes the larger of itself and a payload. -/
def State.visMax (s : State) (fr : Frame) (a : Area) (i payload : Nat) : State :=
  s.setAreaField fr a (visAt i) 8 (max (s.areaField fr a (visAt i) 8) payload)

/-- The fixed rasteriser in VIS mode. -/
def State.writeVis (s : State) (fr : Frame) (a : Area) (w : View) (p : Warp) (t : Tri) : State :=
  (t.coveredIn p a.tile).foldl (fun (s : State) q =>
    s.visMax fr a (sampleIx q.1 q.2) ((t.sampleWeights w p q.1 q.2).z.toNat * 2 ^ 32 + t.pid)) s

/-! ## Fragment batches (R400, R401) -/

/-- The samples of a quad, by quad lane. -/
def quadSamples (q : Nat × Nat) : List (Nat × Nat) := [(q.1, q.2), (q.1 + 1, q.2), (q.1, q.2 + 1), (q.1 + 1, q.2 + 1)]

/-- The quads of a tile that hold a covered sample, in ascending order of v and then u. -/
def quadsOf (p : Warp) (tile : Nat) (cov : List (Nat × Nat)) : List (Nat × Nat) :=
  ((List.range 64).map fun i => (16 * p.col tile + 2 * (i % 8), 16 * p.rowOf tile + 2 * (i / 8))).filter fun q =>
    (quadSamples q).any cov.contains

/-- A list cut into runs of sixteen. -/
def sixteens {α : Type} : Nat → List α → List (List α)
  | 0, _ => []
  | _, [] => []
  | n + 1, l => l.take 16 :: sixteens n (l.drop 16)

/-- The samples of a batch, by lane. -/
def batchSamples (qs : List (Nat × Nat)) : List (Nat × Nat) := qs.flatMap quadSamples

/-- The launch of a fragment batch: one team on the tile's owner core, in the frame's context and priority. -/
def Frame.fragmentLaunch (fr : Frame) (lid bid core prio : Nat) : Launch :=
  { lid := lid, kind := .fragment fr.fid bid, ctx := fr.ctx, qid := none, die := fr.die, kdAddr := fr.fkAddr, kd := fr.fk,
    args := fr.fargs, gx := 1, gy := 1, gz := 1, tlimit := 0, clsize := 0, lflags := 0, lsize := 0, lslots := 0, lbase := 0,
    signal := 0, crec := 0, acq := 0, rel := 0, prio := prio, next := 0, exited := 0, replayed := false, killed := false,
    cores := [core], held := none, repaired := false }

/-- Launch a batch of quads. -/
def State.launchBatch (s : State) (fid : Nat) (a : Area) (k : Nat) (t : Tri) (cov qs : List (Nat × Nat)) : State :=
  let (bid, s) := s.fresh
  let (lid, s) := s.fresh
  match s.frame? fid with
  | none => s
  | some fr =>
    let mask := maskOf ((List.range (4 * qs.length)).filter fun l => cov.contains ((batchSamples qs).getD l (0, 0)))
    let b : Batch := ⟨bid, t.trid, t.pid, t.view, k, a.tile, qs, mask, false⟩
    let prio := ((s.launch? fr.lid).map (·.prio)).getD 0
    (s.putFrame { fr with batches := fr.batches ++ [b] }).addLaunch (fr.fragmentLaunch lid bid a.core prio)

/-- The fixed rasteriser in SHADE mode. -/
def State.launchBatches (s : State) (fid : Nat) (a : Area) (k : Nat) (p : Warp) (t : Tri) : State :=
  let cov := t.coveredIn p a.tile
  (sixteens 4 (quadsOf p a.tile cov)).foldl (fun (s : State) qs => s.launchBatch fid a k t cov qs) s

/-! ## The small path (R403) -/

/-- The agent and queue of an enqueue on core number `k`'s small-triangle queue: nothing while it is full or its slot's
stamp is not there; else whether the descriptor was good, or the address that faults. -/
def State.enqueueSmall (s : State) (fr : Frame) (k : Nat) (entry : List Byte) : Except Nat (Option (State × Bool)) :=
  let ag := s.rasterAgent fr
  match s.reserve ag (fr.stq + 64 * k) true with
  | .error e => .error e.2
  | .ok (s, q, r) =>
    if r = queueBad then .ok (some (s, false))
    else if r = queueFull then .ok none
    else match s.publish ag ⟨0, true, r, q.ring, q.stamps, q.log2n, 0, none, false, none⟩ entry [] with
      | .error e => .error e.2
      | .ok none => .ok none
      | .ok (some s) => .ok (some (s, true))

/-- A queue's bad descriptor drops an entry: ERRPRIM and an engine error. -/
def State.dropEntry (s : State) (fid : Nat) : State :=
  match s.frame? fid with
  | some fr => (s.putFrame { fr with errPrim := fr.errPrim + 1 }).engineError fr.die fr.ctx 0 6
  | none => s

/-- The 32-byte entry. -/
def smallEntry (record strip tile : Nat) : List Byte := bytesOf record 8 ++ bytesOf strip 4 ++ bytesOf tile 4 ++ bytesOf 0 16

/-- The setup record of a fan triangle. -/
def Tri.setup (t : Tri) (strip record : Nat) : List Byte :=
  (List.range 3).flatMap (fun i => bytesOf (unsignedOf 32 (t.xs.getD i 0)) 4 ++ bytesOf (unsignedOf 32 (t.ys.getD i 0)) 4) ++
  (List.range 3).flatMap (fun i => bytesOf (t.zs.getD i 0).toNat 4) ++ (List.range 3).flatMap (fun i => bytesOf (t.ws.getD i 0).toNat 4) ++
  bytesOf t.pid 4 ++ bytesOf t.view 1 ++ bytesOf strip 1 ++ bytesOf t.fan 1 ++ bytesOf 0 1 ++ bytesOf record 8

/-- The address of the record of a triangle's primitive. -/
def Frame.recordOf (fr : Frame) (pid : Nat) : Nat := ((fr.prims.find? fun p => p.pid = pid).bind (·.record)).getD 0

/-- Deliver a triangle on the small path; an entry whose queue is full waits, and holds the amplifier. -/
def State.deliverSmall (s : State) (fr : Frame) (t : Tri) (k tile : Nat) : State :=
  if fr.setupSlots ≤ fr.setups then s.putFrame { fr with errPrim := fr.errPrim + 1 }
  else
    let a := fr.setupRing + 64 * fr.setups
    match s.pokeVa (s.rasterAgent fr) a (t.setup k (fr.recordOf t.pid)) with
    | .error e => s.rasterFault fr e.2
    | .ok s1 => match s1.enqueueSmall fr (fr.ownerNo t.view tile) (smallEntry a k tile) with
      | .error e => s.rasterFault fr e
      | .ok none =>
        s1.putFrame { fr.count t.view fun c => { c with small := c.small + 1 } with
          setups := fr.setups + 1, queued := [(fr.ownerNo t.view tile, smallEntry a k tile)] }
      | .ok (some (s2, good)) =>
        let s2 := s2.putFrame { fr.count t.view fun c => { c with small := c.small + 1 } with setups := fr.setups + 1 }
        if good then s2 else s2.dropEntry fr.fid

/-! ## Delivery (R400, R405) -/

/-- Mark a triangle as delivered to a tile in a strip. -/
def State.markDelivered (s : State) (fid trid k tile : Nat) : State :=
  match s.frame? fid with
  | some fr => s.putFrame { fr with tris := mapWhere (fun (t : Tri) => t.trid = trid) (fun t => { t with delivered := (k, tile) :: t.delivered }) fr.tris }
  | none => s

/-- Whether a triangle could be delivered to a tile for a strip now: a queue that is full holds the amplifier, and with it every delivery
(R403). -/
def State.rasterReady (s : State) (fr : Frame) (t : Tri) (strip tile : Nat) : Bool :=
  let a := fr.area t.view tile
  !(fr.fault.isSome || fr.queued ≠ [] || t.delivered.contains (strip, tile) || a.strip ≠ some strip || a.over strip) &&
  match fr.views[t.view]?, s.warpOf fr t.view strip, s.latchOf fr t.view strip with
  | some _, some _, some _ => true
  | _, _, _ => false

/-- The contexts with a triangle that a cluster's raster engine could deliver now. -/
def State.rasterWaiting (s : State) (cluster : Nat) : List Nat :=
  (s.frames.filter fun fr => fr.tris.any fun t => (List.range (((fr.views[t.view]?).map View.tiles).getD 0)).any fun i =>
    coreCluster (fr.owner t.view i) = cluster && (List.range (((fr.views[t.view]?).map View.nstrips).getD 0)).any fun k => s.rasterReady fr t k i).map (·.ctx)

/-- RASTERISE_TRIANGLE: the classifier decides the path of a triangle to a live tile whose area is open for the strip. A
delivery waits while a queue that is full holds the amplifier, or a fault. -/
def execRasteriseTriangle (frame tri strip tile : Nat) (s : State) : Out :=
  match s.frame? frame with
  | none => .next s
  | some fr => match fr.tris.find? fun t => t.trid = tri with
    | none => .next s
    | some t =>
      let a := fr.area t.view tile
      let eng := rasterEngine (coreCluster a.core)
      if !s.rasterReady fr t strip tile || !s.engineTurn fr.die eng fr.ctx (s.rasterWaiting (coreCluster a.core)) then .next s
      else
        let s := s.engineServe fr.die eng fr.ctx true
        match fr.views[t.view]?, s.warpOf fr t.view strip, s.latchOf fr t.view strip with
        | some w, some p, some l =>
          if !t.reaches p tile then .next (s.markDelivered frame tri strip tile)
          else if t.small p tile l.area then
            let s1 := s.deliverSmall fr t strip tile
            if (s1.frame? frame).any (fun x => x.fault.isSome) then .next s1 else .next (s1.markDelivered frame tri strip tile)
          else if w.shade then .next ((s.launchBatches frame a strip p t).markDelivered frame tri strip tile)
          else .next ((s.writeVis fr a w p t).markDelivered frame tri strip tile)
        | _, _, _ => .next s

/-! ## End entries (R403) -/

/-- Whether a triangle owes a tile nothing in a strip: it has been delivered, cannot reach it, or the strip is over. -/
def State.settled (s : State) (fr : Frame) (t : Tri) (k tile : Nat) : Bool :=
  t.delivered.contains (k, tile) || (fr.area t.view tile).over k ||
  match s.warpOf fr t.view k with
  | some p => !p.tileLive tile || !t.reaches p tile
  | none => false

/-- Whether every committed primitive has been delivered to strip `k` of every view that has it. -/
def State.stripDelivered (s : State) (fr : Frame) (k : Nat) : Bool :=
  fr.meshDone && fr.prims.all (·.projected) &&
  (List.range fr.views.length).all fun v => match fr.views[v]? with
    | some w => w.nstrips ≤ k || ((s.warpOf fr v k).isSome && fr.tris.all fun t => t.view ≠ v || (List.range w.tiles).all fun i => s.settled fr t k i)
    | none => true

/-- Put the entries that wait into their queues, as far as there is room; each queue's in order. -/
def State.flushQueued (s : State) (fid : Nat) : List (Nat × List Byte) → State
  | [] => s
  | (k, e) :: r =>
    match s.frame? fid with
    | none => s
    | some fr =>
      match s.enqueueSmall fr k e with
      | .error a => s.rasterFault { fr with queued := fr.queued ++ (k, e) :: r } a
      | .ok none => (s.putFrame { fr with queued := fr.queued ++ [(k, e)] }).flushQueued fid r
      | .ok (some (s, good)) => (if good then s else s.dropEntry fid).flushQueued fid r

/-- STRIP_END_ENTRIES: one end entry on each queue of the core set, once no entry waits; and entries that wait for room try again. -/
def execStripEndEntries (frame strip : Nat) (s : State) : Out :=
  match s.frame? frame with
  | none => .next s
  | some fr =>
    let exists_ := fr.views.any fun w => strip < w.nstrips
    let fresh := fr.queued = [] && !fr.ends.contains strip && exists_ && s.stripDelivered fr strip
    if fr.fault.isSome || !(fresh || fr.queued ≠ []) then .next s
    else
      let new := if fresh then (List.range fr.cores.length).map fun k => (k, smallEntry 0 strip 0xFFFFFFFF) else []
      let s := s.putFrame { fr with ends := if fresh then fr.ends ++ [strip] else fr.ends, queued := [] }
      .next (s.flushQueued frame (fr.queued ++ new))

end Sys2Proof.Machine
end

