-- ==== Sys2Proof/Machine/Tiles.lean ====
section
/-! DEFINITION. Instructions on tiles (R404, R414 to R417, R432): FBRD, FBWR with the scoreboard, TRET, LATE. -/

namespace Sys2Proof.Machine

/-! ## Handles of an instruction (R413, R414) -/

/-- The handle that a word names for a group, if the group's team serves a frame and the handle is valid. -/
def State.handleOf (s : State) (g : Group) (w : Nat) : Option (Frame × Handle) :=
  match s.frameOf g with
  | none => none
  | some fr => (fr.handle w).map fun h => (fr, h)

/-- The lanes of a list whose handle is not valid, and those with a valid one. -/
def State.badHandles (s : State) (g : Group) (h : Nat → Nat) (ls : List Nat) : List Nat := ls.filter fun l => (s.handleOf g (h l)).isNone
def State.goodHandles (s : State) (g : Group) (h : Nat → Nat) (ls : List Nat) : List (Nat × Frame × Handle) :=
  ls.filterMap fun l => (s.handleOf g (h l)).map fun x => (l, x.1, x.2)

/-- A sample word's column and row. -/
def sampleU (w : Nat) : Nat := w % 65536
def sampleV (w : Nat) : Nat := w / 65536 % 65536

/-! ## FBRD (R415) -/

/-- A sample's word of an area open for the handle's strip; 0 otherwise. -/
def State.tileWord (s : State) (fr : Frame) (h : Handle) (vis : Bool) (sample : Nat) : Nat :=
  let a := fr.area h.view h.tile
  let i := sampleIx (sampleU sample) (sampleV sample)
  if a.strip ≠ some h.strip then 0
  else if vis then s.areaField fr a (visAt i) 8 else s.areaField fr a (colAt i) 4

/-- The address of a tile's area for a group: SCRATCH on its owner, CLUSTER from a sibling of a cluster launch, whether the sibling's team
has exited or not, since its pool lives with the frame (R409); or 0. -/
def State.areaAddress (s : State) (g : Group) (fr : Frame) (h : Handle) : Nat :=
  let a := fr.area h.view h.tile
  if a.core = g.core then scratchBase + a.off
  else match s.teamOf g with
    | none => 0
    | some t =>
      if (s.launch? t.lid).any fun l => l.clsize ≠ 0 then
        match s.teams.find? fun u => u.lid = t.lid && u.clusterNo = t.clusterNo && u.core = a.core with
        | some u => clusterBase + u.rank * 2 ^ 19 + a.off
        | none => 0
      else 0

/-- FBRD. -/
def execFbrd (m : Marks) (d a b : Code) (x : BitVec 4) (s : State) : Out :=
  let n := if x.toNat = 0 then 1 else 2
  issue s (.fbrd m d a b x) m
    (fun f => { role := f.g.role.vectors, srcs := [opnd a 1], srcB := if x.toNat = 2 then none else some (opnd b 1),
                dst := some (opnd d n), late := true }) fun f =>
    let ls := lanesOf f.sl.mask
    let smp (l : Nat) : Nat := f.srcB b 1 l
    let hs := s.goodHandles f.g (f.src a 1) ls
    let bad := s.badHandles f.g (f.src a 1) ls ++
      if x.toNat = 2 then [] else (hs.filter fun y => !y.2.1.inTile y.2.2 (sampleU (smp y.1)) (sampleV (smp y.1))).map (·.1)
    let foreign := if x.toNat = 2 then [] else (hs.filter fun y => y.2.1.owner y.2.2.view y.2.2.tile ≠ f.g.core).map (·.1)
    if bad ≠ [] then trapOut s f m ⟨0x02, 0, 0, maskOf bad⟩
    else if foreign ≠ [] then trapOut s f m ⟨0x0A, 0, 0, maskOf foreign⟩
    else
      let v (l : Nat) : Nat := match hs.find? fun y => y.1 = l with
        | some (_, fr, h) => if x.toNat = 2 then s.areaAddress f.g fr h else s.tileWord fr h (x.toNat = 1) (smp l)
        | none => 0
      .next ((s.resultLater f d n (perLane v) f.sl.mask 0 .alu).goOn f m)

/-! ## FBWR (R404, R406, R416) -/

/-- One channel: operation, source, old, source alpha. -/
def blendChannel (op s o alpha : Nat) : Nat :=
  match op with
  | 0 => s
  | 1 => min 255 (s + roundMag 0 false (o * (255 - alpha)) 255)
  | 2 => min 255 (s + o)
  | 3 => max s o
  | _ => min s o

/-- The four channels of a colour word. -/
def blend (op : Nat) (s o : Nat) : Nat :=
  ((List.range 4).map fun i => blendChannel op (s / 2 ^ (8 * i) % 256) (o / 2 ^ (8 * i) % 256) (s / 2 ^ 24 % 256) * 2 ^ (8 * i)).sum

/-- The line that a blend write reaches: none where it is discarded, since the open strip is another or STATE is not 0. -/
def State.blendLine (s : State) (fr : Frame) (b : Blend) : Option Nat :=
  let a := fr.area b.view b.tile
  if a.strip ≠ some b.strip || s.areaField fr a stateAt 4 ≠ 0 then none
  else (fr.pool a.core).map fun pid => padLine pid (a.off + colAt b.sample)

/-- A blend write reaches its area, where it records the release that it carries. -/
def State.performBlend (s : State) (fr : Frame) (b : Blend) : State :=
  let a := fr.area b.view b.tile
  match s.blendLine fr b with
  | none => s
  | some ln =>
    let s := s.setAreaField fr a (colAt b.sample) 4 (blend b.op b.colour.toNat (s.areaField fr a (colAt b.sample) 4))
    match b.rel with
    | some r => s.recordRelease r.core r.asid r.scope ln
    | none => s

/-- The batch that a group shades. -/
def Group.batch? (g : Group) : Option (Nat × Nat) :=
  match g.part with
  | .fragment f b => some (f, b)
  | _ => none

/-- Whether a handle's sample is dead in a strip that has latched. -/
def State.deadSample (s : State) (fr : Frame) (h : Handle) (u v : Nat) : Bool :=
  match s.warpOf fr h.view h.strip with
  | some p => !p.live u v
  | none => false

/-- A lane's write, behind those that its frame holds. -/
def State.blendOf (s : State) (g : Group) (fr : Frame) (h : Handle) (op sample colour : Nat) : Blend :=
  let bid := (g.batch?.map (·.2)).getD 0
  { gid := g.gid, batch := bid, view := h.view, strip := h.strip, tile := h.tile, seq := fr.blends.foldl (fun n c => max n (c.seq + 1)) 0,
    pid := if g.batch?.isSome then ((fr.batches.find? fun x => x.bid = bid).map (·.pid)).getD 0 else 0, op := op,
    sample := sampleIx (sampleU sample) (sampleV sample), colour := BitVec.ofNat 32 colour,
    rel := g.relScope.map fun sc => ⟨0, g.core, s.asidOf g, sc⟩ }

/-- A lane's write: held for a fragment group, performed at once for any other. -/
def State.writeSample (s : State) (g : Group) (fid : Nat) (h : Handle) (op sample colour : Nat) : State :=
  match s.frame? fid with
  | none => s
  | some fr =>
    let b := s.blendOf g fr h op sample colour
    if g.batch?.isSome then s.putFrame { fr with blends := fr.blends ++ [b] } else s.performBlend fr b

/-- Whether some lanes write: a write that is discarded at once leaves a FENCE.rel to the group's next one. -/
def State.anyWrites (s : State) (g : Group) (hs : List (Nat × Frame × Handle)) (smp : Nat → Nat) : Bool :=
  hs.any fun y => g.batch?.isSome || (s.blendLine y.2.1 (s.blendOf g y.2.1 y.2.2 0 (smp y.1) 0)).isSome

/-- FBWR: it acts in the lanes that are no helpers and whose sample is live. It writes scratchpad: where it is performed at once it stands
behind the group's far atomics and loads (R231, R232), as a store to scratchpad does, and it carries the release of a FENCE.rel before it
(R238). -/
def execFbwr (m : Marks) (d a b : Code) (x : BitVec 4) (s : State) : Out :=
  issue s (.fbwr m d a b x) m
    (fun f => { role := f.g.role.vectors, srcs := [opnd d 1, opnd a 1], srcB := some (opnd b 1) }) fun f =>
    let ls := lanesOf (f.sl.mask &&& ~~~f.g.helper)
    let smp (l : Nat) : Nat := f.srcB b 1 l
    let hs := (s.goodHandles f.g (f.src a 1) ls).filter fun y => !s.deadSample y.2.1 y.2.2 (sampleU (smp y.1)) (sampleV (smp y.1))
    let bad := s.badHandles f.g (f.src a 1) ls ++
      (hs.filter fun y => !y.2.1.inTile y.2.2 (sampleU (smp y.1)) (sampleV (smp y.1))).map (·.1)
    let foreign := (hs.filter fun y => y.2.1.owner y.2.2.view y.2.2.tile ≠ f.g.core).map (·.1)
    if bad ≠ [] then trapOut s f m ⟨0x02, 0, 0, maskOf bad⟩
    else if foreign ≠ [] then trapOut s f m ⟨0x0A, 0, 0, maskOf foreign⟩
    else if f.g.batch?.isNone && (s.farBusy f.g || s.loadsOpen f.g) then .next s
    else
      let u := hs.foldl (fun (s : State) y => s.writeSample f.g y.2.1.fid y.2.2 x.toNat (smp y.1) (f.src d 1 y.1)) s
      .next ((if s.anyWrites f.g hs smp then u.dropRel f.g else u).goOn f m)

/-- Whether every group that could still write a sample for a lower primitive has ended: the lower primitives are all
committed and projected, and every lower triangle that covers the sample has been delivered, its batches have ended and
their writes to the sample have retired. -/
def State.lowerDone (s : State) (fr : Frame) (b : Blend) : Bool :=
  fr.meshDone && fr.prims.all (fun p => b.pid ≤ p.pid || p.projected) &&
  (fr.tris.all fun t => t.view ≠ b.view || b.pid ≤ t.pid ||
    match s.warpOf fr b.view b.strip with
    | none => false
    | some p =>
      let q := (p.samples b.tile).getD b.sample (0, 0)
      !(p.live q.1 q.2 && t.covers (p.x.pos q.1) (p.y.pos q.2)) || s.settled fr t b.strip b.tile) &&
  (fr.batches.all fun x => !(x.view = b.view && x.strip = b.strip && x.tile = b.tile && x.pid < b.pid) || x.ended) &&
  !fr.blends.any fun c => c.view = b.view && c.strip = b.strip && c.tile = b.tile && c.sample = b.sample && c.pid < b.pid

/-- Whether a held write may retire: its group has ended and has no far atomic under way (R231), and it is the next of its sample (R404,
R406). -/
def State.mayRetire (s : State) (fr : Frame) (b : Blend) : Bool :=
  !(s.net.origs.any fun r => r.gid = b.gid) &&
  (fr.batches.any fun x => x.bid = b.batch && x.ended) && s.lowerDone fr b &&
  !fr.blends.any fun c => c.view = b.view && c.strip = b.strip && c.tile = b.tile && c.sample = b.sample && c.pid = b.pid && c.seq < b.seq

/-- FBWR_RETIRE: the first held write of a tile that may retire does. -/
def execFbwrRetire (frame view tile : Nat) (s : State) : Out :=
  match s.frame? frame with
  | none => .next s
  | some fr => match fr.blends.find? fun b => b.view = view && b.tile = tile && s.mayRetire fr b with
    | none => .next s
    | some b => .next ((s.performBlend fr b).putFrame { fr with blends := fr.blends.filter fun c => c ≠ b })

/-! ## TRET (R407, R417) -/

/-- What TRET returns for a tile that is retired, handed over or was never opened. -/
def tretNone : Nat := 0xFFFFFFFF

/-- Whether a TRET that issues now counts nothing. -/
def State.tretClosed (s : State) (fr : Frame) (a : Area) (k : Nat) : Bool :=
  if a.strip = some k then s.areaField fr a stateAt 4 = 1 || s.areaField fr a stateAt 4 = 2 else a.over k

/-- A TRET has returned for a strip (R411). -/
def State.retireArea (s : State) (fid : Nat) (h : Handle) : State :=
  match s.frame? fid with
  | some fr =>
    let a := fr.area h.view h.tile
    s.putFrame (fr.putArea { a with retired := if a.retired.contains h.strip then a.retired else a.retired ++ [h.strip] })
  | none => s

/-- The slot waits for its strip to latch. -/
def latchOut (s : State) (f : Frag) : Out := .next (s.park f .latch)

/-- TRET. -/
def execTret (m : Marks) (d a : Code) (s : State) : Out :=
  issue s (.tret m d a) m (fun f => { role := f.g.role.vectors, srcs := [opnd a 1], dst := some (opnd d 1), late := true }) fun f =>
    match s.handleOf f.g (f.src a 1 f.low) with
    | none => trapOut s f m ⟨0x02, 0, 0, f.sl.mask⟩
    | some (fr, h) => match s.warpOf fr h.view h.strip with
      | none => latchOut s f
      | some p =>
        if !p.tileLive h.tile then trapOut s f m ⟨0x02, 0, 0, f.sl.mask⟩
        else if fr.owner h.view h.tile ≠ f.g.core then trapOut s f m ⟨0x0A, 0, 0, f.sl.mask⟩
        else if s.tretClosed fr (fr.area h.view h.tile) h.strip then
          .next (((s.resultLater f d 1 (perLane fun _ => tretNone) f.sl.mask 0 .alu).retireArea fr.fid h).goOn f m)
        else
          .next ((s.resultLater f d 1 (perLane fun _ => 0) f.sl.mask 1 (.tret fr.fid h.view h.strip h.tile)).goOn f m)

/-- Whether a tile is complete for a strip: the meshlet grid has completed, so that its visibility words are final (R407), every
committed primitive is delivered, every batch has ended, every write has retired (R417). -/
def State.tileComplete (s : State) (fr : Frame) (h : Handle) : Bool :=
  fr.meshDone && fr.prims.all (·.projected) && (fr.tris.all fun t => t.view ≠ h.view || s.settled fr t h.strip h.tile) &&
  (fr.batches.all fun x => !(x.view = h.view && x.strip = h.strip && x.tile = h.tile) || x.ended) &&
  !fr.blends.any fun c => c.view = h.view && c.strip = h.strip && c.tile = h.tile

/-- The visibility words of the live samples of a tile that are not 0. -/
def State.coveredWords (s : State) (fr : Frame) (a : Area) (p : Warp) : List Nat :=
  ((p.liveSamples a.tile).map fun q => s.areaField fr a (visAt (sampleIx q.1 q.2)) 8).filter (· ≠ 0)

/-- The occlusion counts of a tile added (R407). -/
def Frame.addOcclusion (fr : Frame) (ws : List Nat) : Frame :=
  { fr with occ := fr.occ.mapIdx fun q n =>
      let r := fr.qrange.getD q (1, 0)
      n + (ws.filter fun w => r.1 ≤ w % 2 ^ 32 && w % 2 ^ 32 ≤ r.2).length }

/-- Give a TRET its value. -/
def State.tretGives (s : State) (r : Outst) (fid : Nat) (h : Handle) (v : Nat) : State :=
  (s.putOut { r with left := 0, vals := perLane fun _ => v, kind := .alu }).retireArea fid h

/-- TRET_COMPLETE: the tile is counted, COVERED and STATE are written, and the result is there. A strip whose tile was
handed over before the area opened for it counts nothing (R411). -/
def execTretComplete (oid : Nat) (s : State) : Out :=
  match s.out? oid with
  | none => .next s
  | some r => match r.kind with
    | .tret fid view strip tile => match s.frame? fid with
      | none => .next s
      | some fr =>
        let h : Handle := ⟨view, strip, tile⟩
        let a := fr.area view tile
        if a.strip ≠ some strip then
          if a.over strip then .next (s.tretGives r fid h tretNone) else .next s
        else match s.warpOf fr view strip with
          | none => .next s
          | some p =>
            if !s.tileComplete fr h || ((s.group? r.gid).any fun g => s.farBusy g) then .next s
            else
              let ws := s.coveredWords fr a p
              let s := s.setAreaField fr a coveredAt 4 ws.length
              let s := if s.areaField fr a stateAt 4 = 2 then s else s.setAreaField fr a stateAt 4 1
              .next ((s.putFrame (fr.addOcclusion ws)).tretGives r fid h ws.length)
    | _ => .next s

/-! ## LATE (R432) -/

/-- A difference of cycles as a saturated s32. -/
def satS32 (z : Int) : Nat := unsignedOf 32 (max (-2147483648) (min 2147483647 z))

/-- LATE. -/
def execLate (m : Marks) (d a : Code) (s : State) : Out :=
  issue s (.late m d a) m (fun f => { role := f.g.role.vectors, srcs := [opnd a 1], dst := some (opnd d 1), late := true }) fun f =>
    match s.handleOf f.g (f.src a 1 f.low) with
    | none => trapOut s f m ⟨0x02, 0, 0, f.sl.mask⟩
    | some (fr, h) =>
      let deadline := ((fr.views[h.view]?).map fun w => w.deadlineOf h.strip).getD 0
      let v := if s.clsOf f.g = classRt then satS32 ((deadline : Int) - s.viewClock fr) else 0x7FFFFFFF
      .next ((s.resultLater f d 1 (perLane fun _ => v) f.sl.mask 0 .alu).goOn f m)

end Sys2Proof.Machine
end

