-- ==== Sys2Proof/Machine/Egress.lean ====
section
/-! DEFINITION. The Selvedge (R425 to R431): frame numbers, EGRS, arrival of a tile, the deadline rule. -/

namespace Sys2Proof.Machine

/-! ## Targets (R425, R426) -/

/-- The agent of a die's Selvedge for a context. -/
def State.selvedgeAgent (s : State) (die ctx : Nat) : Agent :=
  match s.ctx? ctx with
  | some c => c.agent 1000 (96 + die)
  | none => ⟨1000, 96 + die, 0, 0, false, 1, ctx, 0, 0, 0, false, true⟩

/-- Bytes per pixel of a target's kind. -/
def pixelBytes (kind : Nat) : Nat := if kind ≤ 1 then 4 else if kind = 2 then 3 else 6

/-- A channel c of an RGBA8 source rounded to c × n ÷ 255. -/
def scaleChannel (c n : Nat) : Nat := roundMag 0 false (c * n) 255

/-- c ÷ 255 rounded once with RNE to FP8-E4M3 (kind 2) or BF16. -/
def tensorChannel (kind c : Nat) : Nat :=
  if kind = 2 then (convertInto (nfmt 6) ⟨0, true, false⟩ (if c = 0 then .zero false else .fin ⟨c, 255⟩)).1
  else (roundZ bf16 0 false ⟨c, 255⟩).1

/-- The bytes of a pixel in a target's format, from its RGBA8 word. -/
def pixelOf (kind p : Nat) : List Byte :=
  let c (i : Nat) : Nat := p / 2 ^ (8 * i) % 256
  if kind = 0 then bytesOf p 4
  else if kind = 1 then
    bytesOf (scaleChannel (c 0) 1023 + scaleChannel (c 1) 1023 * 2 ^ 10 + scaleChannel (c 2) 1023 * 2 ^ 20 + scaleChannel (c 3) 3 * 2 ^ 30) 4
  else (List.range 3).flatMap fun i => bytesOf (tensorChannel kind (c i)) (if kind = 2 then 1 else 2)

namespace View

/-- The slot of frame number `f`. -/
def slotOf (w : View) (f : Nat) : Nat := f % max 1 w.target.slots
/-- The address of pixel (p, q) in slot `z`. -/
def pixelAddr (w : View) (z p q : Nat) : Nat :=
  w.target.base + z * w.target.slotBytes + q * w.target.pitch + p * pixelBytes w.target.kind
/-- The address of the egress record of a strip and tile. -/
def recordAddr (w : View) (k t : Nat) : Nat :=
  w.target.recs + 16 * (w.slotOf w.frameNo * w.nstrips * w.tiles + k * w.tiles + t)

end View

/-- The bytes of an egress record. -/
def egressRecord (f flags stream cycle seq : Nat) : List Byte :=
  bytesOf f 4 ++ bytesOf flags 2 ++ bytesOf stream 1 ++ bytesOf 0 1 ++ bytesOf (cycle % 2 ^ 32) 4 ++ bytesOf (seq % 2 ^ 32) 4

/-- FRAMENO ← FRAMENO + 1 of a view's target, as a far atomic: the view knows its frame number, or the address faults. -/
def State.frameNumber (s : State) (fr : Frame) (v : Nat) : Except Nat State :=
  match fr.views[v]? with
  | none => .ok s
  | some w =>
    if w.frameNoDone then .ok s
    else match s.addVa (s.selvedgeAgent fr.die fr.ctx) (w.target.addr + 4) 4 1 with
      | .error e => .error e.2
      | .ok (s, old) => .ok (s.putFrame { fr with views := fr.views.set v { w with frameNo := (old + 1) % 2 ^ 32, frameNoDone := true, repaired := false } })

/-! ## EGRS (R427, R430) -/

/-- Where a source image lies, if all of it lies in one SCRATCH or CLUSTER allocation. -/
def State.imagePlace (s : State) (g : Group) (a n : Nat) : Option (Nat × Nat) :=
  match s.decodeAddr (s.agentOf g) 0 a n with
  | some (ap, [⟨.pad pid off, _⟩]) => if ap = 1 || ap = 2 then some (pid, off) else none
  | _ => none

/-- Whether an EGRS of this tile counts no more: one has been accepted in the frame, or the tile is handed over. -/
def Frame.egressTaken (fr : Frame) (h : Handle) : Bool :=
  fr.claimed.contains (h.view, h.strip, h.tile) || (fr.area h.view h.tile).handed.contains h.strip

/-- Update a stream of a context. -/
def State.modStream (s : State) (ctx i : Nat) (f : Stream → Stream) : State :=
  match s.ctx? ctx with
  | some c => s.putCtx { c with streams := c.streams.modify i f }
  | none => s

/-- An operation of a stream is complete; its counter is kept in the save area (R102). -/
def State.endEgress (s : State) (ctx i n : Nat) : State :=
  let s := s.modStream ctx i fun x => ⟨x.tl.complete n, x.ops.filter fun o => o.n ≠ n⟩
  match s.ctx? ctx with
  | some c => s.setField (c.save + 0x40 + 8 * i) 8 (((c.streams[i]?).map fun x => x.tl.counter).getD 0)
  | none => s

/-- An operation's fault is recorded, behind its walk. -/
def State.egressFault (s : State) (ctx i : Nat) (o : EgrOp) (a : Nat) : State :=
  (s.tryVa (s.selvedgeAgent (coreDie o.core) ctx) .wr a).modStream ctx i fun x => { x with ops := put EgrOp.n { o with fault := some a, repaired := false } x.ops }

/-! ## Arrival (R428) -/

/-- The rows of a display tile in a slot: the address of each and its bytes. -/
def View.rows (w : View) (z : Nat) (d : Nat × Nat × Nat × Nat) : List (Nat × Nat) :=
  if d.2.2.1 = 0 then [] else (List.range d.2.2.2).map fun i => (w.pixelAddr z d.1 (d.2.1 + i), d.2.2.1 * pixelBytes w.target.kind)

/-- Write ranges one after another, or the address that faults. -/
def State.pokeAll (s : State) (ag : Agent) : List (Nat × List Byte) → Except Nat State
  | [] => .ok s
  | (a, v) :: r => match s.pokeVa ag a v with
    | .error e => .error e.2
    | .ok s => s.pokeAll ag r

/-- The image of an operation: every pixel that its display tile shows. -/
def State.imageOf (s : State) (o : EgrOp) : List Byte :=
  match (s.frame? o.frame).bind fun fr => s.warpOf fr o.view o.strip with
  | some p => s.padBytes o.pad o.off (4 * (p.display o.tile).2.2.1 * (p.display o.tile).2.2.2)
  | none => []

/-- A row of an image in a target's format. -/
def imageRow (kind : Nat) (image : List Byte) (pw i : Nat) : List Byte :=
  (List.range pw).flatMap fun j => pixelOf kind (fieldOf image (4 * (i * pw + j)) 4)

/-- The Selvedge has read the last byte of an image: its tile arrives now, and the operation keeps the cycle and the image. -/
def State.landImage (s : State) (o : EgrOp) : EgrOp :=
  match o.arrived, s.frame? o.frame with
  | none, some fr => { o with arrived := some (s.viewClock fr, s.imageOf o) }
  | _, _ => o

/-- What follows the arrival of a tile: pixels, record, hand-over, completion; or the operation waits on a fault. -/
def State.arrive (s : State) (ctx i : Nat) (o : EgrOp) : State :=
  match s.frame? o.frame with
  | none => s.endEgress ctx i o.n
  | some fr => match fr.views[o.view]?, s.warpOf fr o.view o.strip, o.arrived with
    | some w, some p, some (cycle, image) =>
      let d := p.display o.tile
      let ag := s.selvedgeAgent fr.die ctx
      let rows := (w.rows (w.slotOf w.frameNo) d).mapIdx fun r x => (x.1, imageRow w.target.kind image d.2.2.1 r)
      let record := (w.recordAddr o.strip o.tile, egressRecord w.frameNo 8 i cycle o.n)
      match s.pokeAll ag (rows ++ [record]) with
      | .error a => s.egressFault ctx i o a
      | .ok s => (s.handOver o.frame o.view o.tile o.strip false).endEgress ctx i o.n
    | _, _, _ => s

/-- A discarded operation sets DISCARDED in the tile's record and completes. -/
def State.discardEgress (s : State) (ctx i : Nat) (o : EgrOp) : State :=
  match s.frame? o.frame with
  | none => s.endEgress ctx i o.n
  | some fr => match fr.views[o.view]? with
    | none => s
    | some w =>
      let ag := s.selvedgeAgent fr.die ctx
      let a := w.recordAddr o.strip o.tile + 4
      match s.peekVa ag a 2 with
      | .error e => s.egressFault ctx i o e.2
      | .ok (s, v) => match s.putVa ag a 2 (v ||| 0x10) with
        | .error e => s.egressFault ctx i o e.2
        | .ok s => s.endEgress ctx i o.n

/-- The cycle after the one at whose end the rule acts. -/
def View.lateCycle (w : View) (k : Nat) : Nat := max (w.deadlineOf k) (w.startOf k) + 1

/-- Whether the cycle at whose end the deadline rule acts on a strip has passed: no tile of it arrives any more. -/
def State.tooLate (s : State) (fr : Frame) (v k : Nat) : Bool :=
  (s.ctx? fr.ctx).any (fun c => c.cls = classRt) && (fr.views[v]?).any fun w => w.lateCycle k ≤ s.viewClock fr

/-- Whether the Selvedge could go on with an operation: its view's frame number is known, it waits on no fault, and its tile can still
arrive; a discarded one goes once its tile is handed over. -/
def State.egressReady (s : State) (o : EgrOp) : Bool :=
  o.fault.isNone && (s.frame? o.frame).all fun fr =>
    (fr.views[o.view]?).all (fun w => w.frameNoDone) &&
    if o.discarded then (fr.area o.view o.tile).handed.contains o.strip else o.arrived.isSome || !s.tooLate fr o.view o.strip

/-- The contexts for which a die's Selvedge could go on. -/
def State.egressWaiting (s : State) (die : Nat) : List Nat :=
  (s.contexts.filter fun c => c.streams.any fun x => x.ops.any fun o => s.egressReady o && o.arrived.isNone && ((s.frame? o.frame).map (·.die)).getD 0 = die).map (·.ctxid)

/-- EGRS: the checks in their order, then the stream accepts the operation. An empty display tile has arrived at once. -/
def execEgrs (m : Marks) (d a b : Code) (x : BitVec 4) (s : State) : Out :=
  issue s (.egrs m d a b x) m
    (fun f => { role := f.g.role.vectors, srcs := [opnd a 1], srcB := some (opnd b 2), dst := some (opnd d 2), late := true }) fun f =>
    match s.handleOf f.g (f.src a 1 f.low) with
    | none => trapOut s f m ⟨0x02, 0, 0, f.sl.mask⟩
    | some (fr, h) => match s.warpOf fr h.view h.strip with
      | none => latchOut s f
      | some p =>
        let src := f.srcB b 2 f.low
        let dt := p.display h.tile
        let n := 4 * dt.2.2.1 * dt.2.2.2
        if !p.tileLive h.tile then trapOut s f m ⟨0x02, 0, 0, f.sl.mask⟩
        else if fr.owner h.view h.tile ≠ f.g.core then trapOut s f m ⟨0x0A, 0, 0, f.sl.mask⟩
        else match s.imagePlace f.g src n with
          | none => trapOut s f m ⟨0x0A, 0, src, maskOf [f.low]⟩
          | some (pid, off) =>
            if src % 4 ≠ 0 then trapOut s f m ⟨0x07, 0, src, maskOf [f.low]⟩
            else if s.relBusy f.g then .next s
            else
              let ctx := s.ctxIdOf f.g
              let k := (((s.ctx? ctx).bind fun c => c.streams[x.toNat]?).map fun y => y.tl.accepted + 1).getD 1
              let taken := fr.egressTaken h
              let o : EgrOp := ⟨k, fr.fid, h.view, h.strip, h.tile, f.g.core, pid, off, taken, none, false, none⟩
              let o := if n = 0 && !taken && !s.tooLate fr h.view h.strip then s.landImage o else o
              let s := s.resultLater f d 2 (perLane fun _ => k) f.sl.mask 0 .engine
              let s := if taken then s else s.putFrame { fr with claimed := fr.claimed ++ [(h.view, h.strip, h.tile)] }
              let s := s.modStream ctx x.toNat fun y => ⟨y.tl.accept, y.ops ++ [o]⟩
              let known := (fr.views[h.view]?).any fun w => w.frameNoDone
              let s := s.engineAccept fr.die selvedge ctx true (s.egressWaiting fr.die)
              .next ((if o.arrived.isSome && known then s.arrive ctx x.toNat o else s).goOn f m)

/-- An operation of a stream goes on: its image is read and arrives, or a discarded operation ends. -/
def State.goOnEgress (s : State) (ctxid stream : Nat) (o : EgrOp) : State :=
  if o.discarded then s.discardEgress ctxid stream o
  else
    let o := s.landImage o
    (s.modStream ctxid stream fun x => { x with ops := put EgrOp.n o x.ops }).arrive ctxid stream o

/-- EGRESS_ARRIVAL: in its context's turn (R30) the image of an operation has been read, or a discarded operation ends. -/
def execEgressArrival (ctxid stream op : Nat) (s : State) : Out :=
  match (s.ctx? ctxid).bind fun c => c.streams[stream]? with
  | none => .next s
  | some x => match x.ops.find? fun o => o.n = op with
    | none => .next s
    | some o =>
      let die := ((s.frame? o.frame).map (·.die)).getD 0
      if !s.egressReady o then .next s
      else if o.arrived.isSome then .next (s.goOnEgress ctxid stream o)
      else if s.engineTurn die selvedge ctxid (s.egressWaiting die) then
        let s := s.engineServe die selvedge ctxid ((s.ctx? ctxid).any fun c => 2 ≤ (c.streams.map fun x => (x.ops.filter (·.arrived.isNone)).length).sum)
        let s := s.goOnEgress ctxid stream o
        .next (s.engineChoose die selvedge (s.egressWaiting die))
      else .next s

/-! ## The deadline rule (R429) -/

/-- What R429 puts in place of a tile's pixels, and the flag it sets. The number 1 fills with zeros; any other copies the
previous slot's pixels, or leaves the pixels of a single slot. -/
def State.fallbackRows (s : State) (ag : Agent) (w : View) (d : Nat × Nat × Nat × Nat) : Except Nat (State × List (Nat × List Byte) × Nat) :=
  let dst := w.rows (w.slotOf w.frameNo) d
  if w.frameNo = 1 then .ok (s, dst.map fun r => (r.1, List.replicate r.2 0), 4)
  else if w.target.slots ≤ 1 then .ok (s, [], 2)
  else
    let from_ := w.rows (w.slotOf (w.frameNo + w.target.slots - 1)) d
    let rec copy (s : State) (xs : List ((Nat × Nat) × (Nat × Nat))) : Except Nat (State × List (Nat × List Byte)) :=
      match xs with
      | [] => .ok (s, [])
      | (x, y) :: r => match s.peekVa ag x.1 x.2 with
        | .error e => .error e.2
        | .ok (s, v) => (copy s r).map fun l => (l.1, (y.1, bytesOf v y.2) :: l.2)
    (copy s (from_.zip dst)).map fun l => (l.1, l.2, 2)

/-- The rule acts on one tile: fallback pixels, record, LATECNT, hand-over; an EGRS of the tile that was being read is
discarded. -/
def State.lateTile (s : State) (fr : Frame) (w : View) (p : Warp) (v k t cycle : Nat) : Except Nat State :=
  let ag := s.selvedgeAgent fr.die fr.ctx
  match s.fallbackRows ag w (p.display t) with
  | .error e => .error e
  | .ok (s, rows, flag) =>
    match s.pokeAll ag (rows ++ [(w.recordAddr k t, egressRecord w.frameNo (flag + 1) 0xFF cycle 0)]) with
    | .error e => .error e
    | .ok s => match s.addVa ag (w.target.addr + 0x1C) 4 1 with
      | .error e => .error e.2
      | .ok (s, _) =>
        let s := s.handOver fr.fid v t k true
        .ok (match s.ctx? fr.ctx with
          | some c =>
            let mine (o : EgrOp) : Bool := o.frame = fr.fid && o.view = v && o.strip = k && o.tile = t
            s.putCtx { c with streams := c.streams.map fun x => { x with ops := mapWhere mine (fun o => { o with discarded := true, fault := none }) x.ops } }
          | none => s)

/-- Whether a tile has arrived, though what follows its arrival still waits. -/
def State.arrivedAt (s : State) (fr : Frame) (v k t : Nat) : Bool :=
  (s.ctx? fr.ctx).any fun c => c.streams.any fun x => x.ops.any fun o =>
    o.frame = fr.fid && o.view = v && o.strip = k && o.tile = t && !o.discarded && o.arrived.isSome

/-- The rule acts on every live display tile of a strip that has not arrived, or an address faults. -/
def State.lateStrip (s : State) (fr : Frame) (w : View) (p : Warp) (v k : Nat) : List Nat → Except Nat State
  | [] => .ok s
  | t :: ts =>
    if !p.tileLive t || (fr.area v t).handed.contains k || s.arrivedAt fr v k t then s.lateStrip fr w p v k ts
    else match s.lateTile fr w p v k t (w.lateCycle k) with
      | .error e => .error e
      | .ok s => s.lateStrip fr w p v k ts

/-- What the deadline rule does at a strip whose deadline has passed: nothing where it is not due. -/
def State.deadline (s : State) (fr : Frame) (v k : Nat) : Except Nat (Option State) :=
  match fr.views[v]?, s.warpOf fr v k with
  | some w, some p =>
    if ((s.ctx? fr.ctx).any fun c => c.cls = classRt) && w.frameNoDone && !fr.deadlines.contains (v, k) && w.lateCycle k ≤ s.viewClock fr then
      match s.lateStrip fr w p v k (List.range w.tiles) with
      | .error e => .error e
      | .ok s => .ok (match s.frame? fr.fid with
        | some fr => some (s.putFrame { fr with deadlines := fr.deadlines ++ [(v, k)] })
        | none => some s)
    else .ok none
  | _, _ => .ok none

/-- DEADLINE_RULE: for class RT. -/
def execDeadlineRule (frame view strip : Nat) (s : State) : Out :=
  match s.frame? frame with
  | none => .next s
  | some fr => match s.deadline fr view strip with
    | .ok (some s) => .next s
    | _ => .next s

/-- What the Selvedge waits for in a view: the address at which its frame number or a late strip faults. -/
def State.selvedgeFault (s : State) (fr : Frame) (v : Nat) : Option Nat :=
  match s.frameNumber fr v with
  | .error a => some a
  | .ok _ => (List.range (((fr.views[v]?).map View.nstrips).getD 0)).findSome? fun k => match s.deadline fr v k with
    | .error a => some a
    | .ok _ => none

end Sys2Proof.Machine
end

