-- ==== Sys2Proof/Machine/Results.lean ====
section
/-! DEFINITION. What the core and the fabric complete on their own: results that return (R81), growth (R77), the LDCAP
window (R89), page walks (R208) and shootdowns (R213). -/

namespace Sys2Proof.Machine

/-- A result lands: entries, registers and their pending bits, OSCOUNT; one of a group that has ended is discarded. -/
def State.landResult (s : State) (r : Outst) : State :=
  match s.group? r.gid with
  | some g => if g.ended then s else s.putGroup (g.land r)
  | none => s

/-- Whether a result belongs to a harvest group, whose later loads stay recorded until the earlier ones return (R95). -/
def State.keepsLoads (s : State) (r : Outst) : Bool :=
  match s.group? r.gid with
  | some g => s.clsOf g = 3 && s.outs.any fun q => q.gid = r.gid && q.oid < r.oid && (q.left = 0 || q.left = 3) &&
      match q.kind with | .load _ => true | _ => false
  | none => false

/-- Loads of a group that have returned are forgotten once no earlier load of it is outstanding. -/
def State.forgetLoads (s : State) (gid : Nat) : State :=
  let isLoad (q : Outst) : Bool := q.gid = gid && match q.kind with | .load _ => true | _ => false
  match (s.outs.filter isLoad).find? fun q => q.left = 0 || q.left = 3 with
  | some first => s.setOuts (s.outs.filter fun q => !(isLoad q && q.oid < first.oid))
  | none => s.setOuts (s.outs.filter fun q => !isLoad q)

/-- A cancelled load is performed again (R96); one whose address faults now traps as an access that fails after issue. -/
def State.replayLoad (s : State) (r : Outst) : State :=
  match r.kind, s.group? r.gid with
  | .load x, some g =>
    let n := sizeBytes x.size
    let addr (l : Nat) : Nat := ((x.addrs.find? fun p => p.1 = l).map (·.2.toNat)).getD 0
    let xs := s.checkLanes g .rd anyAperture 1 n addr (x.addrs.map (·.1))
    match lanesTrap 0 xs with
    | some t => ((s.tryLanes g .rd t.code xs).dropOut r.oid).trapLate g r.slot r.pc 0 t.addr t.lanes
    | none =>
      let s : State := match x.acq with
        | some sc => (linesOfLanes xs).foldl (fun (s : State) ln => s.acquireLine g.core sc ln) s
        | none => s
      let (s, vals) := s.performLoads g x.size xs
      s.putOut { r with vals := vals, left := 0 }
  | _, _ => s

/-- A load's result lands; one of a harvest group that an earlier one has not returned before stays recorded. -/
def State.landLoad (s : State) (r : Outst) : State :=
  if s.keepsLoads r then (s.landResult r).putOut { r with left := 1 } else ((s.landResult r).dropOut r.oid).forgetLoads r.gid

/-- A load that was not performed at issue is performed as it returns (R234). -/
def State.loadLate (s : State) (r : Outst) : State :=
  if (s.group? r.gid).isNone then s.dropOut r.oid
  else
    let s := s.replayLoad r
    match s.out? r.oid with
    | some r => if r.left = 0 then s.landLoad r else s
    | none => s

/-- LONG_LATENCY_RESULT_RETURN: a result that is there lands; one that waits for stamps or for the task unit goes on. -/
def execLongLatencyResultReturn (oid : Nat) (s : State) : Out :=
  match s.out? oid with
  | none => .next s
  | some r =>
    match r.kind with
    | .narrow counts =>
      match s.group? r.gid with
      | some g => .next (((s.countEvents (s.ctxIdOf g) (coreCluster g.core) 4 counts).landResult r).dropOut oid)
      | none => .next (s.dropOut oid)
    | .load _ => if r.left = 3 then .next (s.loadLate r) else if r.left ≠ 0 then .next s else .next (s.landLoad r)
    | .queue ws =>
      match s.group? r.gid with
      | none => .next (s.dropOut oid)
      | some g =>
        let s := s.runStamps r g ws
        match s.out? oid with
        | some r => if r.kind = .queue [] then .next ((s.landResult r).dropOut oid) else .next s
        | none => .next s
    | .orphan ctx core ws =>
      let (s, ws) := ws.foldl (fun (x : State × List Orphan) p =>
        let (s, fin) := x.1.orphanStep ctx core p
        (s, if fin then x.2 else x.2 ++ [p])) (s, [])
      if ws = [] then .next (s.dropOut oid) else .next (s.putOut { r with kind := .orphan ctx core ws })
    | .tkget w =>
      if r.left = 0 then .next ((s.landResult r).dropOut oid)
      else match s.group? r.gid with
        | none => .next (s.dropOut oid)
        | some g => match s.tkgetStep g r w with
          | .error (s, r, e) => .next (s.taskFault r e (s.homeAgentOf g) 0)
          | .ok s => .next s
    | .task w => if r.left = 0 then .next ((s.landResult r).dropOut oid) else .next (s.runWork r .done w)
    | .arm w => if r.left = 0 then .next ((s.landResult r).dropOut oid) else .next (s.runWork r .arm w)
    | .post w => if r.left = 0 then .next ((s.landResult r).dropOut oid) else if r.left = 1 then .next (s.runWork r .post w) else .next s
    | _ => if r.left = 0 then .next ((s.landResult r).dropOut oid) else .next s

/-! ## The main register file (R74, R76, R78) -/

/-- The teams that run on a core, and their groups that have not ended. -/
def State.teamsOn (s : State) (core : Nat) : List Team := s.teams.filter fun t => t.core = core && t.place = .running
def State.groupsOn (s : State) (core : Nat) : List Group :=
  s.groups.filter fun g => g.core = core && !g.ended && (s.team? g.tid).any fun t => t.place = .running

/-- Bytes of the main file that a group with `n` registers takes (R74), and its parked size (R78). -/
def mainBytes (n : Nat) : Nat := 256 * (n + 32)
def parkedBytes (n : Nat) : Nat := 256 * (n + 33)

/-- The full allotment of a group. -/
def State.fullAllot (s : State) (g : Group) : Nat := ((s.launchOf g).map fun l => allotRegs l.kd.allot).getD 8

/-- Whether a group is a harvest group. -/
def State.isHarvest (s : State) (g : Group) : Bool := (s.teamOf g).any (·.harvest)

/-- The bytes of the main file in use on a core: harvest groups at their full allotment, others at what they have grown to. -/
def State.mainUsed (s : State) (core : Nat) : Nat :=
  ((s.groupsOn core).map fun g => mainBytes (if s.isHarvest g then s.fullAllot g else g.allot)).sum

/-! ## Growth (R76, R77) -/

/-- Whether a team is resident on a core as an owner or ordinary team. -/
def State.owners? (s : State) (core : Nat) : List Team := s.teams.filter fun t => t.core = core && t.place = .running && !t.harvest

/-- Whether every group of every earlier team of a core has grown or ended. -/
def State.growNext (s : State) (t : Team) : Bool :=
  (s.owners? t.core).all fun u => t.admission ≤ u.admission || (s.groupsOf u.tid).all fun g => g.grown || g.ended

/-- A group with the declared allotment: the registers gained read 0, and slots parked in GROW go on. -/
def Group.grow (g : Group) (allot : Nat) : Group :=
  let rel (g : Group) (i : Nat) : Group := match (g.slot? i).bind (·.park) with | some (.grow n) => g.release i n | _ => g
  let n := g.regs.n.mapIdx fun r x => if g.allot ≤ r && r < allot then List.replicate W 0 else x
  rel (rel { g with allot := allot, grown := true, regs := { g.regs with n := n } } 0) 1

/-- Whether the main file has room for a group's growth; what is missing is taken from harvest teams (R301). -/
def State.growRoom (s : State) (g : Group) : Bool := s.mainUsed g.core + 256 * (s.fullAllot g - g.allot) ≤ 524288

/-- Whether a group is parked in GROW. -/
def Group.parkedGrow (g : Group) : Bool :=
  let parked (o : Option Slot) : Bool := o.any fun sl => sl.stop.isNone && match sl.park with | some (.grow _) => true | _ => false
  parked g.slot0 || parked g.slot1

/-- Whether a group's growth is the next in order on its core. -/
def State.growDue (s : State) (g : Group) : Bool :=
  !g.grown && g.parkedGrow && (s.teamOf g).any fun t => t.place = .running && s.growNext t

/-- GROW_GRANT: growth is granted in admission order, once there is room. -/
def execGrowGrant (gid : Nat) (s : State) : Out :=
  match s.group? gid with
  | some g => if s.growDue g && s.growRoom g then .next (s.putGroup (g.grow (s.fullAllot g))) else .next s
  | none => .next s

/-! ## LDCAP (R89) -/

/-- LDCAP_WINDOW_END: at the end of a 4,096-cycle window. -/
def execLdcapWindowEnd (core : Nat) (s : State) : Out :=
  if s.clock (coreDie core) < (s.core core).ldWindow + 4096 then .next s
  else .next (s.modCore core fun c =>
    let cap := if 64 ≤ c.remiss then max 2 (c.ldcap / 2) else min 48 (c.ldcap + 1)
    { c with ldcap := cap, remiss := 0, ldPtr := (c.ldPtr + cap) % 48, ldWindow := c.ldWindow + 4096 })

/-! ## Translation (R208, R213) -/

/-- PAGE_WALK_COMPLETE: a walk installs the translation of an address in a unit; one that faults installs nothing. -/
def execPageWalkComplete (unit asid va : Nat) (s : State) : Out :=
  match s.contexts.find? fun c => c.asid = asid && !c.killed with
  | some c =>
    let ag := c.agent 1000 unit
    match s.tlbHit ag va with
    | some _ => .next s
    | none => match s.walk ag va with
      | some t => .next (s.install ag t va)
      | none => .next s
  | none => .next s

/-- Whether a shootdown concerns an address space (R198): 0 a page of one, 1 all of one, 2 everything, 3 a page of every one. -/
def Shootdown.reaches (d : Shootdown) (asid : Nat) : Bool := d.kind = 2 || d.kind = 3 || d.asid = asid

/-- Whether it names every page. -/
def Shootdown.whole (d : Shootdown) : Bool := d.kind = 1 || d.kind = 2

/-- Whether a shootdown matches a virtual range of an address space. -/
def Shootdown.hits (d : Shootdown) (asid base bits : Nat) : Bool :=
  d.reaches asid && (d.whole || (base ≤ d.va && d.va < base + 2 ^ bits))

/-- Whether a line was translated through a page that a shootdown names. -/
def Shootdown.hitsLine (d : Shootdown) (l : L1Line) : Bool := d.hits l.asid (l.vline * 64 / 2 ^ l.bits * 2 ^ l.bits) l.bits

/-- Whether a piece of an agent's access uses a translation that a shootdown removes. -/
def State.pieceHit (s : State) (d : Shootdown) (ag : Agent) (p : Piece) : Bool :=
  match p.place with
  | .pad _ _ => false
  | .va a => match s.tlbHit ag a with
    | some t => d.hits t.asid t.vbase t.bits
    | none => d.reaches ag.asid

/-- Whether a load that is performed only when it returns uses, at any byte, a translation that a shootdown removes. -/
def State.lateLoadHit (s : State) (d : Shootdown) (r : Outst) : Bool :=
  match r.kind, s.group? r.gid with
  | .load x, some g => r.left = 3 && x.addrs.any fun p =>
      ((s.decodeAddr (s.agentOf g) p.1 p.2.toNat (sizeBytes x.size)).any fun q => q.2.any (s.pieceHit d (s.agentOf g)))
  | _, _ => false

/-- Whether a copy has read through a translation that a shootdown removes and has not delivered. -/
def State.copyHit (s : State) (d : Shootdown) (g : Group) : Bool :=
  g.copyOps.any fun o => o.ways.any fun y => y.pages.any fun p => d.hits (s.asidOf g) p.1 p.2

/-- Whether accesses that used a removed translation are still under way: far atomics, loads not yet performed, copies not yet delivered. -/
def State.shootdownBusy (s : State) (d : Shootdown) : Bool :=
  s.net.origs.any (fun r => d.hits r.asid (r.va / 2 ^ r.bits * 2 ^ r.bits) r.bits) || s.outs.any (s.lateLoadHit d) || s.groups.any (s.copyHit d)

/-- Remove what a shootdown names: the L1 lines, written back, and the translations of every unit. -/
def State.shootdown (s : State) (d : Shootdown) : State :=
  let s := s.dropLines d.hitsLine
  s.setMsys { s.msys with tlb := s.msys.tlb.filter fun t => !d.hits t.asid t.vbase t.bits }

/-- SHOOTDOWN_COMPLETE: the group that waits may issue again. -/
def execShootdownComplete (sid : Nat) (s : State) : Out :=
  match s.msys.shootdowns.find? fun d => d.sid = sid with
  | some d =>
    if s.shootdownBusy d then .next s
    else
      let s := s.shootdown d
      .next (s.setMsys { s.msys with shootdowns := s.msys.shootdowns.filter fun x => x.sid ≠ sid })
  | none => .next s

end Sys2Proof.Machine
end

