-- ==== Sys2Proof/Machine/Placement.lean ====
section
/-! DEFINITION. Effective priorities (R294, R295) and placement (R291 to R293, R300): what a core has free, where a
team or a cluster of teams goes, and the state in which its groups start (R70, R401, R410). -/

namespace Sys2Proof.Machine

/-! ## What the command processor reads -/

/-- The Treadle core of a die (R2). -/
def treadle (die : Nat) : Nat := 192 * die + 191
/-- Whether user teams may run on a core. -/
def userCore (core : Nat) : Bool := core % 192 ≠ 191

/-- The agent that a die's command processor is for a context; no L1 takes part. -/
def Ctx.cpAgent (c : Ctx) (die : Nat) : Agent := c.agent 1000 (firmwareUnit die)

/-- Bytes at a virtual address, if they can be read; reading them changes nothing. -/
def State.glance (s : State) (ag : Agent) (a n : Nat) : Option Nat :=
  match s.peekVa ag a n with
  | .ok (_, v) => some v
  | .error _ => none

/-! ## Effective priorities (R294, R295) -/

/-- The slots of a queue's ring. -/
def Queue.slots (q : Queue) : Nat := 2 ^ (q.log2sz - 6)
/-- The address of packet index `k` (R276). -/
def Queue.slotAddr (q : Queue) (k : Nat) : Nat := q.ring + 64 * (k % q.slots)

/-- The valid packets of a queue from index `k` up to the first slot whose V is 0. -/
def State.validFrom (s : State) (ag : Agent) (q : Queue) : Nat → Nat → List (List Byte)
  | 0, _ => []
  | n + 1, k =>
    match s.glance ag (q.slotAddr k) 64 with
    | some v => if v % 2 = 1 then bytesOf v 64 :: s.validFrom ag q n (k + 1) else []
    | none => []

/-- The valid packets of a queue that lie from RIDX on. -/
def State.unreached (s : State) (q : Queue) : List (List Byte) :=
  match s.ctx? q.ctxid with
  | some c => s.validFrom (c.cpAgent q.die) q q.slots q.ridx
  | none => []

/-- Fields of a packet (R277). -/
def packetOp (p : List Byte) : Nat := fieldOf p 1 1
/-- Where a packet's SIGNAL lies, if its type has one. -/
def packetSignal (p : List Byte) : Nat :=
  if packetOp p = 1 || packetOp p = 2 then fieldOf p 0x30 8 else if packetOp p = 3 then fieldOf p 0x38 8 else 0
/-- Where a packet's CREC lies, if its type has one. -/
def packetCrec (p : List Byte) : Nat := if packetOp p = 1 || packetOp p = 2 then fieldOf p 0x38 8 else 0
/-- The signals that a BARRIER_AND names. -/
def barrierSignals (p : List Byte) : List Nat := ((List.range 5).map fun i => fieldOf p (8 + 8 * i) 8).filter (· ≠ 0)

/-- The physical address of a signal of a context; 0 for none. -/
def State.signalPa (s : State) (ctx die a : Nat) : Nat :=
  if a = 0 then 0
  else match s.ctx? ctx with
    | some c => match s.pageOf (c.cpAgent die) a with | some (t, _) => t.pa a | none => 0
    | none => 0

/-- Effective priorities: of queues by QID, of launches by id. -/
structure Levels where
  queues : List (Nat × Nat)
  launches : List (Nat × Nat)
  deriving DecidableEq, Repr

def Levels.queue (v : Levels) (q : Nat) : Nat := ((v.queues.find? fun p => p.1 = q).map (·.2)).getD 0
def Levels.launch (v : Levels) (l : Nat) : Nat := ((v.launches.find? fun p => p.1 = l).map (·.2)).getD 0

/-- A BARRIER_AND that a queue waits in: the signals it names that are not 0 yet, as physical addresses. -/
def State.awaited (s : State) (q : Queue) : List Nat :=
  match q.waiting with
  | some p =>
    if packetOp p ≠ 3 then []
    else ((barrierSignals p).map fun a => s.signalPa q.ctxid q.die a).filter fun pa => pa ≠ 0 && s.field pa 8 ≠ 0
  | none => []

/-- The packets of a buffer that an INDIRECT packet has a queue read (R286) from where it stands on, up to the first whose V is 0: those
of the piece that has been read, and the rest as memory holds it. -/
def State.unreachedIndirect (s : State) (q : Queue) (i : Indirect) : List (List Byte) :=
  let behind := i.pieceAt + i.piece.length
  let rest := match s.ctx? q.ctxid with
    | some c => ((s.glance (c.cpAgent q.die) (i.addr + behind) (i.len - behind)).map fun v => bytesOf v (i.len - behind)).getD []
    | none => []
  let bs := (i.piece.drop (i.pos - i.pieceAt)) ++ rest
  ((List.range (bs.length / 64)).map fun k => (bs.drop (64 * k)).take 64).takeWhile fun p => fieldOf p 0 1 % 2 = 1

/-- The signals that a queue's packets decrement: the one it waits in, one whose decrement waits for its page (R283), and those not yet
reached in its ring or in a buffer. -/
def State.queueSignals (s : State) (q : Queue) : List Nat :=
  let ps := q.waiting.toList ++ (match q.indirect with | some i => s.unreachedIndirect q i | none => []) ++ s.unreached q
  ((ps.map packetSignal ++ q.held.toList).map fun a => s.signalPa q.ctxid q.die a).filter (· ≠ 0)

/-- The launch that a launch belongs to: the FRAME's own for what a frame launches. -/
def State.rootLaunch (s : State) (l : Launch) : Nat :=
  match l.kind.frame?.bind s.frame? with
  | some fr => fr.lid
  | none => l.lid

/-- One round of inheritance (R295). -/
def State.inherit (s : State) (v : Levels) : Levels :=
  let waits : List (Nat × Nat) := s.queues.flatMap fun q => (s.awaited q).map fun pa => (pa, v.queue q.qid)
  let raise (old : Nat) (signals : List Nat) : Nat := (waits.filter fun w => signals.contains w.1).foldl (fun m w => max m w.2) old
  { queues := s.queues.map fun q => (q.qid, raise (v.queue q.qid) (s.queueSignals q))
    launches := s.launches.map fun l =>
      let root := (s.launch? (s.rootLaunch l)).getD l
      (l.lid, raise (max (v.launch l.lid) (v.launch root.lid)) [s.signalPa root.ctx root.die root.signal]) }

/-- Inheritance is transitive: as many rounds as there are queues. -/
def inheritRounds (s : State) : Nat → Levels → Levels
  | 0, v => v
  | n + 1, v => inheritRounds s n (s.inherit v)

/-- The effective priorities. -/
def State.levels (s : State) : Levels :=
  inheritRounds s (s.queues.length + 1) ⟨s.queues.map fun q => (q.qid, q.prio), s.launches.map fun l => (l.lid, l.prio)⟩

/-! ## What a core has free (R73, R76, R78, R22, R201, R203) -/

/-- The harvest groups of a core, running or revoked. -/
def State.harvestOn (s : State) (core : Nat) : List Group :=
  s.groups.filter fun g => g.core = core && !g.ended && (s.team? g.tid).any fun t => t.harvest && (t.place = .running || t.place = .revoked)

/-- The words that a pad takes. -/
def Pad.words (p : Pad) : Nat := (p.ringBytes + p.len + 3) / 4
/-- Whether a pad takes any of some words of its core. -/
def Pad.meets (p : Pad) (base words : Nat) : Bool := p.base < base + words && base < p.base + p.words
/-- Whether a team runs on a pad. -/
def State.padLive (s : State) (p : Pad) : Bool := s.teams.any fun t => t.pad = p.pid && t.place = .running
/-- Whether a pad belongs to revoked teams alone: a frame pool that another team still runs on stays as it is (R439). -/
def State.padParked (s : State) (p : Pad) : Bool := (s.teams.any fun t => t.pad = p.pid && t.place = .revoked) && !s.padLive p

/-- Whether a team's groups still have work under way: results, far atomics, queue operations with their entries in scratchpad, engine
operations. -/
def State.underWay (s : State) (tid : Nat) : Bool :=
  (s.groupsOf tid).any fun g => g.copyOps ≠ [] || g.sampOps ≠ [] || g.rayOps ≠ [] || s.outs.any (fun r => r.gid = g.gid) || s.farBusy g

/-- Whether anything still refers to a pad: its own team or, through the CLUSTER window, another of its cluster (R164). -/
def State.padNeeded (s : State) (p : Pad) : Bool :=
  s.teams.any (fun t => t.pad = p.pid && (t.place = .running || t.place = .revoked ||
    s.teams.any fun u => u.lid = t.lid && u.clusterNo = t.clusterNo && s.underWay u.tid)) ||
  s.frames.any (fun f => f.pads.any fun x => x.2 = p.pid) ||
  s.gangs.any (fun x => x.ops.any fun o => o.pads.any fun y => y.2 = p.pid) ||
  s.contexts.any (fun c => c.streams.any fun x => x.ops.any fun o => o.pad = p.pid) ||
  s.clusters.any fun c => c.shadows.any fun x => x.pad = p.pid

/-- Free the pads of teams that have exited, once nothing refers to them. -/
def State.reapPads (s : State) : State := s.setPads (s.pads.filter s.padNeeded)

/-- Where an allocation of `words` may begin: the lowest multiple of 96 words that is free; a harvest team's lies wholly
within the lent spans, and an owner takes what revoked teams hold (R203, R300, R301). -/
def State.padBase (s : State) (core : Nat) (harvest : Bool) (lend words : Nat) : Option Nat :=
  let busy := s.pads.filter fun p => p.core = core && s.padNeeded p && (harvest || !s.padParked p)
  let lo := if harvest then (96 - lend) * 1024 else 0
  ((List.range 1024).map (96 * ·)).find? fun b => lo ≤ b && b + words ≤ 98304 && busy.all fun p => !p.meets b words

/-- What a team takes of a core. -/
structure Demand where
  groups : Nat
  regs : Nat
  /-- the bytes of the main file that its groups take at once (R74) -/
  now : Nat
  copies : Nat
  nbar : Nat
  words : Nat
  harvest : Bool
  deriving DecidableEq, Repr

/-- The bytes of a kernel's rings. -/
def KDesc.ringBytes (k : KDesc) : Nat := 512 * ((List.range 4).filter fun i => k.rings / 2 ^ i % 2 = 1).length

/-- Whether a launch's teams have the frame pool of their core as scratchpad (R409). -/
def LaunchKind.pooled : LaunchKind → Bool
  | .tiles _ _ => true
  | .fragment _ _ => true
  | _ => false

/-- What a new team of a launch takes. A fragment team shares the frame pool (R409). -/
def Launch.demand (l : Launch) (harvest : Bool) : Demand :=
  { groups := l.kd.ngroups, regs := allotRegs l.kd.allot, now := l.kd.ngroups * mainBytes (if harvest then allotRegs l.kd.allot else 8),
    copies := ((List.range l.kd.ngroups).filter fun g => (l.kd.role g).copies).length, nbar := l.kd.nbar,
    words := match l.kind with | .fragment _ _ => 0 | _ => (l.kd.ringBytes + l.kd.scratch) / 4, harvest := harvest }

/-- The reservation that a core belongs to (R299). -/
def State.reservation (s : State) (core : Nat) : Option Ctx := s.contexts.find? fun c => c.resv.contains (coreCluster core)

/-- Whether a launch is EXCLUSIVE (R281). -/
def Launch.exclusive (l : Launch) : Bool := l.lflags / 8 % 2 = 1
def Launch.bothDies (l : Launch) : Bool := l.lflags / 16 % 2 = 1

/-- Whether an EXCLUSIVE launch has placed an owner's team on a core (R301). -/
def State.exclusiveOn (s : State) (core : Nat) : Bool :=
  s.launches.any fun l => l.exclusive && l.cores.contains core && (s.reservation core).any fun c => c.ctxid = l.ctx

/-- COPY and ANY groups of a team that have not ended. -/
def State.teamCopies (s : State) (tid : Nat) : Nat := ((s.groupsOf tid).filter fun g => g.role.copies && !g.ended).length

/-- Whether a core has room for a team: the main file holds the full allotments of owner and ordinary teams, and for a
harvest team those of harvest teams too (R76, R78), and has the space that the team takes now; a harvest team takes no barrier or copy-engine context that a revoked one still
holds (R291, R300). -/
def State.hasRoom (s : State) (core : Nat) (d : Demand) : Bool :=
  let gs := s.groupsOn core
  let ts := s.teamsOn core
  let counted := gs.filter fun g => d.harvest || !s.isHarvest g
  let main := (counted.map fun g => mainBytes (s.fullAllot g)).sum + d.groups * mainBytes d.regs
  let parked := ((s.harvestOn core).map fun g => parkedBytes (s.fullAllot g)).sum + d.groups * parkedBytes d.regs
  let lend := ((s.reservation core).map (·.lend)).getD 0
  let held := s.teams.filter fun t => t.core = core && d.harvest && t.place = .revoked && t.lost = []
  let bars := ((ts ++ held).map (·.barriers.length)).sum
  let copies := (gs.filter fun g => g.role.copies).length + (held.map fun t => s.teamCopies t.tid).sum
  main ≤ 524288 && s.mainUsed core + d.now ≤ 524288 && bars + d.nbar ≤ 512 && copies + d.copies ≤ 16 &&
  (!d.harvest || (parked ≤ 98304 && !s.exclusiveOn core)) && (s.padBase core d.harvest lend d.words).isSome

/-- A group's seat on its core: issue slot, residency number (R73), position in the rotation of its issue slot (R90). -/
structure Seat where
  islot : Nat
  resid : Nat
  pos : Nat
  deriving DecidableEq, Repr

def Group.seat (g : Group) : Seat := ⟨g.islot, g.resid, g.pos⟩
def Group.sit (g : Group) (core : Nat) (p : Seat) : Group := { g with core := core, islot := p.islot, resid := p.resid, pos := p.pos }

/-- The lowest number below `n` that a list does not have. -/
def lowestBelow (n : Nat) (l : List Nat) : Option Nat := (List.range n).find? fun k => !l.contains k

/-- The seat that a new group takes, given those of the residents (R73). The spec asks only that the residency number be unique on the core
and the position fixed: the model takes the lowest that are free (log 95). -/
def pickSeat (res : List Seat) : Option Seat :=
  let on (i : Nat) : List Seat := res.filter fun p => p.islot = i
  let best := (List.range 4).foldl (fun b i => if (on i).length < (on b).length then i else b) 0
  match lowestBelow 48 (res.map (·.resid)), lowestBelow 12 ((on best).map (·.pos)) with
  | some r, some p => some ⟨best, r, p⟩
  | _, _ => none

/-- Seats for `n` new groups. -/
def pickSeats : Nat → List Seat → Option (List Seat)
  | 0, _ => some []
  | n + 1, res => match pickSeat res with
    | none => none
    | some p => (pickSeats n (res ++ [p])).map (p :: ·)

/-- Where a team goes on a core: the first word of its allocation and its groups' seats. -/
structure Berth where
  core : Nat
  base : Nat
  seats : List Seat
  deriving DecidableEq, Repr

def State.berth (s : State) (core : Nat) (d : Demand) : Option Berth :=
  if !s.hasRoom core d then none
  else match s.padBase core d.harvest (((s.reservation core).map (·.lend)).getD 0) d.words,
      pickSeats d.groups ((s.groupsOn core).map Group.seat) with
    | some b, some seats => some ⟨core, b, seats⟩
    | _, _ => none

/-! ## Which cores (R31, R291, R300) -/

/-- Whether a core is of the right kind for a context. -/
def State.coreKind (s : State) (c : Ctx) (core : Nat) : Bool :=
  userCore core &&
  (if c.cls = 3 then (s.reservation core).any fun o => o.lend ≠ 0
   else if c.resv ≠ [] then c.resv.contains (coreCluster core)
   else (s.reservation core).isNone)

/-- Whether a launch may run a team on a core. -/
def State.usable (s : State) (l : Launch) (core : Nat) : Bool :=
  (s.ctx? l.ctx).any fun c => s.coreKind c core && (match l.kind with
    | .tiles _ _ => l.cores.contains core
    | .fragment _ _ => l.cores.contains core
    | _ => l.bothDies || coreDie core = l.die)

/-- The cores of a die in rotation, from the one behind its previous placement (R291). -/
def rotation (die start : Nat) : List Nat := (List.range 192).map fun i => 192 * die + (start + i) % 192

/-- The cores that a launch's next team or cluster may take, in the order of the search: one list for each cluster in a
cluster launch, in one list otherwise. -/
def State.sites (s : State) (l : Launch) : List (List Nat) :=
  let dies := if l.bothDies then [l.die, 1 - l.die] else [l.die]
  let cores := (dies.flatMap fun d => rotation d (s.die d).rot).filter (s.usable l)
  match l.kind with
  | .tiles _ _ => [l.cores.filter (s.usable l)]
  | _ => if l.clsize = 0 then [cores] else (cores.map coreCluster).dedup.map fun k => cores.filter fun c => coreCluster c = k

/-! ## How a group starts (R70, R401, R410) -/

/-- G0 and G1 hold the argument block address; N, and G2 to G7, hold 0; K1 to K7 are false. -/
def Regs.start (args : Nat) : Regs :=
  { n := List.replicate 40 (List.replicate W 0), g := [BitVec.ofNat 32 args, BitVec.ofNat 32 (args / 2 ^ 32), 0, 0, 0, 0, 0, 0],
    k := BitVec.allOnes 64 :: List.replicate 7 0, pend := [] }

def Timeline.zero : Timeline := ⟨0, 0, []⟩
def TrapRec.zero : TrapRec := ⟨0, 0, 0, 0, 0, 0⟩

/-- A group that starts at an address with all lanes. -/
def Group.start (gid tid grpId : Nat) (role : Role) (core : Nat) (seat : Seat) (pc : Addr) (args : Nat) : Group :=
  { gid := gid, tid := tid, grpId := grpId, role := role, fw := false, core := core, islot := seat.islot, resid := seat.resid, pos := seat.pos,
    turn := 0, allot := 8,
    grown := false, localSlot := 0, mode := 0, regs := Regs.start args, slot0 := some (Slot.at pc (BitVec.allOnes 64) none), slot1 := none,
    q0 := [], q1 := [], dstack := [], oscount := 0, trap := TrapRec.zero, phase := .none, trapSlot := 0, arithSkip := [],
    quadFault := false, spanLost := [0, 0, 0], dissolved := false, yielded := false, relScope := none, lastRead := [], readIn := none, copy := Timeline.zero,
    samp := Timeline.zero, ray := Timeline.zero, gangTl := Timeline.zero, gang := none, copyOps := [], sampOps := [], rayOps := [],
    task := none, part := .none, vslots := [], eprims := [], emitErr := 0, helper := 0 }

/-- Registers N0 to N7 of a fragment group in lane `l` (R401). -/
def Frame.fragmentReg (fr : Frame) (b : Batch) (t : Tri) (w : View) (p : Warp) (r l : Nat) : Nat :=
  let q := (batchSamples b.quads).getD l (0, 0)
  let x := t.sampleWeights w p q.1 q.2
  let help := if b.covered.getLsbD l then 0 else 16
  let a := fr.recordOf b.pid
  [q.1 % 65536 + q.2 % 65536 * 65536, b.pid, b.view + help + (if t.front w then 32 else 0) + b.tile * 256, x.l1.toNat, x.l2.toNat, x.z.toNat,
    a % 2 ^ 32, a / 2 ^ 32].getD r 0

/-- A fragment group's differences from the start state of R70. -/
def State.startFragment (s : State) (fr : Frame) (b : Batch) (g : Group) : Group :=
  let lanes := maskOf (List.range (4 * b.quads.length))
  let g := { (g.setG 2 (BitVec.ofNat 32 b.strip)) with
    part := .fragment fr.fid b.bid, helper := lanes &&& ~~~b.covered, slot0 := g.slot0.map fun sl => { sl with mask := lanes } }
  match fr.tris.find? fun t => t.trid = b.tri, fr.views[b.view]?, s.warpOf fr b.view b.strip with
  | some t, some w, some p => (List.range 8).foldl (fun (g : Group) r => g.setN r lanes fun l => BitVec.ofNat 32 (fr.fragmentReg b t w p r l)) g
  | _, _, _ => g

/-- What the part of a frame that a group serves changes in its start. -/
def State.startPart (s : State) (l : Launch) (linear : Nat) (g : Group) : Group :=
  match l.kind with
  | .grid => g
  | .meshlets f => { g with part := .meshlet f (linear * l.kd.ngroups + g.grpId) }
  | .tiles f _ => { g.setG 2 0xFFFFFFFF with part := .tile f }
  | .fragment f b => match (s.frame? f).bind fun fr => (fr.batches.find? fun x => x.bid = b).map fun x => (fr, x) with
    | some (fr, x) => s.startFragment fr x g
    | none => g

/-- Where a group of a launch starts: its entry point. -/
def Launch.entryPc (l : Launch) : Addr := BitVec.ofNat 64 (l.kd.code + l.kd.entry)
/-- Its restart vector. -/
def Launch.restartPc (l : Launch) : Addr := BitVec.ofNat 64 (l.kd.code + l.kd.restart)

/-! ## Opening a team -/

/-- A barrier at placement (R180), a ring at placement (R183). -/
def Barrier.start (groups : Nat) : Barrier := ⟨groups, 0, 0, false, false⟩
def Ring.start : Ring := ⟨0, 0, List.replicate 8 false, List.replicate 8 (List.replicate 16 0), none⟩

/-- LOCAL slots that groups of a launch hold; a group keeps its slot while its team is saved or revoked. -/
def State.localSlots (s : State) (lid : Nat) : List Nat :=
  (s.groups.filter fun g => !g.ended && (s.team? g.tid).any fun t => t.lid = lid && t.place ≠ .gone && t.place ≠ .replay).map (·.localSlot)

/-- The lowest LOCAL slot that is free. -/
def State.freeLocal (s : State) (l : Launch) : Nat := ((List.range l.lslots).find? fun i => !(s.localSlots l.lid).contains i).getD 0

/-- Add the groups of a team. -/
def State.addGroups (s : State) (l : Launch) (t : Team) : List (Nat × Seat) → State
  | [] => s
  | (i, seat) :: r =>
    let (gid, s) := s.fresh
    let full := t.harvest || l.kd.allot = 0
    let g := Group.start gid t.tid i (l.kd.role i) t.core seat l.entryPc l.args
    let g := { g with allot := if full then allotRegs l.kd.allot else 8, grown := full, localSlot := s.freeLocal l }
    (s.addGroup (s.startPart l t.linear g)).addGroups l t r

/-- Add spans of a revoked team's allocation to those it has lost. -/
def Team.lose (t : Team) (spans : List Nat) : Team := { t with lost := (t.lost ++ spans).dedup }
/-- Every span of a pad, counted from its base. -/
def Pad.spans (p : Pad) : List Nat := List.range ((p.ringBytes + p.len + 4095) / 4096)

/-- The spans of a pad, counted from its base, that the reclaimed 4 KiB spans of its core overlap: those that `words`
from `base` touch. A pad that loses a ring loses every span (R301, R383). -/
def Pad.lostTo (p : Pad) (base words : Nat) : List Nat :=
  let lo := 4 * base / 4096 * 4096
  let hi := if words = 0 then lo else (4 * (base + words) + 4095) / 4096 * 4096
  let laps (a b : Nat) : Bool := a < b && a < hi && lo < b
  let at_ := 4 * p.base
  if laps at_ (at_ + p.ringBytes) then p.spans
  else p.spans.filter fun i => laps (at_ + 4096 * i) (min (at_ + 4096 * (i + 1)) (at_ + p.ringBytes + p.len))

/-- Accepted copy operations of a group end without further delivery: nobody waits on its counter (R301). -/
def Group.dropCopies (g : Group) : Group := { g with copy := ⟨g.copy.accepted, g.copy.accepted, []⟩, copyOps := [] }

/-- The revoked teams of a core, the most recently placed first. -/
def State.revokedOn (s : State) (core : Nat) : List Team :=
  sortDesc ((s.teams.filter fun t => t.core = core && t.place = .revoked))
where
  insertDesc (t : Team) : List Team → List Team
    | [] => [t]
    | u :: r => if u.admission < t.admission then t :: u :: r else u :: insertDesc t r
  sortDesc : List Team → List Team
    | [] => []
    | t :: r => insertDesc t (sortDesc r)

/-- An owner's team takes barriers or copy-engine contexts that revoked teams hold: the most recently placed lose
theirs, and with them every span, until the rest fits. A team without a span is marked by span 0, so that it restarts; the mark sets no
SPANLOST bit (log 107). -/
def State.loseUnits (s : State) (core : Nat) (d : Demand) : List Team → State
  | [] => s
  | t :: r =>
    let held := (s.teamsOn core ++ (s.revokedOn core).filter fun u => u.lost = [])
    let bars := (held.map (·.barriers.length)).sum + d.nbar
    let copies := (held.map fun u => s.teamCopies u.tid).sum + d.copies
    let s := if t.lost = [] && ((512 < bars && t.barriers ≠ []) || (16 < copies && s.teamCopies t.tid ≠ 0)) then
        let all := ((s.pad? t.pad).map (·.spans)).getD []
        (s.putTeam (t.lose (if all = [] then [0] else all))).setGroups
          (mapWhere (fun g => g.tid = t.tid && 16 < copies) Group.dropCopies s.groups)
      else s
    s.loseUnits core d r

/-- What an owner's team, with its allocation from `base`, takes from revoked teams of its core. -/
def State.reclaim (s : State) (core base : Nat) (d : Demand) : State :=
  let s := s.setTeams (mapWhere (fun (t : Team) => t.core = core && t.place = .revoked) (fun t =>
    match s.pad? t.pad with
    | some p => t.lose (p.lostTo base d.words)
    | none => t) s.teams)
  s.loseUnits core d (s.revokedOn core)

/-- The index of a team. -/
def Launch.index (l : Launch) (i : Nat) : Nat × Nat × Nat := (i % l.gx, i / l.gx % l.gy, i / (l.gx * l.gy))
def Launch.total (l : Launch) : Nat := l.gx * l.gy * l.gz

/-- The team of a launch that R94 killed and that will run again as index `i`. -/
def State.replayTeam (s : State) (lid i : Nat) : Option Team := s.teams.find? fun t => t.lid = lid && t.linear = i && t.place = .replay

/-- The save-area record of a team: the one it has, or a new one (R452); nothing where no space remains. -/
def State.teamRecord (s : State) (c : Ctx) (l : Launch) (i : Nat) : Option (Nat × State) :=
  match s.replayTeam l.lid i with
  | some t => some (t.recOff, s)
  | none =>
    let (x, y, z) := l.index i
    s.allocRecord c l.kd.recLen x y z l.kd.ngroups

/-- The frame pool of a core that is there already for a team of a launch (R409): a fragment team's, or that of a tile team which runs
again. -/
def State.poolOf (s : State) (l : Launch) (core : Nat) : Option Nat :=
  if l.kind.pooled then (l.kind.frame?.bind s.frame?).bind fun fr => fr.pool core else none

/-- What the next team of a launch takes: a tile team that runs again has its pool. -/
def State.demand (s : State) (l : Launch) (core : Nat) (harvest : Bool) : Demand :=
  if (s.poolOf l core).isSome then { l.demand harvest with words := 0 } else l.demand harvest

/-- The allocation of a team: the frame pool where there is one, a new one otherwise, which for a tile team becomes the frame pool. -/
def State.openPad (s : State) (l : Launch) (p : Berth) : Nat × State :=
  match s.poolOf l p.core with
  | some pid => (pid, s)
  | none =>
    let (pid, s) := s.fresh
    let s := s.addPad ⟨pid, p.core, p.base, l.kd.ringBytes, l.kd.scratch, []⟩
    (pid, match l.kind, l.kind.frame?.bind s.frame? with
      | .tiles _ _, some fr => s.putFrame { fr with pads := fr.pads ++ [(p.core, pid)] }
      | _, _ => s)

/-- A team has its room: those that its grid evicted for it may come back (R293). -/
def State.roomFound (s : State) (tid : Nat) : State :=
  s.setTeams (mapWhere (fun (u : Team) => u.evictedFor = some tid) (fun u => { u with evictedFor := none }) s.teams)

/-- Open team `i` of a launch at a spot. -/
def State.openTeam (s : State) (c : Ctx) (l : Launch) (i rank cl : Nat) (p : Berth) : Option State :=
  match s.teamRecord c l i with
  | none => none
  | some (off, s) =>
    let harvest := decide (c.cls = 3)
    let old := s.replayTeam l.lid i
    let s := if harvest then s else s.reclaim p.core p.base (s.demand l p.core harvest)
    let (pid, s) := s.openPad l p
    let (tid, s) := match old with | some t => (t.tid, s) | none => s.fresh
    let (adm, s) := s.fresh
    let (x, y, z) := l.index i
    let t : Team :=
      { tid := tid, lid := l.lid, ctx := c.ctxid, linear := i, ix := x, iy := y, iz := z, rank := rank, clusterNo := cl, core := p.core,
        pad := pid, place := .running, admission := adm, harvest := harvest, rings := List.replicate 4 Ring.start, ringMask := l.kd.rings % 16,
        barriers := List.replicate l.kd.nbar (Barrier.start l.kd.ngroups), preempt := none, timedOut := false, recOff := off,
        recLen := (match old with | some t => t.recLen | none => s.field (c.save + off) 4), stop := 0, revoked := 0, lost := [], evictedFor := none }
    let s := if old.isSome then ((s.roomFound tid).putTeam t).setGroups (s.groups.filter fun g => g.tid ≠ tid) else s.addTeam t
    let s := s.addGroups l t ((List.range l.kd.ngroups).zip p.seats)
    let s := match s.launch? l.lid with
      | some l => s.putLaunch { l with next := if old.isSome then l.next else l.next + 1,
                                       cores := if l.cores.contains p.core then l.cores else l.cores ++ [p.core] }
      | none => s
    some (s.modDie (coreDie p.core) fun d => { d with rot := (p.core + 1) % 192 })

/-! ## Placing the next team or cluster -/

/-- Teams in a placement unit of a launch. -/
def Launch.unit (l : Launch) : Nat := max 1 l.clsize
/-- The cluster that a team index belongs to, and its rank there (R292). -/
def Launch.clusterOf (l : Launch) (i : Nat) : Nat := i / l.unit
def Launch.rankOf (l : Launch) (i : Nat) : Nat := i % l.unit

/-- Whether a core can take a team of a launch of some rank: a tile team runs on the core whose COREID is its rank (R409). -/
def Launch.seatsRank (l : Launch) (core rank : Nat) : Bool := !l.isTiles || core % 4 = rank

/-- Place the teams of some indices on distinct cores of a list, in its order. -/
def State.openEach (s : State) (c : Ctx) (l : Launch) : List Nat → List Nat → Option State
  | [], _ => some s
  | _ :: _, [] => none
  | i :: is, core :: cores =>
    if !l.seatsRank core (l.rankOf i) then s.openEach c l (i :: is) cores
    else match (s.berth core (s.demand l core (c.cls = 3))).bind fun p => s.openTeam c l i (l.rankOf i) (l.clusterOf i) p with
      | some s => s.openEach c l is cores
      | none => s.openEach c l (i :: is) cores

/-- The indices of the teams that are placed next: of the first unit with teams to run again those teams, a member that has exited not among
them (R94); otherwise the next unit not started. -/
def State.nextTeams (s : State) (l : Launch) : List Nat :=
  match (s.teams.filter fun t => t.lid = l.lid && t.place = .replay).map (fun t => l.clusterOf t.linear) with
  | k :: r => ((List.range l.unit).map (r.foldl min k * l.unit + ·)).filter fun i => (s.replayTeam l.lid i).isSome
  | [] => if l.next < l.total then (List.range l.unit).map (l.next + ·) else []

/-- The teams of a launch that are resident. -/
def State.resident (s : State) (lid : Nat) : Nat := (s.teams.filter fun t => t.lid = lid && t.place = .running).length

/-- Whether TLIMIT lets `k` more teams of a launch be resident (R291). -/
def State.underLimit (s : State) (l : Launch) (k : Nat) : Bool := l.tlimit = 0 || s.resident l.lid + k ≤ l.tlimit

/-- The teams that are placed, stopped and resumed with a team: its cluster, or itself (R292). -/
def State.unitOf (s : State) (t : Team) : List Team := s.teams.filter fun u => u.lid = t.lid && u.clusterNo = t.clusterNo && u.place = t.place

/-- Whether LSLOTS lets the groups of `k` more teams be resident (R201). -/
def State.localRoom (s : State) (l : Launch) (k : Nat) : Bool :=
  l.lslots = 0 || (s.localSlots l.lid).length + k * l.kd.ngroups ≤ l.lslots

/-- Whether a launch waits for nothing but room to place a unit. -/
def State.wants (s : State) (l : Launch) : Bool :=
  let k := (s.nextTeams l).length
  !l.killed && k ≠ 0 && s.underLimit l k && s.localRoom l k &&
  (match l.kind with
   | .fragment f _ => (s.frame? f).any fun fr => l.cores.all fun k => (fr.pool k).isSome
   | _ => true)

/-- Place the next unit of a launch, where a site has room for all of it (R291, R292). -/
def State.placeNext (s : State) (l : Launch) : Option State :=
  match s.nextTeams l, s.ctx? l.ctx with
  | i :: is, some c =>
    let s := s.reapPads
    (s.sites l).findSome? fun cores => s.openEach c l (i :: is) cores
  | _, _ => none

/-- The die whose cores the next unit of a launch would be placed on: that of its first team. -/
def State.nextDie (s : State) (l : Launch) : Option Nat :=
  match s.placeNext l with
  | none => none
  | some s' => ((s.nextTeams l).head?.bind fun i => s'.teams.find? fun t => t.lid = l.lid && t.linear = i && t.place = .running).map fun t => coreDie t.core

/-! ## Order among launches (R293, R294) -/

/-- Whether a launch has a saved unit that TLIMIT lets it resume. -/
def State.hasSaved (s : State) (l : Launch) : Bool :=
  !l.killed && s.teams.any fun t => t.lid = l.lid && t.place = .saved && s.underLimit l (s.unitOf t).length

/-- Whether two launches compete for a core; a harvest launch is no rival of an owner's. -/
def State.rivals (s : State) (l m : Launch) : Bool :=
  ((s.ctx? l.ctx).any (fun c => c.cls = 3) || !(s.ctx? m.ctx).any (fun c => c.cls = 3)) &&
  (List.range 384).any fun k => s.usable l k && s.usable m k

/-- Whether another launch goes first: one of higher effective priority that waits for room, or, for an unstarted team, a
saved team of its level or higher. -/
def State.outranked (s : State) (v : Levels) (l : Launch) (resume : Bool) : Bool :=
  s.launches.any fun m =>
    s.rivals l m &&
    ((v.launch l.lid < v.launch m.lid && (s.wants m || s.hasSaved m)) ||
     (!resume && v.launch l.lid ≤ v.launch m.lid && s.hasSaved m))

/-- Whose turn it is in a round robin over numbers: the lowest above the last one served, else the lowest. -/
def nextTurn (last : Nat) (ks : List Nat) : Option Nat :=
  let low (l : List Nat) : Option Nat := match l with | [] => none | k :: r => some (r.foldl min k)
  match low (ks.filter fun k => last < k) with
  | some k => some k
  | none => low ks

/-- Whether a launch has a unit to run again, which has started before (R94). -/
def State.replays (s : State) (l : Launch) : Bool := s.teams.any fun t => t.lid = l.lid && t.place = .replay

/-- Whether a launch may place a unit now, but for room: the saved teams that come before unstarted ones do not come before one that runs
again. -/
def State.mayPlace (s : State) (v : Levels) (l : Launch) : Bool := s.wants l && !s.outranked v l (s.replays l)

end Sys2Proof.Machine
end

