-- ==== Sys2Proof/Machine/Preempt.lean ====
section
/-! DEFINITION. Pre-emption (R91 to R94, R293, R296): requests, the team record (R104, R105), gang images (R380), saving,
the window's end, resuming (R93, R381). -/

namespace Sys2Proof.Machine

/-! ## The unit that stops and resumes (R292) -/

/-- Whether a number is a team of a list. -/
def inTeams (us : List Team) (tid : Nat) : Bool := us.any fun u => u.tid = tid

/-! ## Requests (R91, R293, R296) -/

/-- Whether some team that runs is already asked to make room where a launch may run, and its window has not ended: one that goes on after
its window (R94) keeps no other team from being asked. -/
def State.askedFor (s : State) (l : Launch) : Bool :=
  s.teams.any fun t => t.place = .running && t.preempt.isSome && !t.timedOut && s.usable l t.core

/-- The teams that a launch may have pre-empted: of strictly lower effective priority, not harvest, on its cores. -/
def State.victims (s : State) (v : Levels) (l : Launch) : List Team :=
  s.teams.filter fun t => t.place = .running && !t.harvest && t.preempt.isNone && s.usable l t.core && v.launch t.lid < v.launch l.lid

/-- The one chosen: of the lowest level, the most recently placed. -/
def chooseVictim (v : Levels) (ts : List Team) : Option Team :=
  ts.foldl (fun (b : Option Team) t => match b with
    | none => some t
    | some u => if v.launch t.lid < v.launch u.lid || (v.launch t.lid = v.launch u.lid && u.admission < t.admission) then some t else some u) none

/-- Whether a slot is parked in WAITC, SRTAKE or TKGET (R293). -/
def Slot.spins (sl : Slot) : Bool :=
  match sl.park with
  | some (.waitc _ _) => true
  | some .srtake => true
  | some (.tkget _ _ _) => true
  | _ => false

/-- Whether a slot stops at once, or has stopped. -/
def stopsNow (o : Option Slot) : Bool := o.all fun sl => sl.stop.isSome || sl.park.any Park.stops

/-- Whether a team is parked in WAITC, SRTAKE or TKGET: a slot of it is, and no slot of it goes on (R274). -/
def State.teamParked (s : State) (tid : Nat) : Bool :=
  let gs := (s.groupsOf tid).filter fun g => !g.ended
  gs.any (fun g => g.slot0.any Slot.spins || g.slot1.any Slot.spins) && gs.all fun g => g.phase ≠ .none || (stopsNow g.slot0 && stopsNow g.slot1)

/-- Whether a launch has a team that has started and waits for room: a saved one, or one that R94 killed (R273). -/
def State.hasStarted (s : State) (l : Launch) : Bool :=
  s.hasSaved l || (!l.killed && s.replays l)

/-- The team of an ORDERED grid with a saved team that R293 names: the highest index parked in WAITC, SRTAKE or TKGET, its cluster with it
(R274). -/
def State.orderedVictim (s : State) (l : Launch) : Option Team :=
  if l.kd.gflags % 2 = 0 || !s.hasStarted l then none
  else
    let ts := s.teams.filter fun t => t.lid = l.lid && t.place = .running && t.preempt.isNone && (s.unitOf t).all fun u => s.teamParked u.tid
    ts.foldl (fun (b : Option Team) t => match b with | none => some t | some u => if u.linear < t.linear then some t else some u) none

/-- Every slot of a unit stops where it stands. -/
def State.settleUnit (s : State) (us : List Team) : State :=
  s.setGroups (mapWhere (fun (g : Group) => inTeams us g.tid && s.preempting g) Group.settle s.groups)

/-- The request reaches every core of the unit: parked slots stop at once. `need` is the team of its grid for which R293 evicts it. -/
def State.askUnit (s : State) (us : List Team) (need : Option Nat) : State :=
  let s := s.setTeams (mapWhere (fun (u : Team) => inTeams us u.tid)
    (fun u => { u with preempt := some (s.clock (coreDie u.core)), timedOut := false, evictedFor := need }) s.teams)
  s.settleUnit us

/-! ## The team record (R104, R105) -/

namespace KDesc

/-- Offsets of the parts of a team record. -/
def groupOff (k : KDesc) (i : Nat) : Nat := 64 + i * (10496 + 256 * allotRegs k.allot)
def ringOff (k : KDesc) (q : Nat) : Nat := k.groupOff k.ngroups + 576 * q
def barOff (k : KDesc) (i : Nat) : Nat := k.ringOff 4 + 16 * i
def engineOff (k : KDesc) (g : Nat) : Nat := k.barOff k.nbar + 64 * g
def scratchOff (k : KDesc) : Nat := k.engineOff k.ngroups

end KDesc

/-- The mask word at which a slot stopped; 0 for a slot that is not live (R38). -/
def stopMask (o : Option Slot) : Word := ((o.bind (·.stop))).getD 0

/-- NLIVE of both slots: whether register `r` is live. -/
def Group.nLive (g : Group) (r : Nat) : Bool := (stopMask g.slot0 ||| stopMask g.slot1).getLsbD (16 + r / 4)

/-- Whether any slot of a team's groups marks ring `q` live (R26). -/
def State.ringLive (s : State) (tid q : Nat) : Bool := (s.groupsOf tid).any fun g => (stopMask g.slot0 ||| stopMask g.slot1).getLsbD (28 + q)

/-- The phase at which a slot stopped in BARW after its arrival. -/
def Slot.barwPhase (sl : Slot) : Option Bool :=
  match sl.park with
  | some (.barw _ ph _) => some ph
  | _ => none

/-- A slot's 16 bytes, and its bits of STATE: live, stopped in BARW, PHASE, join. -/
def slotBytes (o : Option Slot) : List Byte :=
  match o with
  | some sl => bytesOf sl.pc.toNat 8 ++ bytesOf sl.mask.toNat 8
  | none => List.replicate 16 0
def slotState (o : Option Slot) (i : Nat) : Nat :=
  match o with
  | none => 0
  | some sl => 2 ^ i + (if sl.barwPhase.isSome then 2 ^ (2 + i) else 0) + (if sl.barwPhase = some true then 2 ^ (4 + i) else 0) +
      (match sl.join with | some j => (j + 64) * 2 ^ (8 + 8 * i) | none => 0)

/-- TMARK of a queue. -/
def tmark (q : List QEntry) : Nat := (q.mapIdx fun i e => if e.transient then 2 ^ i else 0).sum

/-- A queue's 4,096 bytes: entries that ALIVE does not mark are written as zeros. -/
def queueBytes (q : List QEntry) (alive : Word) : List Byte :=
  (List.range 16).flatMap fun i => match q[i]? with
    | some e => if alive.getLsbD i then e.vals.flatMap fun w => bytesOf w.toNat 4 else List.replicate 256 0
    | none => List.replicate 256 0

/-- A group record up to the divergence stack. -/
def Group.recordHead (g : Group) : List Byte :=
  g.trap.bytes ++ slotBytes g.slot0 ++ slotBytes g.slot1 ++ bytesOf (slotState g.slot0 0 + slotState g.slot1 1) 4 ++ bytesOf g.dsp 4 ++
  bytesOf g.mode.toNat 4 ++ bytesOf g.q0.length 1 ++ bytesOf g.q1.length 1 ++ bytesOf 0 2 ++ bytesOf (stopMask g.slot0).toNat 4 ++
  bytesOf (stopMask g.slot1).toNat 4 ++ bytesOf (tmark g.q0) 2 ++ bytesOf (tmark g.q1) 2 ++ bytesOf 0 4 ++
  g.regs.g.flatMap (fun w => bytesOf w.toNat 4) ++ ((List.range 8).flatMap fun k => bytesOf (g.kReg k).toNat 8) ++ bytesOf 0 64 ++
  queueBytes g.q0 (stopMask g.slot0) ++ queueBytes g.q1 (stopMask g.slot1)

/-- The N registers of a record: those that are not live are written as zeros. -/
def Group.recordRegs (g : Group) (n : Nat) : List Byte :=
  (List.range n).flatMap fun r =>
    if g.nLive r then (List.range W).flatMap fun l => bytesOf (g.nLane r l).toNat 4 else List.replicate 256 0

/-- A ring record; a ring that is not live is written as zeros. -/
def Ring.bytes (r : Ring) : List Byte :=
  bytesOf r.head 1 ++ bytesOf r.count 1 ++ bytesOf ((r.phases.mapIdx fun i p => if p then 2 ^ i else 0).sum) 1 ++ List.replicate 61 0 ++
  r.slots.flatMap fun ws => ws.flatMap fun w => bytesOf w.toNat 4

/-- A barrier record. -/
def Barrier.bytes (b : Barrier) : List Byte :=
  bytesOf b.expect 4 ++ bytesOf b.arrived 4 ++ bytesOf (unsignedOf 32 b.balance) 4 ++
  bytesOf ((if b.phase then 1 else 0) + (if b.posted then 2 else 0)) 4

/-- The members of a group's gang, as cores of the cluster (R104, R364). -/
def State.gangMask (s : State) (g : Group) : Nat :=
  match s.gangOf g with
  | some x => (s.gangCores x).foldl (fun m k => m ||| 2 ^ (k % 4)) 0
  | none => 0

/-- A group's engine record. -/
def State.engineBytes (s : State) (g : Group) : List Byte :=
  bytesOf g.copy.counter 8 ++ bytesOf g.samp.counter 8 ++ bytesOf g.ray.counter 8 ++ bytesOf g.gangTl.counter 8 ++
  bytesOf g.gangTl.accepted 4 ++ bytesOf (s.gangMask g) 1 ++ List.replicate 27 0

/-- Why a team stopped: 2 a trap, 1 a wait, 0 safe points. R104 does not say what stands there where the slots of a team stopped for
different reasons: the model gives 2 before 1 before 0 (log 108). -/
def State.stopCode (s : State) (tid : Nat) : Nat :=
  let gs := s.groupsOf tid
  if gs.any fun g => g.phase ≠ .none then 2
  else if gs.any fun g => g.slot0.any (fun sl => sl.park.isSome) || g.slot1.any (fun sl => sl.park.isSome) then 1 else 0

/-- The header of a team record. -/
def Team.header (t : Team) (k : KDesc) (stop : Nat) : List Byte :=
  bytesOf t.recLen 4 ++ bytesOf t.ix 4 ++ bytesOf t.iy 4 ++ bytesOf t.iz 4 ++ bytesOf k.ngroups 2 ++ bytesOf k.allot 1 ++ bytesOf (k.rings % 16) 1 ++
  bytesOf k.nbar 2 ++ bytesOf stop 1 ++ bytesOf 0 1 ++ bytesOf k.scratch 4 ++ List.replicate 36 0

/-- Write bytes one after another, or nothing. -/
def State.writeIf (s : State) (a : Nat) (v : List Byte) : State := if v = [] then s else (s.touchRange (firmwareUnit 0) a v.length).writeHome a v

/-- Write a team's record (R104 to R106); the divergence stacks lie there already. -/
def State.writeRecord (s : State) (c : Ctx) (l : Launch) (t : Team) : State :=
  let b := c.save + t.recOff
  let k := l.kd
  let s := (s.touchRange (coreCluster t.core) b t.recLen).writeHome b (t.header k (s.stopCode t.tid))
  let s := (s.groupsOf t.tid).foldl (fun (s : State) g =>
    let a := b + k.groupOff g.grpId
    let s := s.writeHome a g.recordHead
    let s := s.writeHome (a + 0x2900) (g.recordRegs (allotRegs k.allot))
    s.writeHome (b + k.engineOff g.grpId) (s.engineBytes g)) s
  let s := (List.range 4).foldl (fun (s : State) q =>
    let live := t.ringMask / 2 ^ q % 2 = 1 && s.ringLive t.tid q
    s.writeHome (b + k.ringOff q) (if live then (t.rings.getD q Ring.start).bytes else List.replicate 576 0)) s
  let s := s.writeIf (b + k.barOff 0) (t.barriers.flatMap Barrier.bytes)
  s.writeIf (b + k.scratchOff) (s.padBytes t.pad 0 k.scratch ++ List.replicate (t.recLen - (k.scratchOff + k.scratch)) 0)

/-! ## Gang images (R380) -/

/-- The bytes of a held operation: its header and the B parts of its members, in member order. -/
def GangOp.image (o : GangOp) : List Byte :=
  let members := (List.range 4).filter fun i => o.by_.contains i
  let part (i : Nat) : List Byte := ((o.parts.find? fun p => p.1 = i).map (·.2)).getD []
  let addr (i : Nat) : Nat := ((o.addrs.find? fun p => p.1 = i).map (·.2.toNat)).getD 0
  bytesOf o.insn.toNat 4 ++ bytesOf o.k 4 ++ bytesOf ((members.map fun i => 2 ^ i).sum) 1 ++ bytesOf 0 3 ++
  bytesOf (((o.parts.head?).map fun p => p.2.length).getD 0) 4 ++ ((List.range 4).flatMap fun i => bytesOf (addr i) 8) ++ bytesOf 0 16 ++
  members.flatMap part

/-- The bytes of a gang image; `ix` is the index of its cluster's rank-0 team. -/
def Gang.image (x : Gang) (ix : Nat × Nat × Nat) : List Byte :=
  let ops := x.ops.flatMap GangOp.image
  bytesOf x.word.toNat 4 ++ bytesOf x.ops.length 4 ++ bytesOf (64 + ops.length) 4 ++
  bytesOf ((x.joined.map fun p => 2 ^ p.1).sum) 1 ++ bytesOf 0 3 ++ bytesOf ix.1 4 ++ bytesOf ix.2.1 4 ++ bytesOf ix.2.2 4 ++ List.replicate 36 0 ++ ops

/-- The rank-0 team of a gang's cluster launch, which may have exited. -/
def State.rankZero (s : State) (x : Gang) : Option Team := s.teams.find? fun t => t.lid = x.lid && t.clusterNo = x.clusterNo && t.rank = 0

/-- The gangs of a context whose cluster is saved. -/
def State.savedGangs (s : State) (ctx : Nat) : List Gang :=
  s.gangs.filter fun x => x.ctx = ctx && s.teams.any fun t => t.lid = x.lid && t.clusterNo = x.clusterNo && t.place = .saved

/-- A gang image as the spill area of a context holds it: the gang, its address, its bytes. -/
structure HeldImage where
  gid : Nat
  addr : Nat
  bytes : List Byte
  deriving DecidableEq, Repr

/-- The images of some gangs, one behind the other from an address on, each as long as its LEN says. -/
def State.imagesFrom (s : State) : List Gang → Nat → List HeldImage
  | [], _ => []
  | x :: xs, a =>
    let n := s.field (a + 8) 4
    ⟨x.gid, a, Memory.read s.mem a n⟩ :: s.imagesFrom xs (a + n)

/-- Where a context's gang images begin (R379). -/
def Ctx.imageBase (c : Ctx) : Nat := c.save + spillOff + spillSlot c.nslot

/-- The images that a context's spill area holds. -/
def State.heldImages (s : State) (c : Ctx) : List HeldImage := s.imagesFrom (s.savedGangs c.ctxid) c.imageBase

/-- The images that a context's spill area is to hold: those it held before, as they lie there, and those of gangs saved since. -/
def State.gangImages (s : State) (ctx : Nat) (held : List HeldImage) : List Byte :=
  (s.savedGangs ctx).flatMap fun x => match held.find? fun h => h.gid = x.gid with
    | some h => h.bytes
    | none => x.image (((s.rankZero x).map fun t => (t.ix, t.iy, t.iz)).getD (0, 0, 0))

/-- Write the gang images of a context and their count. -/
def State.writeImages (s : State) (c : Ctx) (held : List HeldImage) : State :=
  let s := s.setField (c.save + spillOff + 4) 4 (s.savedGangs c.ctxid).length
  s.writeIf c.imageBase (s.gangImages c.ctxid held)

/-- A held operation from its image at an address, and where the next one begins. The image has no scale vector, which was copied at issue
too, and no pad of a block: the engine keeps them (log 57). -/
def State.loadOp (s : State) (old : List GangOp) (a : Nat) : GangOp × Nat :=
  let w : Word := BitVec.ofNat 32 (s.field a 4)
  let k := s.field (a + 4) 4
  let bb := s.field (a + 0xC) 4
  let ms := (List.range 4).filter fun i => s.field (a + 8) 1 / 2 ^ i % 2 = 1
  let kept := old.find? fun o => o.k = k
  ({ k := k, insn := w, op := opOf w, t := w.toNat / 2 ^ 16 % 64, x := w.toNat % 16, by_ := ms,
     addrs := ms.map fun i => (i, BitVec.ofNat 64 (s.field (a + 0x10 + 8 * i) 8)), pads := (kept.map (·.pads)).getD [],
     parts := ms.mapIdx fun j i => (i, Memory.read s.mem (a + 64 + bb * j) bb), scale := (kept.map (·.scale)).getD [] }, a + 64 + bb * ms.length)

/-- `n` held operations from their images. -/
def State.loadOps (s : State) (old : List GangOp) : Nat → Nat → List GangOp
  | 0, _ => []
  | n + 1, a =>
    let (o, b) := s.loadOp old a
    o :: s.loadOps old n b

/-- The group that a gang's word lists as a member. -/
def State.listedGroup (s : State) (x : Gang) (i : Nat) : Option Nat :=
  let p := gangMember x.word.toNat i
  ((s.teams.find? fun t => t.lid = x.lid && t.clusterNo = x.clusterNo && t.rank = p.1).bind fun t =>
    (s.groupsOf t.tid).find? fun g => g.grpId = p.2).map (·.gid)

/-- A gang rebuilt from its image at an address (R380). The image does not say how many members a word lists, who has left, and whether the
context is closed: the engine keeps that (log 57). -/
def State.loadGang (s : State) (x : Gang) (a : Nat) : Gang :=
  let y := { x with word := BitVec.ofNat 32 (s.field a 4) }
  let joined := (List.range 4).filterMap fun i =>
    if s.field (a + 0xC) 1 / 2 ^ i % 2 = 1 then (s.listedGroup y i).map fun g => (i, g) else none
  { y with joined := joined, formed := joined.length = x.size, ops := s.loadOps x.ops (s.field (a + 4) 4) (a + 64) }

/-- The gangs of a unit are rebuilt from their images, before any member issues. -/
def State.rebuildGangs (s : State) (us : List Team) (held : List HeldImage) : State :=
  held.foldl (fun (s : State) h => match s.gang? h.gid with
    | some x => if us.any fun t => t.lid = x.lid && t.clusterNo = x.clusterNo then s.putGang (s.loadGang x h.addr) else s
    | none => s) s

/-! ## Saving (R93) -/

/-- Whether every live slot of a group has stopped. -/
def Group.stopped (g : Group) : Bool := g.slot0.all (·.stop.isSome) && g.slot1.all (·.stop.isSome)

/-- Whether every slot of a group has stopped, or stands where a request stops it at once. -/
def Group.halts (g : Group) : Bool := g.stopped || (!g.emitting && g.settle.stopped)

/-- Whether every slot of a unit has stopped. A unit that goes on after its window stops again where a slot stands at a stop point (R91, R94). -/
def State.unitStopped (s : State) (us : List Team) : Bool :=
  us.all fun t => t.preempt.isSome && (s.groupsOf t.tid).all Group.halts

/-- Whether the unit's results have returned and its engine contexts have completed what they accepted; gang operations
that wait for a member stay held. -/
def State.unitDrained (s : State) (us : List Team) : Bool :=
  us.all (fun t => (s.groupsOf t.tid).all fun g =>
    s.outs.all (fun r => r.gid ≠ g.gid) && !s.farBusy g && g.copyOps = [] && g.sampOps = [] && g.rayOps = []) &&
  s.gangs.all (fun x => us.all (fun t => x.lid ≠ t.lid || x.clusterNo ≠ t.clusterNo) || x.ops.all fun o => !x.eligible o) &&
  us.all fun t => s.clusters.all (fun c => c.shadows.all fun x => x.pad ≠ t.pad) &&
    s.contexts.all fun c => c.streams.all fun x => x.ops.all fun o => o.pad ≠ t.pad

/-- Watches of a group's slots. -/
def Monitor.isGroup (gid : Nat) (m : Monitor) : Bool :=
  match m.who with
  | .waitc g _ => g = gid
  | .tkget g _ => g = gid
  | _ => false

/-- A team leaves its core: the core writes back what it holds dirty for the context's ASID (R249), the team is saved, and its resources
are free. -/
def State.leaveCore (s : State) (c : Ctx) (l : Launch) (t : Team) : State :=
  let s := s.cleanLines fun x => x.core = t.core && x.asid = c.asid
  let s := s.dropMonitors fun m => (s.groupsOf t.tid).any fun g => m.isGroup g.gid
  let s := s.putTeam { t with place := .saved, preempt := none, timedOut := false, stop := s.stopCode t.tid }
  if l.kind.pooled then s else s.dropPad t.pad

/-- Save a unit. -/
def State.saveUnit (s : State) (c : Ctx) (l : Launch) (us : List Team) : State :=
  let held := s.heldImages c
  let s := s.settleUnit us
  let s := us.foldl (fun (s : State) t => s.writeRecord c l t) s
  (us.foldl (fun (s : State) t => s.leaveCore c l t) s).writeImages c held

/-- Whether the gang images of a unit fit beside those that the context's spill area holds (R380). -/
def State.imagesFit (s : State) (c : Ctx) (us : List Team) : Bool :=
  let saved := s.setTeams (mapWhere (fun (t : Team) => inTeams us t.tid) (fun t => { t with place := .saved }) s.teams)
  (saved.gangImages c.ctxid (s.heldImages c)).length ≤ c.gimgBytes

/-- TEAM_SAVE: a unit that has stopped and drained is saved, unless its gang images do not fit (R380). -/
def execTeamSave (tid : Nat) (s : State) : Out :=
  match s.team? tid with
  | none => .next s
  | some t =>
    let us := s.unitOf t
    match s.launch? t.lid, s.ctx? t.ctx with
    | some l, some c =>
      if t.place = .running && s.unitStopped us && s.unitDrained us && s.imagesFit c us then .next (s.saveUnit c l us) else .next s
    | _, _ => .next s

/-! ## The window's end (R94) -/

def preemptWindow : Nat := 20000

/-- A result of a group is given up; the indexes that it holds are not (R268), nor is the entry that a TKGET dequeues. -/
def State.orphanOut (s : State) (g : Group) (r : Outst) : State :=
  let (s, os) := match r.kind with
    | .queue ws => s.orphansOf g false ws
    | .tkget w => s.orphansOf g true (if r.left = 0 then [] else [w])
    | _ => (s, [])
  if os = [] then s.dropOut r.oid else s.putOut { r with gid := 0, left := 1, mask := 0, kind := .orphan (s.ctxIdOf g) g.core os }

/-- A group's results are given up, but for the task work under way if `tasks`. -/
def State.orphanOuts (s : State) (tasks : Bool) (g : Group) : State :=
  (s.outs.filter fun r => r.gid = g.gid && !(tasks && r.kind.work?.isSome)).foldl (fun (s : State) r => s.orphanOut g r) s

/-- Discard a team's groups, results and operations, as a kill does; it runs again from its entry. Members leave their
gangs as on a restart (R382) and their tasks as at an end (R309); a fragment batch loses its held blends (R406), and what its meshlet groups
have committed is gone (R393). -/
def State.killTeam (s : State) (t : Team) (place : TeamPlace) : State :=
  let gs := s.groupsOf t.tid
  let s := gs.foldl (fun (s : State) g => (s.leaveTask { g with task := s.taskOf g }).leaveGang g.gid .restart) s
  let s := gs.foldl (State.orphanOuts · true) s
  let s := gs.foldl (fun (s : State) g => match g.part with
    | .fragment f b => match s.frame? f with
      | some fr => s.putFrame { fr with blends := fr.blends.filter fun x => x.batch ≠ b }
      | none => s
    | .meshlet f m => match s.frame? f with
      | some fr => s.putFrame (fr.uncommit fun k => k = m)
      | none => s
    | _ => s) s
  let s := s.dropMonitors fun m => gs.any fun g => m.isGroup g.gid
  let s := s.setGroups (s.groups.map fun g => if g.tid = t.tid then
    { g with slot0 := none, slot1 := none, q0 := [], q1 := [], dstack := [], copyOps := [], sampOps := [], rayOps := [], task := none,
             vslots := [], eprims := [], emitErr := 0, phase := .none } else g)
  s.putTeam { t with place := place, preempt := none, timedOut := false }

/-- Whether a unit has come to its stop (R92, R93): every slot has stopped, every result has returned, and its gang images fit. -/
def State.unitHalted (s : State) (c : Ctx) (us : List Team) : Bool :=
  s.unitStopped us && us.all (fun t => (s.groupsOf t.tid).all fun g => s.outs.all (fun r => r.gid ≠ g.gid) && !s.farBusy g) && s.imagesFit c us

/-- A slot that goes on in place: in a rendezvous or at a GANG it issues its instruction again. -/
def Slot.unpark (sl : Slot) : Slot :=
  match sl.park with
  | some (.rgrp _ _ _ _) => { sl.rewind with park := none }
  | some .gang => { sl.rewind with park := none }
  | _ => sl

/-- A group whose stopped slots go on in place; one that stopped in BARW goes on behind it if the phase has changed (R91). -/
def Group.goOnInPlace (g : Group) (bars : List Barrier) : Group :=
  let f (o : Option Slot) : Option Slot := o.map fun sl =>
    if sl.stop.isNone then sl
    else
      let sl := { sl with stop := none }.unpark
      match sl.park with
      | some (.barw b ph len) => if (bars[b]?).any fun x => x.phase = ph then sl else sl.goTo (sl.pc + BitVec.ofNat 64 len)
      | _ => sl
  { g with slot0 := f g.slot0, slot1 := f g.slot1 }

/-- A unit goes on after its window: what has stopped goes on too, and the request stands, with a new window. -/
def State.goOnUnit (s : State) (us : List Team) : State :=
  let s := us.foldl (fun (s : State) u => s.setGroups (mapWhere (fun (g : Group) => g.tid = u.tid) (fun g => g.goOnInPlace u.barriers) s.groups)) s
  s.setTeams (mapWhere (fun (u : Team) => inTeams us u.tid) (fun u => { u with preempt := some (s.clock (coreDie u.core)), timedOut := true }) s.teams)

/-- PREEMPT_TIMEOUT: a unit that has not stopped within the window is killed and run again if its grid is REPLAYABLE; any
other goes on, and the request stands. -/
def execPreemptTimeout (tid : Nat) (s : State) : Out :=
  match s.team? tid with
  | none => .next s
  | some t =>
    let us := s.unitOf t
    match t.preempt, s.launch? t.lid, s.ctx? t.ctx with
    | some at_, some l, some c =>
      if t.place ≠ .running || s.clock (coreDie t.core) < at_ + preemptWindow || s.unitHalted c us then .next s
      else if l.kd.gflags / 2 % 2 = 1 then
        let s := us.foldl (fun (s : State) u => s.killTeam u .replay) s
        let s := match s.launch? l.lid with | some l => s.putLaunch { l with replayed := true } | none => s
        .next s.reapPads
      else .next (s.goOnUnit us)
    | _, _, _ => .next s

/-! ## Resuming (R93, R381) -/

/-- Words of memory. -/
def State.words (s : State) (a n : Nat) : List Word := (List.range n).map fun i => BitVec.ofNat 32 (s.field (a + 4 * i) 4)

/-- A slot as the record at `a` holds it. A slot that stopped in BARW after its arrival goes on if the phase has changed, else
it parks for the same phase; `old` is what it was parked in. -/
def State.loadSlot (s : State) (a i : Nat) (old : Option Slot) (bars : List Barrier) : Option Slot :=
  let st := s.field (a + 0x40) 4
  if st / 2 ^ i % 2 = 0 then none
  else
    let j := st / 2 ^ (8 + 8 * i) % 128
    let sl := Slot.at (BitVec.ofNat 64 (s.field (a + 0x20 + 16 * i) 8)) (BitVec.ofNat 64 (s.field (a + 0x28 + 16 * i) 8))
      (if 64 ≤ j then some (j - 64) else none)
    if st / 2 ^ (2 + i) % 2 = 0 then some sl
    else
      let ph := decide (st / 2 ^ (4 + i) % 2 = 1)
      match old.bind (·.park) with
      | some (.barw bar _ len) =>
        if (bars[bar]?).any fun b => b.phase = ph then some { sl with park := some (.barw bar ph len) }
        else some { sl with pc := sl.pc + BitVec.ofNat 64 len }
      | _ => some sl

/-- A queue as the record holds it. -/
def State.loadQueue (s : State) (a i : Nat) : List QEntry :=
  let marks := s.field (a + 0x58 + 2 * i) 2
  (List.range (s.field (a + 0x4C + i) 1)).map fun k => ⟨s.words (a + 0x100 + 0x1000 * i + 256 * k) W, none, false, marks / 2 ^ k % 2 = 1⟩

/-- A trap record as memory holds it. -/
def State.loadTrap (s : State) (a : Nat) : TrapRec :=
  ⟨s.field a 2, s.field (a + 2) 2, BitVec.ofNat 32 (s.field (a + 4) 4), BitVec.ofNat 64 (s.field (a + 8) 8),
   BitVec.ofNat 64 (s.field (a + 0x10) 8), BitVec.ofNat 64 (s.field (a + 0x18) 8)⟩

/-- A counter whose operations are all complete. -/
def Timeline.at (n : Nat) : Timeline := ⟨n, n, []⟩

/-- A group from its record at `a` and its engine record at `e`. Which numbers above its gang's counter are performed or discarded no image
says: the engine keeps that (log 57). -/
def State.loadGroup (s : State) (g : Group) (a e n : Nat) (bars : List Barrier) : Group :=
  let regs : Regs :=
    { n := (List.range 40).map fun r => if r < n then s.words (a + 0x2900 + 256 * r) W else List.replicate W 0
      g := s.words (a + 0x60) 8
      k := (List.range 8).map fun k => BitVec.ofNat 64 (s.field (a + 0x80 + 8 * k) 8)
      pend := [] }
  { g with
    trap := s.loadTrap a, slot0 := s.loadSlot a 0 g.slot0 bars, slot1 := s.loadSlot a 1 g.slot1 bars,
    dstack := (List.range (s.field (a + 0x44) 4)).map fun i => s.loadEntry (a + 0x2100 + 32 * i),
    mode := BitVec.ofNat 32 (s.field (a + 0x48) 4), q0 := s.loadQueue a 0, q1 := s.loadQueue a 1, regs := regs, oscount := 0,
    copy := Timeline.at (s.field e 8), samp := Timeline.at (s.field (e + 8) 8), ray := Timeline.at (s.field (e + 0x10) 8),
    gangTl := ⟨s.field (e + 0x20) 4, s.field (e + 0x18) 8, g.gangTl.done⟩ }

/-- A ring and a barrier from their records. -/
def State.loadRing (s : State) (a : Nat) : Ring :=
  ⟨s.field a 1, s.field (a + 1) 1, (List.range 8).map fun i => s.field (a + 2) 1 / 2 ^ i % 2 = 1, (List.range 8).map fun i => s.words (a + 0x40 + 64 * i) 16, none⟩
def State.loadBarrier (s : State) (a : Nat) : Barrier :=
  ⟨s.field a 4, s.field (a + 4) 4, signedOf 32 (s.field (a + 8) 4), s.field (a + 12) 1 % 2 = 1, s.field (a + 12) 1 / 2 % 2 = 1⟩

/-- What a saved team takes of a core: its groups that have not ended, each with the registers that it has. -/
def State.savedDemand (s : State) (l : Launch) (t : Team) : Demand :=
  let gs := (s.groupsOf t.tid).filter fun g => !g.ended
  { l.demand t.harvest with groups := gs.length, now := (gs.map fun g => mainBytes g.allot).sum, copies := (gs.filter fun g => g.role.copies).length,
                            words := if l.kind.pooled then 0 else (l.demand t.harvest).words }

/-- Seat the groups of a team, those that have not ended taking seats in order. -/
def seatGroups (core : Nat) (f : Group → Group) : List Seat → List Group → List Group
  | _, [] => []
  | [], g :: gs => f { g with core := core } :: seatGroups core f [] gs
  | p :: ps, g :: gs =>
    if g.ended then f { g with core := core } :: seatGroups core f (p :: ps) gs
    else f (g.sit core p) :: seatGroups core f ps gs

/-- Store a list of groups. -/
def State.putGroups (s : State) (gs : List Group) : State := gs.foldl (fun (s : State) g => s.putGroup g) s

/-- The notices of some groups pass from one die's firmware to the other's. -/
def State.moveNotices (s : State) (from_ to_ : Nat) (gids : List Nat) : State :=
  let moved := (s.die from_).notices.filter gids.contains
  (s.modDie from_ fun d => { d with notices := d.notices.filter fun g => !gids.contains g }).modDie to_ fun d => { d with notices := d.notices ++ moved }

/-- Restore a saved team at a berth (R93). -/
def State.restoreTeam (s : State) (c : Ctx) (l : Launch) (t : Team) (p : Berth) : State :=
  let b := c.save + t.recOff
  let k := l.kd
  let s := s.touchRange (coreCluster p.core) b t.recLen
  let bars := (List.range t.barriers.length).map fun i => s.loadBarrier (b + k.barOff i)
  let rings := (List.range 4).map fun q => s.loadRing (b + k.ringOff q)
  let gs := seatGroups p.core (fun g => s.loadGroup g (b + k.groupOff g.grpId) (b + k.engineOff g.grpId) (allotRegs k.allot) bars) p.seats (s.groupsOf t.tid)
  let image := Memory.read s.mem (b + k.scratchOff) k.scratch
  let s := if t.harvest then s else s.reclaim p.core p.base (s.savedDemand l t)
  let s := if l.kind.pooled then s
    else s.addPad ⟨t.pad, p.core, p.base, k.ringBytes, k.scratch, Memory.write [] 0 image⟩
  let (adm, s) := s.fresh
  let s := (s.roomFound t.tid).putTeam { t with core := p.core, place := .running, admission := adm, rings := rings, barriers := bars, stop := 0, evictedFor := none }
  let s := s.setGangs (mapWhere (fun (x : Gang) => x.lid = t.lid && x.clusterNo = t.clusterNo) (fun x => { x with cluster := coreCluster p.core }) s.gangs)
  let s := match s.launch? l.lid with
    | some l => s.putLaunch { l with cores := if l.cores.contains p.core then l.cores else l.cores ++ [p.core] }
    | none => s
  let s := (s.putGroups gs).modDie (coreDie p.core) fun d => { d with rot := (p.core + 1) % 192 }
  if coreDie p.core = coreDie t.core then s else s.moveNotices (coreDie t.core) (coreDie p.core) (gs.map (·.gid))

/-- Whether a saved team must go back to its cluster: it has a MATRIX or ANY group and its context owns a tile there (R381). -/
def State.tiedToCluster (s : State) (l : Launch) (t : Team) : Bool :=
  ((List.range l.kd.ngroups).any fun g => (l.kd.role g).matrices) && (s.cluster (coreCluster t.core)).tiles.any fun x => x.owner = some t.ctx

/-- The cores that a saved unit may resume on, in the order of the search; a team whose scratchpad is a frame pool stays on
its core. -/
def State.resumeSites (s : State) (l : Launch) (us : List Team) : List (List Nat) :=
  if l.kind.pooled then [us.map (·.core)]
  else
    let tied := us.any (s.tiedToCluster l)
    (s.sites l).map fun cores => cores.filter fun k => !tied || us.any fun t => coreCluster t.core = coreCluster k

/-- Restore teams on distinct cores of a list, in its order. -/
def State.restoreEach (s : State) (c : Ctx) (l : Launch) : List Team → List Nat → Option State
  | [], _ => some s
  | _ :: _, [] => none
  | t :: ts, core :: cores =>
    match s.berth core (s.savedDemand l t) with
    | some p => (s.restoreTeam c l t p).restoreEach c l ts cores
    | none => s.restoreEach c l (t :: ts) cores

/-- Resume a saved unit where a site has room for all of it. -/
def State.resumeUnit (s : State) (c : Ctx) (l : Launch) (us : List Team) : Option State :=
  let held := s.heldImages c
  let s := held.foldl (fun (s : State) h => s.touchRange (firmwareUnit 0) h.addr h.bytes.length) s
  ((s.resumeSites l us).findSome? fun cores => s.reapPads.restoreEach c l us cores).map fun s => (s.rebuildGangs us held).writeImages c held

/-- Whether a unit was evicted for a team of its grid that still waits for room: it does not take that room again (R97, R273, R293). -/
def State.evictedYet (s : State) (us : List Team) : Bool :=
  us.any fun u => (u.evictedFor.bind s.team?).any fun w => w.place = .saved || w.place = .replay

/-- The saved teams of a launch whose unit may resume now, but for room. -/
def State.resumable (s : State) (l : Launch) : List Team :=
  s.teams.filter fun t => t.lid = l.lid && t.place = .saved && s.underLimit l (s.unitOf t).length && !s.evictedYet (s.unitOf t)

/-- The state in which the unit of a saved team has resumed, if a site has room for it. -/
def State.resumed (s : State) (l : Launch) (t : Team) : Option State := (s.ctx? t.ctx).bind fun c => s.resumeUnit c l (s.unitOf t)

/-- The die whose cores a saved team would resume on. -/
def State.resumeDie (s : State) (l : Launch) (t : Team) : Option Nat :=
  (s.resumed l t).bind fun u => (u.team? t.tid).map fun x => coreDie x.core

/-- Whether a launch could place a unit, or resume one, on a die now. -/
def State.couldPlace (s : State) (v : Levels) (l : Launch) (die : Nat) : Bool :=
  (s.mayPlace v l && s.nextDie l = some die) ||
  (!l.killed && !s.outranked v l true && (s.resumable l).any fun t => s.resumeDie l t = some die)

/-- Whose turn it is among the launches of a level that the dispatcher of a die could place a unit for (R294). -/
def State.launchTurn (s : State) (v : Levels) (level die : Nat) : Option Nat :=
  nextTurn (s.die die).lastLaunch ((s.launches.filter fun m => v.launch m.lid = level && s.couldPlace v m die).map (·.lid))

/-- A launch has had its turn with the dispatcher of a die. -/
def State.tookDieTurn (s : State) (die lid : Nat) : State := s.modDie die fun d => { d with lastLaunch := lid }

/-- TEAM_PLACE: the next team or cluster of a launch is placed, in the launch's turn at its level with the dispatcher of the die that it is
placed on. -/
def execTeamPlace (lid : Nat) (s : State) : Out :=
  match s.launch? lid with
  | none => .next s
  | some l =>
    let v := s.levels
    if !s.mayPlace v l then .next s
    else match s.placeNext l, s.nextDie l with
      | some s', some die => if s.launchTurn v (v.launch lid) die = some lid then .next (s'.tookDieTurn die lid) else .next s
      | _, _ => .next s

/-- TEAM_RESUME: a saved unit resumes where there is room, in the order of effective priority and in its launch's turn. -/
def execTeamResume (tid : Nat) (s : State) : Out :=
  match s.team? tid with
  | none => .next s
  | some t =>
    match s.launch? t.lid with
    | some l =>
      let v := s.levels
      if l.killed || s.outranked v l true || !(s.resumable l).contains t then .next s
      else match s.resumed l t, s.resumeDie l t with
        | some s', some die => if s.launchTurn v (v.launch l.lid) die = some l.lid then .next (s'.tookDieTurn die l.lid) else .next s
        | _, _ => .next s
    | none => .next s

/-! ## Who is asked -/

/-- The units of a launch that have started and find no room: saved ones, and the one that runs again. -/
def State.needy (s : State) (l : Launch) : List Team :=
  ((s.resumable l).filter fun t => (s.resumed l t).isNone) ++
  (if (s.placeNext l).isNone then s.teams.filter fun t => t.lid = l.lid && t.place = .replay else [])

/-- Whether a launch waits for room that it does not find: for a saved unit, or for its next one. -/
def State.starved (s : State) (v : Levels) (l : Launch) : Bool :=
  (s.resumable l ≠ [] && !l.killed && !s.outranked v l true && (s.resumable l).all fun t => (s.resumed l t).isNone) ||
  (s.mayPlace v l && (s.placeNext l).isNone)

/-- Whether a launch asks for a team now: it finds no room, and R296 or R293 chooses that one. -/
def State.asksFor (s : State) (v : Levels) (l : Launch) (t : Team) : Bool :=
  s.starved v l && !s.askedFor l && (chooseVictim v (s.victims v l) = some t || s.orderedVictim l = some t)

/-- The team for which a grid asks for one of its own: of those that find no room, the lowest index. -/
def State.evictsFor (s : State) (v : Levels) (t : Team) : Option Nat :=
  (s.launch? t.lid).bind fun l =>
    if !s.asksFor v l t then none
    else ((s.needy l).foldl (fun (b : Option Team) x => match b with | none => some x | some y => if x.linear < y.linear then some x else some y) none).map (·.tid)

/-- PREEMPT_REQUEST: a launch that finds no room asks for the team that R296 or R293 chooses, one unit at a time. -/
def execPreemptRequest (tid : Nat) (s : State) : Out :=
  match s.team? tid with
  | none => .next s
  | some t =>
    let v := s.levels
    if s.launches.any fun l => s.asksFor v l t then .next (s.askUnit (s.unitOf t) (s.evictsFor v t)) else .next s

end Sys2Proof.Machine
end

