-- ==== Sys2Proof/Machine/Harvest.lean ====
section
/-! DEFINITION. Restarting a group at its restart vector (R70, R101), and harvest teams (R95, R96, R301, R303, R343, R383): their
revocation, and their return in place or at the restart vector. -/

namespace Sys2Proof.Machine

/-! ## Restarting a group (R70, R101, R382) -/

/-- Whether a result of a group that is parked by a trap stands at an access that faults in its replay too: the group is told of that only
if it runs again (R252). -/
def State.heldBack (s : State) (g : Group) (r : Outst) : Bool :=
  g.phase ≠ .none && match r.kind with
  | .queue ws => ws.all (·.retried) && (s.stampSteps g ws).ws = ws
  | .tkget w => r.retried && (match s.tkgetStep g r w with | .ok _ => false | .error _ => true)
  | k => match k.work? with
    | some (k, w) => r.retried && (s.work (s.taskAgent w.ctx w.core) k w w.fuel).fault.isSome
    | none => false

/-- Whether every instruction that a group has issued is complete, but for the loads that a revocation has cancelled and for what a fault
holds back (R98). -/
def State.issuedDone (s : State) (g : Group) : Bool := s.outs.all (fun r => r.gid ≠ g.gid || r.left = 2 || s.heldBack g r) && !s.farBusy g

/-- The start state of R70 at the restart vector: the group keeps its place, its allotment, its trap record, its task and its engine contexts,
QUADFAULT, which only a write of 1 clears (R151, R193), and dissolved quads, which stay so for the rest of its life (R437). -/
def Group.restarted (g : Group) (l : Launch) : Group :=
  { Group.start g.gid g.tid g.grpId g.role g.core g.seat l.restartPc l.args with
    allot := g.allot, grown := g.grown, localSlot := g.localSlot, trap := g.trap, quadFault := g.quadFault, spanLost := g.spanLost,
    dissolved := g.dissolved, copy := g.copy, samp := g.samp,
    ray := g.ray, copyOps := g.copyOps, sampOps := g.sampOps, rayOps := g.rayOps, task := g.task }

/-- A fragment group's blend writes that have not retired are gone (R406). -/
def State.dropBlends (s : State) (g : Group) : State :=
  match g.part with
  | .fragment f b => match s.frame? f with
    | some fr => s.putFrame { fr with blends := fr.blends.filter fun x => x.batch ≠ b }
    | none => s
  | _ => s

/-- A group restarts: it leaves its gang, and what it waited for is forgotten, the notice of an old trap with it; the indexes that its queue
operations hold complete (R268). -/
def State.restartGroup (s : State) (gid : Nat) : State :=
  let s := (s.leaveGang gid .restart).dropMonitors (Monitor.isGroup gid)
  let s := match s.group? gid with
    | some g => (s.orphanOuts false g).modDie (coreDie g.core) fun d => { d with notices := d.notices.filter (· ≠ gid) }
    | none => s
  match s.group? gid with
  | none => s
  | some g =>
    let s := s.dropBlends g
    match s.teamOf g, s.launchOf g with
    | some t, some l => s.putDiverged (s.startPart l t.linear (g.restarted l))
    | _, _ => s

/-! ## Revocation (R95, R301, R383) -/

/-- A load that is cancelled: its entries are pending again, and, if it had returned, its registers and OSCOUNT too. -/
def Group.unland (g : Group) (r : Outst) : Group :=
  let mark (q : List QEntry) : List QEntry := q.map fun e => if e.src.any fun p => p.1 = r.oid then { e with pend := true } else e
  let o : Opnd := ⟨r.dst.toNat, r.words⟩
  let g := { g with q0 := mark g.q0, q1 := mark g.q1 }
  if r.left ≠ 1 then g
  else { g with regs := { g.regs with pend := g.regs.pend ++ (if o.code < 16 then [] else o.codes) }, oscount := g.oscount + 1 }

/-- Whether a result is a load of a group. -/
def Outst.isLoadOf (r : Outst) (gid : Nat) : Bool := r.gid = gid && match r.kind with | .load _ => true | _ => false

/-- The oldest load of a group that has not returned and every later one are cancelled; a group that is stopped or trapped
stays as it is. -/
def State.cancelLoads (s : State) (g : Group) : State :=
  if g.ended || g.phase ≠ .none || g.stopped then s
  else match s.outs.find? fun r => r.isLoadOf g.gid && (r.left = 0 || r.left = 3) with
    | none => s
    | some first => (s.outs.filter fun r => r.isLoadOf g.gid && first.oid ≤ r.oid).foldl (fun (s : State) r =>
        (match s.group? g.gid with | some g => s.putGroup (g.unland r) | none => s).putOut { r with left := 2 }) s

/-- A team is revoked: it keeps its core, its allocation and its state, and issues nothing; its copies stand at a boundary (R343). -/
def State.revokeTeam (s : State) (t : Team) : State :=
  let s := (s.groupsOf t.tid).foldl State.cancelLoads s
  let s := (s.groupsOf t.tid).foldl (fun (s : State) g => s.finishWays g.gid) s
  let (k, s) := s.fresh
  s.putTeam { t with place := .revoked, revoked := k, stop := 3, lost := [] }

/-- The harvest teams that run on a core. -/
def State.harvestTeams (s : State) (core : Nat) : List Team := s.teams.filter fun t => t.core = core && t.harvest && t.place = .running

/-- Whether a team is the most recently placed of the harvest teams of its core. -/
def State.newestHarvest (s : State) (t : Team) : Bool := (s.harvestTeams t.core).all fun u => u.admission ≤ t.admission

/-- The state in which no harvest team runs where a launch may run. -/
def State.withoutHarvest (s : State) (l : Launch) : State :=
  s.setTeams (mapWhere (fun (t : Team) => t.harvest && t.place = .running && s.usable l t.core) (fun t => { t with place := .revoked }) s.teams)

/-- The cores on which the owner's next unit, or a saved one, would find room if harvest teams gave theirs up. -/
def State.coresBehindHarvest (s : State) (l : Launch) : List Nat :=
  let bare := s.withoutHarvest l
  let placed (o : Option State) : List Nat :=
    match o with
    | some x => (x.teams.filter fun u => u.lid = l.lid && u.place = .running && (s.team? u.tid).all fun v => v.place ≠ .running).map (·.core)
    | none => []
  if s.resumable l ≠ [] then
    placed ((s.resumable l).findSome? fun t => (s.ctx? l.ctx).bind fun c => bare.resumeUnit c l (s.unitOf t))
  else placed (bare.placeNext l)

/-- What the teams that a launch is to place next take of a core: its saved ones, or a new one. -/
def State.demands (s : State) (l : Launch) (core : Nat) : List Demand :=
  if s.resumable l ≠ [] then (s.resumable l).map (s.savedDemand l) else [s.demand l core false]

/-- Whether an owner launch waits for what a harvest team of a core holds. -/
def State.ownerNeeds (s : State) (v : Levels) (l : Launch) (core : Nat) : Bool :=
  ((s.ctx? l.ctx).any fun c => c.cls ≠ 3 && c.resv.contains (coreCluster core)) && s.starved v l && (s.coresBehindHarvest l).contains core &&
    (s.demands l core).any fun d => (s.berth core d).isNone

/-- Whether the growth of an owner's group waits for registers of the core. -/
def State.growthNeeds (s : State) (core : Nat) : Bool := s.groups.any fun g => g.core = core && s.growDue g && !s.growRoom g

/-- Whether a harvest team must go: an owner needs what it holds, or an EXCLUSIVE launch has its core. -/
def State.mustRevoke (s : State) (t : Team) : Bool :=
  s.exclusiveOn t.core || (s.newestHarvest t && (s.growthNeeds t.core || s.launches.any fun l => s.ownerNeeds s.levels l t.core))

/-- HARVEST_REVOKE: a team goes, and every team of its cluster with it. -/
def execHarvestRevoke (tid : Nat) (s : State) : Out :=
  match s.team? tid with
  | none => .next s
  | some t =>
    if t.harvest && t.place = .running && s.mustRevoke t then .next ((s.unitOf t).foldl (fun (s : State) u => s.revokeTeam u) s) else .next s

/-! ## Return (R96, R303, R383) -/

/-- Whether a revoked team's own resources are free on its core again. -/
def State.returnRoom (s : State) (t : Team) : Bool :=
  let gs := (s.groupsOf t.tid).filter fun g => !g.ended
  let bytes (gs : List Group) : Nat := (gs.map fun g => mainBytes (s.fullAllot g)).sum
  let held := s.teamsOn t.core ++ (s.revokedOn t.core).filter fun u => u.lost = [] && u.tid ≠ t.tid
  bytes (s.groupsOn t.core) + bytes gs ≤ 524288 && !s.exclusiveOn t.core &&
  (held.map (·.barriers.length)).sum + t.barriers.length ≤ 512 && (held.map fun u => s.teamCopies u.tid).sum + s.teamCopies t.tid ≤ 16 &&
  (pickSeats gs.length ((s.groupsOn t.core).map Group.seat)).isSome &&
  (s.pad? t.pad).all fun p => s.pads.all fun q => q.pid = p.pid || q.core ≠ p.core || !s.padNeeded q || s.padParked q || !q.meets p.base p.words

/-- Whether teams would have to go again if they ran: an owner waits for what they hold (R301, R303). -/
def State.wouldRevoke (s : State) (us : List Team) : Bool :=
  let r := s.setTeams (mapWhere (fun (t : Team) => inTeams us t.tid) (fun t => { t with place := .running }) s.teams)
  us.any fun t => r.growthNeeds t.core || r.launches.any fun l => r.ownerNeeds r.levels l t.core

/-- Whether a revoked unit may return now: in the order of revocation, on its own cores, within TLIMIT. -/
def State.mayReturn (s : State) (l : Launch) (us : List Team) : Bool :=
  !l.killed && s.underLimit l us.length && !s.wouldRevoke us && us.all fun t =>
    t.place = .revoked && (s.ctx? t.ctx).any (fun c => s.coreKind c t.core) && s.returnRoom t &&
    (s.groupsOf t.tid).all (fun g => !s.farBusy g) &&
    s.teams.all fun u => u.place ≠ .revoked || inTeams us u.tid || t.revoked < u.revoked || us.all fun x => x.core ≠ u.core

/-- A group that goes on in place: a slot in a rendezvous or at a GANG issues its instruction again. -/
def Group.unpark (g : Group) : Group := { g with slot0 := g.slot0.map Slot.unpark, slot1 := g.slot1.map Slot.unpark }

/-- A revoked team is back on its core: its groups take seats. That a revoked group gives up its issue slot and residency number, as an evicted
one does, and takes new ones when it returns in place is the model's choice (log 116). -/
def State.reseat (s : State) (t : Team) : State :=
  let gs := s.groupsOf t.tid
  let seats := (pickSeats (gs.filter fun g => !g.ended).length ((s.groupsOn t.core).map Group.seat)).getD []
  (s.putGroups (seatGroups t.core id seats gs)).putTeam { t with place := .running, revoked := 0, stop := 0, lost := [] }

/-- The rings of a team as a stop leaves them: those that no mask word marks live are empty (R26). Where a slot has not stopped there is no
mask word, and every ring stays. -/
def State.keptRings (s : State) (t : Team) : List Ring :=
  if (s.groupsOf t.tid).all Group.stopped then t.rings.mapIdx fun q r => if s.ringLive t.tid q then r else Ring.start else t.rings

/-- A team goes on in place: its cancelled loads are performed again in their order. -/
def State.returnTeam (s : State) (t : Team) : State :=
  let s := s.reseat { t with rings := s.keptRings t }
  (s.groupsOf t.tid).foldl (fun (s : State) g =>
    (s.outs.filter fun r => r.gid = g.gid && r.left = 2).foldl State.replayLoad (s.putGroup g.unpark)) s

/-- The SPANLOST words with the bits of some spans set (R193). -/
def markSpans (old : List Word) (spans : List Nat) : List Word :=
  old.mapIdx fun j w => (List.range 32).foldl (fun w i => if spans.contains (32 * j + i) then w ||| 1#32 <<< i else w) w

/-- A pad whose lost spans read 0. -/
def Pad.renew (p : Pad) (spans : List Nat) : Pad := { p with bytes := p.bytes.filter fun c => !spans.contains ((c.1 + p.ringBytes) / 4096) }

/-- Whether a team has lost every span of its allocation, and with it its rings and barriers. -/
def Team.lostAll (t : Team) (p : Pad) : Bool := p.spans.all t.lost.contains

/-- A team that lost a span, or whose cluster did, begins again at the restart vector; the copies that its groups' engine contexts had accepted
end, those of groups that have ended too (R343). A frame pool on which another team runs is not the team's to be renewed (R439). -/
def State.restartTeam (s : State) (t : Team) : State :=
  let spans := ((s.pad? t.pad).map (·.spans)).getD []
  let s := match s.pad? t.pad with | some p => if s.padLive p then s else s.putPad (p.renew t.lost) | none => s
  let fresh := (s.pad? t.pad).any t.lostAll && t.lost ≠ []
  let ng := (s.groupsOf t.tid).length
  let s := s.reseat (if fresh then { t with rings := List.replicate 4 Ring.start, barriers := t.barriers.map fun _ => Barrier.start ng } else t)
  let s := s.setGroups (mapWhere (fun (g : Group) => g.tid = t.tid) Group.dropCopies s.groups)
  ((s.groupsOf t.tid).filter fun g => !g.ended).foldl (fun (s : State) g =>
    let s := s.restartGroup g.gid
    match s.group? g.gid with
    | some h => s.putGroup { h with spanLost := markSpans h.spanLost (t.lost.filter spans.contains) }
    | none => s) s

/-- Whether the Beater has forwarded what a team's shadows hold: till then its scratchpad stays (R271). -/
def State.forwarded (s : State) (t : Team) : Bool := s.clusters.all fun c => c.shadows.all fun x => x.pad ≠ t.pad

/-- HARVEST_RESUME: the unit goes on in place if none of its teams has lost a span; otherwise all of them restart, once what their
groups had issued is complete and their shadows are forwarded. -/
def execHarvestResume (tid : Nat) (s : State) : Out :=
  match s.team? tid with
  | none => .next s
  | some t => match s.launch? t.lid with
    | none => .next s
    | some l =>
      let r := s.reapPads
      let us := r.unitOf t
      if !r.mayReturn l us then .next s
      else if us.all fun u => u.lost = [] then .next (us.foldl (fun (s : State) u => s.returnTeam u) r)
      else if us.all fun u => (r.groupsOf u.tid).all r.issuedDone && r.forwarded u then .next (us.foldl (fun (s : State) u => s.restartTeam u) r)
      else .next s

end Sys2Proof.Machine
end

