-- ==== Sys2Proof/Machine/Queues.lean ====
section
/-! DEFINITION. User-mode queues (R275 to R279, R286 to R290): the packet that a queue stands at, looking at it, consuming it, the
error of a queue, whose turn it is; signals and completion records (R283, R284). -/

namespace Sys2Proof.Machine

/-! ## Signals and completion records (R283, R284) -/

/-- The abort value of a signal. -/
def abortValue : Nat := 2 ^ 63

/-- MADD.64 −1 on a signal, unless it holds the abort value; or the address that faults. -/
def State.signalDown (s : State) (ag : Agent) (a : Nat) : Except (Nat × Nat) State :=
  if a = 0 then .ok s
  else match s.peekVa ag a 8 with
    | .error e => .error e
    | .ok (s, v) => if v = abortValue then .ok s else s.putVa ag a 8 (v + 2 ^ 64 - 1)

/-- The abort value is written into a signal, if there is one that can be written. -/
def State.signalAbort (s : State) (ag : Agent) (a : Nat) : State :=
  if a = 0 || a % 8 ≠ 0 then s else s.pokeOr ag a (bytesOf abortValue 8)

/-- The 128 bytes of a completion record. -/
def crecBytes (status teams : Nat) (fpx : List Nat) : List Byte :=
  bytesOf status 4 ++ bytesOf 0 4 ++ bytesOf teams 8 ++ List.replicate 16 0 ++ fpx.flatMap (fun v => bytesOf v 4) ++ List.replicate 16 0

/-- A completion record is written, if there is one that can be written. -/
def State.crecAbort (s : State) (ag : Agent) (a status teams : Nat) (fpx : List Nat) : State :=
  if a = 0 || a % 64 ≠ 0 then s else s.pokeOr ag a (crecBytes status teams fpx)

/-! ## Packets (R277, R280) -/

/-- A packet that a queue stands at. -/
structure Packet where
  q : Queue
  c : Ctx
  ag : Agent
  bytes : List Byte
  deriving DecidableEq, Repr

namespace Packet

def f (p : Packet) (off n : Nat) : Nat := fieldOf p.bytes off n
def op (p : Packet) : Nat := p.f 1 1
def acq (p : Packet) : Nat := p.f 2 1 % 16
def rel (p : Packet) : Nat := p.f 2 1 / 16
/-- B: the packet waits for every earlier one of its queue. -/
def barrier (p : Packet) : Bool := p.f 0 1 / 2 % 2 = 1
/-- Whether the header is good: reserved bits 0, scopes 0 to 8. -/
def headerOk (p : Packet) : Bool := p.f 0 1 / 4 = 0 && p.f 3 1 = 0 && p.acq ≤ 8 && p.rel ≤ 8
/-- Whether every byte behind the header that lies in none of some ranges is 0. -/
def bodyOk (p : Packet) (used : List (Nat × Nat)) : Bool :=
  (List.range 60).all fun i => used.any (fun u => u.1 ≤ i + 4 && i + 4 < u.1 + u.2) || p.f (i + 4) 1 = 0

end Packet

/-- The agent of a queue's command processor. -/
def State.queueAgent (s : State) (q : Queue) : Agent :=
  match s.ctx? q.ctxid with
  | some c => c.cpAgent q.die
  | none => ⟨1000, firmwareUnit q.die, 0, 0, false, 1, 0, 0, 0, 0, false, true⟩

/-- The bytes of the packet that a queue stands at: in its ring, or in the snapshot of its buffer's piece; nothing where they
cannot be read. -/
def State.packetBytes (s : State) (q : Queue) : Option (List Byte) :=
  match q.indirect with
  | some i => some ((i.piece.drop (i.pos - i.pieceAt)).take 64)
  | none => (s.glance (s.queueAgent q) (q.slotAddr q.ridx) 64).map fun v => bytesOf v 64

/-- The packet that a queue stands at, if it is valid. -/
def State.packet? (s : State) (q : Queue) : Option Packet :=
  match s.ctx? q.ctxid, s.packetBytes q with
  | some c, some bs => if fieldOf bs 0 1 % 2 = 1 then some ⟨q, c, c.cpAgent q.die, bs⟩ else none
  | _, _ => none

/-! ## Looking at the next slot (R278, R288, R289) -/

/-- Whether a watch is a queue's wait for its slot, signals or wait word; its notify line's. -/
def Monitor.isPacket (qid : Nat) (m : Monitor) : Bool := match m.who with | .packet k => k = qid | _ => false
def Monitor.isNotify (qid : Nat) (m : Monitor) : Bool := match m.who with | .notify k => k = qid | _ => false

/-- Set a queue's watch on the line of an address. -/
def State.watchPacket (s : State) (q : Queue) (a : Nat) : State :=
  match s.pageOf (s.queueAgent q) a with
  | some (t, _) => s.addMonitors [⟨.packet q.qid, none, t.pa a, 8, false⟩]
  | none => s

/-- Set the watch on a queue's notify line. -/
def State.watchNotify (s : State) (q : Queue) : State :=
  let s := (s.dropMonitors (Monitor.isNotify q.qid)).walkVa (s.queueAgent q) (fun _ => true) q.notify
  match s.pageOf (s.queueAgent q) q.notify with
  | some (t, _) => s.addMonitors [⟨.notify q.qid, none, t.pa q.notify, 8, false⟩]
  | none => s

/-- The error record of a queue (R287). -/
def State.queueRecord (s : State) (q : Queue) (cause op detail : Nat) : State :=
  s.pokeOr (s.queueAgent q) q.errrec
    (bytesOf cause 2 ++ bytesOf op 1 ++ bytesOf 0 1 ++ bytesOf q.qid 4 ++ bytesOf q.ridx 8 ++ bytesOf detail 8 ++ bytesOf 0 8)

/-- A queue enters ERROR at the packet it stands at (R287); what it had done of a buffer stays done,
and an event is posted. Cause 7 is an access that faulted at the address `detail`, which leaves its walk. -/
def State.queueError (s : State) (q : Queue) (cause op detail : Nat) : State :=
  let s := if cause = 7 then s.tryVa (s.queueAgent q) .wr detail else s
  let s := (s.dropMonitors (Monitor.isPacket q.qid)).putQueue { q with state := 2, awake := false, waiting := none }
  let s := s.modDie q.die fun d => { d with mapped := d.mapped.filter (· ≠ q.qid) }
  (s.queueRecord q cause op detail).postEvent q.die 1 q.ctxid q.qid q.errrec

/-- The acquire at a scope that a read of a signal, header or record is (R278, R285). -/
def State.acquireVa (s : State) (ag : Agent) (die scope a n : Nat) : State :=
  (vaRange a n).foldl (fun (s : State) p => match p.place with
    | .va x => match s.pageOf ag x with
      | some (t, _) => (List.range ((x + p.len - 1) / 64 - x / 64 + 1)).foldl (fun (s : State) i => s.acquireLine (treadle die) scope (t.pa x / 64 + i)) s
      | none => s
    | .pad _ _ => s) s

/-- Consuming a packet of the ring: the header word is written as 0, then RIDX rises by one (R278); or the address that faults. -/
def State.consumeSlot (s : State) (q : Queue) : Except Nat State :=
  let ag := s.queueAgent q
  match s.putVa ag (q.slotAddr q.ridx) 4 0 with
  | .error e => .error e.2
  | .ok s => match s.putVa ag q.ridxAddr 8 (q.ridx + 1) with
    | .error e => .error e.2
    | .ok s => .ok (s.putQueue { q with ridx := q.ridx + 1, indirect := none, idleSince := s.clock q.die })

/-- The scanner looks at a ring slot: an acquire at SYSTEM scope; a packet whose V is 0 is watched. -/
def State.lookSlot (s : State) (q : Queue) : State :=
  let a := q.slotAddr q.ridx
  let s := (s.dropMonitors (Monitor.isPacket q.qid)).acquireVa (s.queueAgent q) q.die 8 a 4
  match s.peekVa (s.queueAgent q) a 64 with
  | .error e => s.queueError q 7 0 e.2
  | .ok (s, _) =>
    if (s.packet? q).isSome then s.putQueue { q with awake := true }
    else (s.putQueue { q with awake := false }).watchPacket q a

/-- The scanner looks at what a queue stands at: the next packet of a buffer, whose piece is read when its first packet's turn
comes (R286), as an acquire of the headers that it holds (R278, R318), or a ring slot. A buffer that has ended is consumed with its INDIRECT packet. -/
def State.look (s : State) (qid : Nat) : State :=
  match s.queue? qid with
  | none => s
  | some q => match q.indirect with
    | none => s.lookSlot q
    | some i =>
      let ended (s : State) (q : Queue) : State := match s.consumeSlot q with
        | .error a => s.queueError q 7 4 a
        | .ok s => match s.queue? qid with | some q => s.lookSlot q | none => s
      if i.len ≤ i.pos then ended s q
      else if i.pos < i.pieceAt + i.piece.length then
        if (s.packet? q).isSome then s.putQueue { q with awake := true } else ended s q
      else match (s.acquireVa (s.queueAgent q) q.die 8 (i.addr + i.pos) (min 65536 (i.len - i.pos))).peekVa (s.queueAgent q) (i.addr + i.pos)
          (min 65536 (i.len - i.pos)) with
        | .error e => s.queueError q 7 4 e.2
        | .ok (s, v) =>
          let q := { q with indirect := some { i with pieceAt := i.pos, piece := bytesOf v (min 65536 (i.len - i.pos)) } }
          let s := s.putQueue q
          if (s.packet? q).isSome then s.putQueue { q with awake := true } else ended s q

/-- A packet is consumed: one of a buffer by going on to the next; one of the ring by R278; or the address that faults. -/
def State.consume (s : State) (qid : Nat) : Except Nat State :=
  match s.queue? qid with
  | none => .ok s
  | some q => match q.indirect with
    | some i => .ok (s.putQueue { q with indirect := some { i with pos := i.pos + 64 } })
    | none => s.consumeSlot q

/-! ## Whose turn it is (R279, R281, R294, R386) -/

/-- Launches that packets have started: those that a die's limit counts. -/
def Launch.ofPacket (l : Launch) : Bool :=
  match l.kind with
  | .grid => true
  | .meshlets _ => true
  | _ => false

/-- Launches that a die has in flight at most. -/
def dieLaunches : Nat := 256

/-- Whether an earlier packet of a queue is not complete. -/
def State.earlierOpen (s : State) (q : Queue) : Bool := s.launches.any (fun l => l.qid = some q.qid && l.ofPacket) || q.held.isSome

/-- Whether a packet that launches must wait: for room among its die's launches, for launches of its context with other flags,
for the frame of its view set. -/
def State.launchWaits (s : State) (p : Packet) : Bool :=
  dieLaunches ≤ (s.launches.filter fun l => l.ofPacket && l.die = p.q.die).length ||
  s.launches.any (fun l => l.ctx = p.c.ctxid && l.ofPacket && l.lflags / 2 % 4 ≠ p.f 7 1 / 2 % 4) ||
  (p.op = 2 && s.frames.any fun fr => fr.die = p.q.die && fr.vset = p.f 0x24 2)

/-- The packet that a queue may have processed now. -/
def State.ready (s : State) (q : Queue) : Option Packet :=
  if q.state ≠ 1 || !q.awake || q.waiting.isSome then none
  else match s.packet? q with
    | none => none
    | some p =>
      if (p.barrier && s.earlierOpen q) || ((p.op = 1 || p.op = 2) && s.launchWaits p) then none else some p

/-- The queue whose packet a die's command processor takes next: of the highest effective priority, in round robin. -/
def State.nextQueue (s : State) (die : Nat) : Option Nat :=
  let v := s.levels
  let qs := s.queues.filter fun q => q.die = die && (s.ready q).isSome
  let top := qs.foldl (fun m q => max m (v.queue q.qid)) 0
  nextTurn (s.die die).lastQueue ((qs.filter fun q => v.queue q.qid = top).map (·.qid))

/-! ## Mapping (R290) -/

/-- Queues that a scanner keeps mapped. -/
def mappedLimit : Nat := 2048

/-- A queue is mapped. -/
def State.addMapped (s : State) (q : Queue) : State :=
  s.modDie q.die fun d => { d with mapped := (d.mapped.filter (· ≠ q.qid)) ++ [q.qid] }

/-- Whether a queue has no packet in progress. -/
def State.queueIdle (s : State) (q : Queue) : Bool := !q.awake && q.waiting.isNone && q.indirect.isNone && !s.earlierOpen q

/-- A packet of a queue is no longer in progress. -/
def State.queueRests (s : State) (qid : Nat) : State :=
  match s.queue? qid with
  | some q => s.putQueue { q with idleSince := s.clock q.die }
  | none => s

/-- A queue is unmapped. It loses nothing: the watch of the slot at which it stands stays, and one without that watch stays on the scanner's
rounds (log 120). -/
def State.unmap (s : State) (qid : Nat) : State :=
  match s.queue? qid with
  | some q => (s.putQueue { q with state := 0, awake := !s.msys.monitors.any (Monitor.isPacket qid) }).modDie q.die fun d =>
      { d with mapped := d.mapped.filter (· ≠ qid) }
  | none => s

/-- Room for one more mapped queue: where the set is full, the queue that has been idle the longest is unmapped. -/
def State.makeRoom (s : State) (die : Nat) : State :=
  if (s.die die).mapped.length < mappedLimit then s
  else
    let idle := ((s.die die).mapped.filterMap s.queue?).filter s.queueIdle
    match idle.find? fun q => idle.all fun p => q.idleSince ≤ p.idleSince with
    | some q => s.unmap q.qid
    | none => s

/-- Map a queue, if there is room. -/
def State.mapQueue (s : State) (qid : Nat) : State :=
  match s.queue? qid with
  | none => s
  | some q =>
    if q.state ≠ 0 then s
    else
      let s := s.makeRoom q.die
      if (s.die q.die).mapped.length < mappedLimit then (s.putQueue { q with state := 1, awake := false }).addMapped q else s

/-- Whether a notice for a queue cannot be taken now: it is unmapped, and every queue that its scanner keeps mapped is busy. -/
def State.noRoom (s : State) (qid : Nat) : Bool := ((s.mapQueue qid).queue? qid).any (·.state = 0)

end Sys2Proof.Machine
end

