-- ==== Sys2Proof/Machine/Teardown.lean ====
section
/-! DEFINITION. Teardown of a context (R297, R298, R343, R382), by the host, by firmware, or with a context that is destroyed. -/

namespace Sys2Proof.Machine

/-- The packet that a command processor is passing to the dispatcher when the teardown comes, if the part sees the two in one
cycle (R298): its completion record reads STATUS 2, its signal receives the abort value, and its queue gets an error record with cause
0x0100. -/
def State.abortPassing (s : State) (ctxid die : Nat) : State :=
  match (s.nextQueue die).bind s.queue? with
  | none => s
  | some q => match s.ready q with
    | none => s
    | some p =>
      if q.ctxid ≠ ctxid || (p.op ≠ 1 && p.op ≠ 2) then s
      else
        let (hit, s) := s.choose
        if hit then ((s.crecAbort p.ag (packetCrec p.bytes) 2 0 p.c.fpx).signalAbort p.ag (packetSignal p.bytes)).queueRecord q 0x100 p.op 0 else s

/-- A queue goes out of service: the packet that it waits in, one whose signal is still to be decremented, and the valid packets
from RIDX on are aborted. -/
def State.retireQueue (s : State) (c : Ctx) (q : Queue) : State :=
  let ag := s.queueAgent q
  let left := s.unreached q
  let s := match q.waiting with | some p => s.signalAbort ag (packetSignal p) | none => s
  let s := match q.held with | some a => s.signalAbort ag a | none => s
  let s := left.foldl (fun (s : State) p => (s.crecAbort ag (packetCrec p) 2 0 c.fpx).signalAbort ag (packetSignal p)) s
  let s := s.dropMonitors fun m => m.isPacket q.qid || m.isNotify q.qid
  let s := s.modDie q.die fun d => { d with mapped := d.mapped.filter (· ≠ q.qid) }
  s.putQueue { q with state := 3, awake := false, waiting := none, held := none, indirect := none }

/-- A launch that has not completed is killed, or never starts. -/
def State.abortLaunch (s : State) (c : Ctx) (l : Launch) : State :=
  let ag := c.cpAgent l.die
  (s.crecAbort ag l.crec (if l.next = 0 then 2 else 1) l.exited c.fpx).signalAbort ag l.signal

/-- The tiles that a context owns are nobody's, its spilled copies are dropped, and RMARK follows. -/
def State.dropTiles (s : State) (c : Ctx) : State :=
  let spilled := (s.owners c).filter (·.spilled)
  let s := (List.range c.nslot).foldl (fun (s : State) j => s.setField (c.save + spillOff + spillSlot j + 0x1004) 4 0) (s.writeOwners c [])
  let s := s.setClusters (s.clusters.map fun k =>
    { k with tiles := k.tiles.map fun t => if t.owner = some c.ctxid then { t with words := [], ovf := 0, owner := none } else t
             shadows := k.shadows.filter fun x => x.ctx ≠ c.ctxid })
  spilled.foldl (fun (s : State) o =>
    let mark := s.spilledAnywhere o.cluster o.tile
    s.modCluster o.cluster fun k => { k with tiles := k.tiles.modify o.tile fun t => { t with rmark := mark } }) s

/-- Whether what remains of a killed group's queue operations is a context's. -/
def OutKind.orphanOf (k : OutKind) (ctxid : Nat) : Bool :=
  match k with
  | .orphan c _ _ => c = ctxid
  | _ => false

/-- What a context's groups, teams and launches still had under way ends, with the indexes that their queue operations hold, orphaned ones
too: R297's kill is taken to end what R268 would complete (log 110). -/
def State.dropWork (s : State) (ctxid : Nat) : State :=
  let mine (t : Team) : Bool := t.ctx = ctxid
  let tids := (s.teams.filter mine).map (·.tid)
  let gids := (s.groups.filter fun g => tids.contains g.tid).map (·.gid)
  let s := (s.teams.filter fun t => mine t && t.place ≠ .gone).foldl (fun (s : State) t => s.killTeam t .gone) s
  let ofCtx (r : Outst) : Bool := gids.contains r.gid || r.kind.work?.any (fun w => w.2.ctx = ctxid) || r.kind.orphanOf ctxid
  let s := s.setOuts (s.outs.filter fun r => !ofCtx r)
  let s := s.setGangs (s.gangs.filter fun x => x.ctx ≠ ctxid)
  let s := s.setGroups (s.groups.filter fun g => !gids.contains g.gid)
  let s := s.setTeams (s.teams.filter fun t => !mine t)
  let s := s.setLaunches (s.launches.filter fun l => l.ctx ≠ ctxid)
  let s := s.setFrames (s.frames.filter fun f => f.ctx ≠ ctxid)
  let s := s.setEvents { s.events with waiting := s.events.waiting.filter fun w => w.ctx ≠ ctxid }
  (s.setDies (s.dies.map fun d => { d with notices := d.notices.filter fun g => !gids.contains g,
                                           arb := d.arb.map fun a => { a with chosen := a.chosen.filter (· ≠ ctxid), order := a.order.filter (· ≠ ctxid) } })).reapPads

/-- A context is torn down. -/
def State.teardown (s : State) (ctxid : Nat) : State :=
  match s.ctx? ctxid with
  | none => s
  | some c =>
    if c.killed then s
    else
      let s := (s.abortPassing ctxid 0).abortPassing ctxid 1
      let s := (s.queues.filter fun q => q.ctxid = ctxid).foldl (fun (s : State) q => s.retireQueue c q) s
      let s := (s.launches.filter fun l => l.ctx = ctxid && l.ofPacket).foldl (fun (s : State) l => s.abortLaunch c l) s
      let s := (s.dropWork ctxid).dropTiles c
      match s.ctx? ctxid with
      | some c => s.putCtx { c with killed := true, streams := c.streams.map fun x => { x with ops := [] } }
      | none => s

/-- Firmware kills a context: the teardown, and an event with the cause and the completion record of the launch that it acted
for (R304, R442). -/
def State.killContext (s : State) (die ctxid cause crec : Nat) : State := (s.teardown ctxid).postEvent die 7 ctxid cause crec

end Sys2Proof.Machine
end

