-- ==== Sys2Proof/Machine/Launches.lean ====
section
/-! DEFINITION. Completion of launches and frames (R283, R386, R408). -/

namespace Sys2Proof.Machine

/-- Whether every team of a launch has exited, what their groups issued is complete, and their engine contexts and gangs have
completed what they accepted. -/
def State.launchDrained (s : State) (l : Launch) : Bool :=
  let ts := s.teams.filter fun t => t.lid = l.lid
  l.total ≤ l.next && ts.all (fun t => t.place = .gone) &&
  ts.all (fun t => (s.groupsOf t.tid).all fun g =>
    s.outs.all (fun r => r.gid ≠ g.gid) && !s.farBusy g && g.copyOps = [] && g.sampOps = [] && g.rayOps = []) &&
  s.gangs.all fun x => x.lid ≠ l.lid || x.ops = []

/-- Step 1 of R283: the dirty RC and UO bytes of the context's address space on the launch's cores. -/
def State.launchWriteBack (s : State) (c : Ctx) (l : Launch) : State :=
  if l.rel ≤ 2 then s else s.cleanLines fun x => l.cores.contains x.core && x.asid = c.asid && x.kind ≠ .so

/-- A step that may fault: its number and the address that faults. -/
abbrev Step283 := State × Option (Nat × Nat)

/-- Do step `k` if nothing holds, unless an earlier attempt has done it; one that faults leaves its walk. -/
def Step283.bind (ag : Agent) (r : Step283) (first k : Nat) (f : State → Except (Nat × Nat) State) : Step283 :=
  match r.2 with
  | some _ => r
  | none =>
    if k < first then r
    else match f r.1 with
      | .ok s => (s, none)
      | .error e => (r.1.tryVa ag .wr e.2, some (k, e.2))

/-- The steps of a completion from step `first` on: 0 the statistics record of a FRAME, 1 the write-back, 2 the completion record,
4 the signal. Step 3's release has nothing more to write back. -/
def State.completionSteps (s : State) (c : Ctx) (l : Launch) (stats : Option (Nat × List Byte)) (first : Nat) : Step283 :=
  let ag := c.cpAgent l.die
  let r : Step283 := (s, none)
  let r := r.bind ag first 0 fun s => match stats with | some (a, v) => s.pokeVa ag a v | none => .ok s
  let r := r.bind ag first 1 fun s => .ok (s.launchWriteBack c l)
  let r := r.bind ag first 2 fun s => if l.crec = 0 then .ok s else s.pokeVa ag l.crec (crecBytes (if l.replayed then 3 else 0) l.exited c.fpx)
  r.bind ag first 4 fun s => s.signalDown ag l.signal

/-- A launch leaves: its teams, its groups and their pads. -/
def State.endLaunch (s : State) (l : Launch) : State :=
  let tids := (s.teams.filter fun t => t.lid = l.lid).map (·.tid)
  let s := s.setGroups (s.groups.filter fun g => !tids.contains g.tid)
  let s := s.setTeams (s.teams.filter fun t => t.lid ≠ l.lid)
  let s := s.setGangs (s.gangs.filter fun x => x.lid ≠ l.lid)
  (s.dropLaunch l.lid).reapPads

/-- The statistics record of a frame (R408). -/
def Frame.statBytes (fr : Frame) : List Byte :=
  fr.counters.flatMap (fun c => bytesOf c.emitted 8 ++ bytesOf c.culled 8 ++ bytesOf c.rasterised 8 ++ bytesOf c.small 8 ++ bytesOf c.fragGroups 8 ++
    List.replicate 24 0) ++ bytesOf fr.errTotal 8 ++ fr.occ.flatMap (fun v => bytesOf v 8) ++ List.replicate 56 0

/-- Complete a launch from step `first` on; a fault holds it at its step. A frame ends with its launch. -/
def State.completeLaunch (s : State) (l : Launch) (first : Nat) : State :=
  match s.ctx? l.ctx with
  | none => s
  | some c =>
    let fr := l.kind.frame?.bind s.frame?
    match s.completionSteps c l (fr.map fun f => (f.stats, f.statBytes)) first with
    | (s, some h) => s.putLaunch { l with held := some h, repaired := false }
    | (s, none) =>
      let s := match fr with | some f => s.dropFrame f.fid | none => s
      let s := match l.qid with | some k => s.queueRests k | none => s
      s.endLaunch l

/-- The cores of a launch that a frame made count as its FRAME's. -/
def State.lendCores (s : State) (l : Launch) : State :=
  match (l.kind.frame?.bind s.frame?).bind fun fr => s.launch? fr.lid with
  | some root => s.putLaunch { root with cores := (root.cores ++ l.cores).dedup }
  | none => s

/-- LAUNCH_COMPLETE: a grid completes by R283; a meshlet grid's end is a condition of its frame's; the other launches of a
frame leave. -/
def execLaunchComplete (lid : Nat) (s : State) : Out :=
  match s.launch? lid with
  | none => .next s
  | some l =>
    if l.killed || l.held.isSome || !s.launchDrained l then .next s
    else match l.kind with
      | .grid => .next (s.completeLaunch l 0)
      | .meshlets f => match s.frame? f with
        | some fr => .next (s.putFrame { fr with meshDone := true })
        | none => .next s
      | _ => .next ((s.lendCores l).endLaunch l)

/-- Whether every live tile of every strip of a view has been retired and handed over. -/
def State.viewOver (s : State) (fr : Frame) (v : Nat) (w : View) : Bool :=
  (List.range w.nstrips).all fun k => match s.warpOf fr v k with
    | some p => (List.range w.tiles).all fun t => !p.tileLive t || (fr.area v t).over k
    | none => false

/-- FRAME_COMPLETE: the meshlet grid, the tile and fragment launches and every hand-over are done, every end entry is in its queue (R403) and
every EGRS of the frame is over (R430), and the packet completes. -/
def execFrameComplete (frame : Nat) (s : State) : Out :=
  match s.frame? frame with
  | none => .next s
  | some fr => match s.launch? fr.lid with
    | none => .next s
    | some l =>
      let parts := s.launches.any fun m => m.lid ≠ l.lid && m.kind.frame? = some frame
      let ops := s.contexts.any fun c => c.streams.any fun x => x.ops.any fun o => o.frame = frame
      let ended := (List.range ((fr.views.map (·.nstrips)).foldl max 0)).all fr.ends.contains
      if !fr.meshDone || parts || ops || !ended || fr.queued ≠ [] || l.held.isSome || fr.fault.isSome || !fr.prims.all (·.projected) ||
         !(fr.views.mapIdx fun v w => s.viewOver fr v w).all id then .next s
      else .next (s.completeLaunch l 0)

end Sys2Proof.Machine
end

