-- ==== Sys2Proof/Machine/Firmware.lean ====
section
/-! DEFINITION. What firmware does about traps (R101, R304, R316, R378, R385) and engine faults (R341), and the two traps of a word
that cannot be fetched or is no instruction (R33, R55). -/

namespace Sys2Proof.Machine

/-! ## Words that do not execute (R33, R55) -/

/-- Whether a role permits an OP: copy-engine, matrix, and sampler, raster, ray and egress instructions (R19, R50). -/
def opRole (op : Nat) (r : Role) : Bool :=
  if 0xD8 ≤ op && op ≤ 0xDE then r.copies
  else if 0xE0 ≤ op && op ≤ 0xE6 then r.matrices
  else if 0xE8 ≤ op then r.vectors
  else true

/-- Whether a word's OP is privileged: ERET, HALT and TLBI, and MFS and MTS of a register of FIRMWARE mode (R54). -/
def wordPriv (w : Word) : Bool :=
  let op := opOf w
  op = 0x8C || op = 0x8D || op = 0x90 || ((op = 0x8A || op = 0x8B) && firmwareReg (w.toNat % 2 ^ 10))

/-- NOT_AN_INSTRUCTION: an unassigned OP, or one that the role does not permit, traps ILLEGAL_OPCODE; a privileged OP traps PRIV;
fields, or a join word, that no instruction allows trap ILLEGAL_OPERAND (R55). A word with S waits as an instruction does (R83). -/
def execNotAnInstruction (w : Word) (s : State) : Out :=
  match s.frag? with
  | some f =>
    let op := opOf w
    let code := if !opAssigned op || !opRole op f.g.role then 0x01 else if wordPriv w && !f.g.fw then 0x0B else 0x02
    if ((marksOf w).s || f.sl.lit.any fun x => x.sw) && f.g.oscount ≠ 0 then .next s
    else .next (s.takeTrap f (maskAt f.sl (marksOf w) (if takesExt op then 1 else 0)) ⟨code, 0, 0, f.sl.mask⟩)
  | none => .next s

/-- INSTRUCTION_FETCH_FAULT: the word at an address cannot be fetched. -/
def execInstructionFetchFault (addr : Addr) (s : State) : Out :=
  match s.frag? with
  | none => .next s
  | some f => match s.fetchWord f.g addr.toNat with
    | .error c => .next (s.takeTrap f none ⟨c, if c = 0x0A then 0 else 2, addr.toNat, f.sl.mask⟩)
    | .ok _ => .next s

/-! ## Traps that firmware ends (R101, R304) -/

/-- WAKE_EVENT: a trap notification, a queue-scanner notice or a host event. -/
def execWakeEvent (die : Nat) (s : State) : Out := .next (s.wake die)

/-- A group's notification has been dealt with. -/
def State.unnotice (s : State) (g : Group) : State := s.modDie (coreDie g.core) fun d => { d with notices := d.notices.filter (· ≠ g.gid) }

/-- Whether firmware can resume or restart a trapped group: its team runs, and no request has stopped it, for then the trap stays pending
until the team resumes (R101). -/
def State.mayHandle (s : State) (g : Group) : Bool :=
  (s.teamOf g).any (fun t => t.place = .running) && g.slot0.all (·.stop.isNone) && g.slot1.all (·.stop.isNone)

/-- CODE and AUX of a trap as B of a page-fault event. -/
def TrapRec.pair (t : TrapRec) : Nat := t.code + t.aux * 65536

/-- Firmware's reads of what tells whether a group holds a task, one that its TKGET has just taken among them (R309), in a pool with RESTART,
and whether its trap is one that R316 is about; or the address that it cannot read of the TCB or the pool, which counts as such. -/
def State.restartReads (s : State) (g : Group) : Except Nat (State × Bool) :=
  match s.taskOf g with
  | none => .ok (s, false)
  | some tcb =>
    if g.trap.code ≠ 0x08 && g.trap.code ≠ 0x09 then .ok (s, false)
    else
      let ag := s.taskAgent (s.ctxIdOf g) g.core
      match s.peekVa ag (tcb + 0x18) 8 with
      | .error e => .error e.2
      | .ok (s, pool) => match s.peekVa ag (pool + 0x48) 4 with
        | .error e => .error e.2
        | .ok (s, v) => .ok (s, v % 2 = 1)

/-- Whether R316 is about a group's trap. -/
def State.underRestart (s : State) (g : Group) : Except Nat Bool := (s.restartReads g).map (·.2)

/-- Whether a TKGET of a group has still to return: the group holds a task from its issue on, and which one is not known (R309). -/
def State.tkgetOut (s : State) (g : Group) : Bool := s.outs.any fun r => r.gid = g.gid && r.kind.isTkget && !s.heldBack g r

/-- Whether R304's table decides a group's trap, which a TKGET under way leaves open where R316 may. -/
def State.byTable (s : State) (g : Group) : Bool :=
  !((g.trap.code = 0x08 || g.trap.code = 0x09) && s.tkgetOut g) &&
  match s.underRestart g with
  | .ok b => !b
  | .error _ => false

/-- Whether a trap is an ACCESS after issue of a group that R304 restarts. -/
def State.restarts (s : State) (g : Group) : Bool :=
  g.trap.code = 0x09 && g.trap.aux / 4 % 2 = 1 && (s.launchOf g).any fun l => l.kd.gflags / 4 % 2 = 1

/-- Whether R304 kills the context of a trapped group. -/
def State.killsFor (s : State) (g : Group) : Bool :=
  g.trap.code ≠ 0x08 && g.trap.code ≠ 0x0D && g.trap.code ≠ 0x11 && g.trap.code ≠ 0x12 && !s.restarts g

/-- The completion record of the launch that a group works for. -/
def State.crecOf (s : State) (g : Group) : Nat := (((s.launchOf g).bind fun l => s.launch? (s.rootLaunch l)).map (·.crec)).getD 0

/-- Firmware kills the context of a trapped group. -/
def State.killFor (s : State) (g : Group) : State := s.killContext (coreDie g.core) (s.ctxIdOf g) g.trap.code (s.crecOf g)

/-- Post a page-fault event for a group; it waits for the host's reply. -/
def State.postPage (s : State) (g : Group) (phase : TrapPhase) : State :=
  let ctx := s.ctxIdOf g
  let s := (s.putGroup { g with phase := phase }).postEvent (coreDie g.core) 2 ctx g.trap.addr.toNat g.trap.pair
  s.setEvents { s.events with waiting := s.events.waiting ++ [⟨ctx, g.trap.addr.toNat, none, g.gid⟩] }

/-- Resume a group, `skip` bytes behind the recorded PC. -/
def State.resumeTrapped (s : State) (g : Group) (skip : Nat) : State := (s.putGroup (g.trapReturn skip)).unnotice g

/-- The bytes of a TRAP and its mask word, with a LIT before it (R101). -/
def State.trapLen (s : State) (g : Group) : Nat :=
  let len (a : Nat) : Nat := match s.fetchWord g a with | .ok w => if (marksOf w).p then 8 else 4 | .error _ => 4
  match s.fetchWord g g.trap.pc.toNat with
  | .ok w => if opOf w = 0x02 then 8 + len (g.trap.pc.toNat + 8) else len g.trap.pc.toNat
  | .error _ => 4

/-- FIRMWARE_TRAP_RESUME: a page fault is posted, and the group resumes once the host has reported its page mapped; TRAP and
ARITH are posted and the group resumes. -/
def execFirmwareTrapResume (gid : Nat) (s : State) : Out :=
  match s.group? gid with
  | none => .next s
  | some g =>
    if !s.mayHandle g then .next s
    else if g.phase = .repaired then .next (s.resumeTrapped g 0)
    else if g.phase ≠ .notified || !s.byTable g then .next s
    else
      let post (kind : Nat) : State := s.postEvent (coreDie g.core) kind (s.ctxIdOf g) g.trap.pc.toNat g.trap.aux
      if g.trap.code = 0x08 then .next (s.postPage g .posted)
      else if g.trap.code = 0x12 then .next ((post 3).resumeTrapped g (s.trapLen g))
      else if g.trap.code = 0x11 then .next ((post 4).resumeTrapped g 0)
      else .next s

/-- GROUP_RESTART: an access that failed after issue, in a kernel that declares `.restart`; what the group had issued is complete
first (R98). -/
def execGroupRestart (gid : Nat) (s : State) : Out :=
  match s.group? gid with
  | none => .next s
  | some g =>
    if g.phase = .notified && s.byTable g && s.restarts g && s.mayHandle g && s.issuedDone g then .next ((s.restartGroup gid).unnotice g)
    else .next s

/-- CONTEXT_TEARDOWN: firmware kills a context for a trap that R304 does not repair, or whose page the host declined. -/
def execContextTeardown (ctxid : Nat) (s : State) : Out :=
  let dies (g : Group) : Bool := !g.fw && s.ctxIdOf g = ctxid && (g.phase = .declined || (g.phase = .notified && s.byTable g && s.killsFor g))
  match s.groups.find? dies with
  | some g => .next (s.killFor g)
  | none => .next s

/-! ## Tasks of a RESTART pool (R316) -/

/-- Step 1: the TCB and the pool's FAULTS; the state as far as the writes went, the address that faults, and FCOUNT. -/
def State.markFaulted (s : State) (g : Group) (tcb : Nat) : State × Option Nat × Nat :=
  let ag := s.taskAgent (s.ctxIdOf g) g.core
  match s.peekVa ag (tcb + 0x12) 2 with
  | .error e => (s, some e.2, 0)
  | .ok (s, n) => match s.peekVa ag (tcb + 0x18) 8 with
    | .error e => (s, some e.2, 0)
    | .ok (s, pool) =>
      let n := min (n + 1) 0xFFFF
      match s.putVa ag (tcb + 4) 1 5 with
      | .error e => (s, some e.2, 0)
      | .ok s =>
        let s := s.pokeOr ag (tcb + 6) (bytesOf g.trap.code 2)
        let s := s.pokeOr ag (tcb + 0x12) (bytesOf n 2)
        let s := s.pokeOr ag (tcb + 0x38) (bytesOf g.trap.pc.toNat 8)
        match s.addVa ag (pool + 0x4C) 4 1 with
        | .error e => (s, some e.2, n)
        | .ok (s, _) => (s, none, n)

/-- Step 3: firmware's TKPOST on the task, which posts one that is FAULTED, IDLE or DONE (R313): the task unit performs it as a result of
no group; or the state as it then is and the address of the TCB that faults. -/
def State.repostTask (s : State) (g : Group) (tcb : Nat) : Except (State × Nat) State :=
  let ag := s.taskAgent (s.ctxIdOf g) g.core
  let s := s.releaseAt ag tcb
  match s.peekVa ag (tcb + 4) 1 with
  | .error e => .error (s, e.2)
  | .ok (s, st) =>
    let posts := st = 0 || st = 4 || st = 5
    let (oid, s) := s.fresh
    let w : TaskWork := { ag.work tcb 0 none with blocked := some tcb }
    let r : Outst := ⟨oid, 0, 0, 0, 1, 0, perLane fun _ => 0, if posts then 1 else 0, .post w, 0, false⟩
    let s := (s.putGroup { g with phase := .taskPosting oid }).addOut r
    .ok (if posts then s.runWork r .post w else s)

/-- Firmware leaves R316 at an address that faults: it posts an engine error and handles the trap by R304; the task stays bound. -/
def State.leaveRestart (s : State) (g : Group) (tcb a : Nat) : State :=
  let ag := s.taskAgent (s.ctxIdOf g) g.core
  let s := (s.tryVa ag .wr a).putGroup g
  let s := s.engineError (s.homeDie ag tcb) ag.ctx a 5
  if g.phase ≠ .notified && g.trap.code = 0x08 then s.resumeTrapped g 0
  else if g.trap.code = 0x08 then s.postPage g .posted
  else if s.restarts g then (s.restartGroup g.gid).unnotice g
  else s.killFor g

/-- Step 4: the binding is cleared and the group restarts. -/
def State.restartTask (s : State) (g : Group) : State := ((s.putGroup { g with task := none }).restartGroup g.gid).unnotice g

/-- What firmware does while its TKPOST is under way: it waits; a TKPOST that has failed ends R316 at that step. -/
def State.awaitPost (s : State) (g : Group) (tcb oid : Nat) : State :=
  match s.out? oid with
  | none => s.restartTask g
  | some r =>
    if r.left = 0 then (s.dropOut oid).restartTask g
    else if r.left = 2 then (s.dropOut oid).leaveRestart g tcb (r.vals.headD 0)
    else s

/-- TASK_FAULT_REPOST: the task is marked, its page is repaired by the host, the task is posted again and the group restarts
without it. A task that the group's TKGET has taken, while its STATE cannot be written, is bound like any other (R309). -/
def execTaskFaultRepost (gid : Nat) (s : State) : Out :=
  match s.group? gid with
  | none => .next s
  | some g => match s.taskOf g with
    | none => .next s
    | some tcb =>
      let g := { g with task := some tcb }
      if !s.mayHandle g || !s.issuedDone g then .next s
      else match g.phase with
        | .taskPosting oid => .next (s.awaitPost g tcb oid)
        | .taskRepaired => match s.repostTask g tcb with
          | .error (s, a) => .next (s.leaveRestart g tcb a)
          | .ok s => .next s
        | .notified => match s.restartReads g with
          | .ok (_, false) => .next s
          | .error a => .next (s.leaveRestart g tcb a)
          | .ok (s, true) => match s.markFaulted g tcb with
            | (s, some a, _) => .next (s.leaveRestart g tcb a)
            | (s, none, n) => if 255 ≤ n then .next (s.killFor g) else .next (s.postPage g .task)
        | _ => .next s

/-! ## Far atomics that fault again (R252) -/

/-- Whether a group's trap ends in a restart or a kill, so that no further fault of what it had issued is reported. -/
def State.neverResumes (s : State) (g : Group) : Bool :=
  g.trap.code = 0x09 || (match s.underRestart g with | .ok b => b | .error _ => true)

/-- HOME_FAULT_REPLAY: the edge unit replays a lane's request once; if it faults again, the group traps ACCESS after
issue (R252). It stands behind what is to be performed before it, a replay of an earlier request too. A second fault of a group that has ended
since is dropped and reported nowhere (log 99). -/
def execHomeFaultReplay (rid : Nat) (s : State) : Out :=
  match s.net.requests.find? fun r => r.rid = rid with
  | some r =>
    if !r.faulted || !s.net.clear r then .next s
    else if !s.homeFaults r.pa then .next (s.performFar r)
    else
      let gone := (s.setNet { s.net with
        requests := s.net.requests.filter (fun q => q.rid ≠ rid), origs := s.net.origs.filter fun o => o.rid ≠ rid }).replyLost r.member r.va
      match s.group? r.gid with
      | some g =>
        if g.ended then .next gone
        else if g.phase = .none then .next (gone.trapLate g r.slot r.pc 1 r.va (1#64 <<< r.lane))
        else if s.neverResumes g then .next gone
        else .next s
      | none => .next gone
  | none => .next s

/-! ## ACC_OWNER (R378, R384, R385) -/

/-- The tiles that the instruction at a trap's PC uses. -/
def State.trapTiles (s : State) (g : Group) : List Nat :=
  let tiles (a : Nat) : List Nat := match s.fetchWord g a with
    | .error _ => []
    | .ok w => match decodeWord w 0 with
      | .ok (.mma _ t _ _ x) => (s.fslot g x.toNat).tiles t.toNat
      | .ok (.mmaz _ t _ _ x) => (s.fslot g x.toNat).tiles t.toNat
      | .ok (.accld _ t _ x) => (s.fslot g x.toNat).tiles t.toNat
      | .ok (.accst _ t _ x) => (s.fslot g x.toNat).tiles t.toNat
      | .ok (.mfree _ t) => [t.toNat]
      | .ok (.accrd _ _ t w _) => if w.toNat = 1 then [t.toNat, t.toNat + 1] else [t.toNat]
      | _ => []
  match s.fetchWord g g.trap.pc.toNat with
  | .ok w => tiles (g.trap.pc.toNat + (if opOf w = 0x02 then 8 else 0))
  | .error _ => []

/-- Whether a group waits for the ownership of one of some tiles of a cluster; one whose team is saved, revoked or stopped holds up no
other. -/
def State.wantsTile (s : State) (cl : Nat) (ts : List Nat) (gid : Nat) : Bool :=
  (s.group? gid).any fun h => h.phase = .notified && s.mayHandle h && h.trap.code = 0x0D && coreCluster h.core = cl && (s.trapTiles h).any ts.contains

/-- Steps 2 to 4 for one tile. -/
def State.transferTile (s : State) (ctx cl t : Nat) : State :=
  let tile := (s.cluster cl).tiles.getD t Tile.reset
  if tile.owner = some ctx then s
  else
    let s := match tile.owner.bind s.ctx? with
      | none => s
      | some y => match s.spillTile y cl t tile with
        | some s => s
        | none => s.killContext (cl / 48) y.ctxid 0 0
    match s.ctx? ctx with
    | none => s
    | some x =>
      let (tile, s) := s.unspillTile x cl t tile
      let mark := s.spilledAnywhere cl t
      s.modCluster cl fun k => { k with tiles := k.tiles.set t { tile with owner := some ctx, rmark := mark } }

/-- ACC_OWNER_SPILL: the first notification on a tile is handled once every operation that all members have issued on it is
complete; then the group resumes. One whose context owns its tiles already resumes at once (R385). -/
def execAccOwnerSpill (gid : Nat) (s : State) : Out :=
  match s.group? gid with
  | none => .next s
  | some g =>
    let cl := coreCluster g.core
    let ts := s.trapTiles g
    let first := (s.die (coreDie g.core)).notices.find? (s.wantsTile cl ts)
    let foreign := ts.filter fun t => ((s.cluster cl).tiles.getD t Tile.reset).owner ≠ some (s.ctxIdOf g)
    let busy := s.gangs.any fun x => x.cluster = cl && x.ops.any fun o => x.eligible o && (s.opInsn x o).tiles.any foreign.contains
    if g.phase ≠ .notified || g.trap.code ≠ 0x0D || !s.mayHandle g || first ≠ some gid || busy then .next s
    else
      let s := ts.foldl (fun (s : State) t => s.transferTile (s.ctxIdOf g) cl t) s
      match s.group? gid with
      | some g => .next (s.resumeTrapped g 0)
      | none => .next s

/-! ## Engine faults (R283, R341, R396, R408, R420, R425, R430, R434) -/

/-- An engine operation that a fault holds: its agent, the address, whether it was a write, its die, the completion record, and
whether the host has reported the page mapped. -/
structure HeldFault where
  ag : Agent
  addr : Nat
  write : Bool
  die : Nat
  crec : Nat
  repaired : Bool
  deriving DecidableEq, Repr

/-- The fault that holds what a source names. -/
def State.heldFault (s : State) (src : EngineSource) : Option HeldFault :=
  match src with
  | .copy gid n => (s.group? gid).bind fun g => (g.copyOps.find? fun o => o.n = n).bind fun o =>
      o.fault.map fun x => ⟨s.engineAgent g, x.1, x.2, coreDie g.core, s.crecOf g, o.repaired⟩
  | .sampler gid n => (s.group? gid).bind fun g => (g.sampOps.find? fun o => o.n = n).bind fun o =>
      o.fault.map fun a => ⟨s.engineAgent g, a, false, coreDie g.core, s.crecOf g, o.repaired⟩
  | .ray gid n => (s.group? gid).bind fun g => (g.rayOps.find? fun o => o.n = n).bind fun o =>
      o.fault.map fun a => ⟨s.engineAgent g, a, false, coreDie g.core, s.crecOf g, o.repaired⟩
  | .selvedge fid v => (s.frame? fid).bind fun fr => (s.selvedgeFault fr v).map fun a =>
      ⟨s.selvedgeAgent fr.die fr.ctx, a, true, fr.die, ((s.launch? fr.lid).map (·.crec)).getD 0, (fr.views[v]?).any (·.repaired)⟩
  | .egress ctx i n => ((s.ctx? ctx).bind fun c => c.streams[i]?).bind fun x => (x.ops.find? fun o => o.n = n).bind fun o =>
      o.fault.map fun a => ⟨s.selvedgeAgent (coreDie o.core) ctx, a, true, coreDie o.core, 0, o.repaired⟩
  | .raster fid => (s.frame? fid).bind fun fr =>
      fr.fault.map fun a => ⟨s.rasterAgent fr, a, true, fr.die, ((s.launch? fr.lid).map (·.crec)).getD 0, fr.repaired⟩
  | .launch lid => (s.launch? lid).bind fun l => l.held.bind fun h => (s.ctx? l.ctx).map fun c => ⟨c.cpAgent l.die, h.2, true, l.die, l.crec, l.repaired⟩
  | .packet qid => (s.queue? qid).bind fun q => q.held.map fun a => ⟨s.queueAgent q, a, true, q.die, 0, q.repaired⟩
  | .beater pid off => (s.shadow? pid off).bind fun p =>
      p.2.fault.map fun a => ⟨s.beaterAgent p.1 p.2.ctx, a, true, p.1 / 48, 0, p.2.repaired⟩

/-- The trap code that an engine's fault is reported with, and whether it can be repaired: not a harvest access to an SO page,
an address outside GLOBAL, or one that is not backed. -/
def State.faultKind (s : State) (f : HeldFault) : Nat × Bool :=
  if 2 ^ 56 ≤ f.addr then (0x0A, false)
  else match s.checkPiece f.ag (if f.write then .wr else .rd) ⟨.va f.addr, 1⟩ with
    | .ok _ => (0x08, true)
    | .error c =>
      if c = 0x10 then (0x10, false)
      else if c = 0x08 then (0x08, true)
      else (c, (s.pageOf f.ag f.addr).any fun t => s.backed (t.1.pa f.addr))

/-- ENGINE_FAULT: the report reaches firmware, which posts a page-fault event, or kills the context where nothing can repair it. The report
is no wake event of R196 here: no rule calls it a trap notification (log 97). -/
def execEngineFault (src : EngineSource) (s : State) : Out :=
  match s.heldFault src with
  | none => .next s
  | some f =>
    if f.repaired || s.events.waiting.any (fun w => w.src = some src) then .next s
    else
      let (code, repairable) := s.faultKind f
      if !repairable then .next (s.killContext f.die f.ag.ctx code f.crec)
      else
        let s := s.postEvent f.die 2 f.ag.ctx f.addr (code + (if f.write then 65536 else 0))
        .next (s.setEvents { s.events with waiting := s.events.waiting ++ [⟨f.ag.ctx, f.addr, some src, 0⟩] })

/-- Change what a source names: a copy operation, a sampler operation and so on, by the fault and repair marks `f` gives. -/
def State.setRepair (s : State) (src : EngineSource) (clear repaired : Bool) : State :=
  let keep {α : Type} (o : Option α) : Option α := if clear then none else o
  match src with
  | .copy gid n => match s.group? gid with
    | some g => s.putGroup { g with copyOps := mapWhere (fun (o : CopyOp) => o.n = n) (fun o => { o with fault := keep o.fault, repaired := repaired }) g.copyOps }
    | none => s
  | .sampler gid n => match s.group? gid with
    | some g => s.putGroup { g with sampOps := mapWhere (fun (o : SampOp) => o.n = n) (fun o => { o with fault := keep o.fault, repaired := repaired }) g.sampOps }
    | none => s
  | .ray gid n => match s.group? gid with
    | some g => s.putGroup { g with rayOps := mapWhere (fun (o : RayOp) => o.n = n) (fun o => { o with fault := keep o.fault, repaired := repaired }) g.rayOps }
    | none => s
  | .selvedge fid v => match s.frame? fid with
    | some fr => s.putFrame { fr with views := fr.views.modify v fun w => { w with repaired := repaired } }
    | none => s
  | .egress ctx i n => s.modStream ctx i fun x =>
      { x with ops := mapWhere (fun (o : EgrOp) => o.n = n) (fun o => { o with fault := keep o.fault, repaired := repaired }) x.ops }
  | .raster fid => match s.frame? fid with
    | some fr => s.putFrame { fr with fault := keep fr.fault, repaired := repaired }
    | none => s
  | .launch lid => match s.launch? lid with
    | some l => s.putLaunch { l with repaired := repaired }
    | none => s
  | .packet qid => match s.queue? qid with
    | some q => s.putQueue { q with repaired := repaired }
    | none => s
  | .beater pid off => match s.shadow? pid off with
    | some (cl, x) => s.putShadow cl { x with fault := keep x.fault, repaired := repaired }
    | none => s

/-- The Selvedge takes up a view's frame number and its late strips again. -/
def State.resumeSelvedge (s : State) (fid v : Nat) : State :=
  let s := match (s.frame? fid).map fun fr => s.frameNumber fr v with
    | some (.ok s) => s
    | _ => s
  match s.frame? fid with
  | none => s
  | some fr => (List.range (((fr.views[v]?).map View.nstrips).getD 0)).foldl (fun (s : State) k => match (s.frame? fid).map fun fr => s.deadline fr v k with
      | some (.ok (some s)) => s
      | _ => s) s

/-- ENGINE_FAULT_RESUME: the host has reported the page mapped, and the operation goes on with what it has not performed. -/
def execEngineFaultResume (src : EngineSource) (s : State) : Out :=
  match s.heldFault src with
  | none => .next s
  | some f =>
    if !f.repaired then .next s
    else
      let s := s.setRepair src true false
      match src with
      | .selvedge fid v => .next (s.resumeSelvedge fid v)
      | .launch lid => match s.launch? lid with
        | some l => .next (s.completeLaunch { l with held := none } ((l.held.map (·.1)).getD 0))
        | none => .next s
      | .packet qid => match s.queue? qid with
        | some q => match s.signalDown (s.queueAgent q) f.addr with
          | .ok s => match s.queue? qid with
            | some q => .next ((s.putQueue { q with held := none }).queueRests qid)
            | none => .next s
          | .error _ => .next s
        | none => .next s
      | _ => .next s

end Sys2Proof.Machine
end

