-- ==== Sys2Proof/Machine/Functions.lean ====
section
/-! DEFINITION. SQRT, RCP, RSQ, EXP2, LOG2, SIN and COS (R132, R133). Each value is enclosed between two fractions
narrow enough to round alike; F16 and BF16 deliver that rounding, F32 and F64 a value of the part's own choosing
within the bound of R133 (log 10). -/

namespace Sys2Proof.Machine

/-! ## Fixed-point series: integers scaled by 2^P -/

/-- Σ over k of z^(2k+1) / (2k+1), with signs alternating if `alt`: `pow` is z^(2k+1), `sq` is z², scaled. -/
def oddSeries (P : Nat) (alt : Bool) (sq : Int) : Nat → Nat → Int → Int
  | 0, _, _ => 0
  | fuel + 1, k, pow =>
    let term := pow / (2 * k + 1 : Nat)
    (if alt && k % 2 = 1 then -term else term) + oddSeries P alt sq fuel (k + 1) (pow * sq / 2 ^ P)

/-- ln 2 = 2 artanh(1/3), scaled. -/
def ln2Fix (P : Nat) : Int := 2 * oddSeries P false (2 ^ P / 9) (P / 3 + 2) 0 (2 ^ P / 3)

/-- artan(1/n), scaled. -/
def atanInv (P n : Nat) : Int := oddSeries P true (2 ^ P / (n * n : Nat)) (P / 4 + 2) 0 (2 ^ P / (n : Nat))

/-- π by Machin's formula, scaled. -/
def piFix (P : Nat) : Int := 4 * (4 * atanInv P 5 - atanInv P 239)

/-- Σ x^k / k! from the k-th term on, `term` being that term, scaled; `step` indexes, two at a time with a sign change
if `trig`. -/
def powSeries (P : Nat) (trig : Bool) (x : Int) : Nat → Nat → Int → Int
  | 0, _, _ => 0
  | fuel + 1, k, term =>
    if trig then term + powSeries P trig x fuel (k + 2) (-(term * x / 2 ^ P * x / 2 ^ P) / ((k + 1) * (k + 2) : Nat))
    else term + powSeries P trig x fuel (k + 1) (term * x / 2 ^ P / (k + 1 : Nat))

/-- An enclosure: the scaled value with `slack` units either way. -/
def enclose (P : Nat) (v slack : Int) : Frac × Frac := (⟨v - slack, 2 ^ P⟩, ⟨v + slack, 2 ^ P⟩)

/-! ## Enclosures of the functions at a non-zero fraction -/

/-- x scaled to an integer, rounded down. -/
def scaled (P : Nat) (x : Frac) : Int := x.num * 2 ^ P / (x.den : Int)

/-- 2^x for x that is no integer. -/
def exp2Enclose (P : Nat) (x : Frac) : Frac × Frac :=
  let n := x.floor
  let f := scaled P (x.sub (Frac.ofInt n))
  let y := f * ln2Fix P / 2 ^ P
  let e := enclose P (powSeries P false y (P / 2 + 8) 0 (2 ^ P)) (2 ^ 20 + P)
  (e.1.shift n, e.2.shift n)

/-- log2 x for positive x. -/
def log2Enclose (P : Nat) (x : Frac) : Frac × Frac :=
  let e := floorLog2 x.num.natAbs x.den
  let m := x.shift (-e)
  let z := scaled P ((m.sub (Frac.ofInt 1)).div (m.add (Frac.ofInt 1)))
  let ln := 2 * oddSeries P false (z * z / 2 ^ P) (P / 3 + 2) 0 z
  enclose P (e * 2 ^ P + ln * 2 ^ P / ln2Fix P) (2 ^ 20 + P)

/-- The reduced argument x − k π/2 in [−π/4, π/4], scaled by 2^P, and k. -/
def reduceArg (P : Nat) (x : Frac) : Int × Int :=
  let e := (floorLog2 x.num.natAbs x.den).toNat
  let Q := P + e + 8
  let half := piFix Q / 2
  let v := scaled Q x
  let k := (2 * v + half) / (2 * half)
  ((v - k * half) / 2 ^ (e + 8), k)

/-- sin x (cosine if `cos`), x not zero. A very small x takes the first terms of the series exactly. -/
def sinEnclose (P : Nat) (cos : Bool) (x : Frac) : Frac × Frac :=
  if floorLog2 x.num.natAbs x.den < -40 then
    let x2 := x.mul x
    let a := if cos then (Frac.ofInt 1).sub (x2.shift (-1)) else x.sub ((x2.mul x).div ⟨6, 1⟩)
    let d := if cos then (x2.mul x2).div ⟨24, 1⟩ else ((x2.mul x2).mul x).div ⟨120, 1⟩
    if x.num < 0 && !cos then (a.add d, a) else (a, a.add d)
  else
    let (r, k) := reduceArg P x
    let q := (k + (if cos then 1 else 0)) % 4
    let v := if q % 2 = 0 then powSeries P true r (P / 2 + 8) 1 r else powSeries P true r (P / 2 + 8) 0 (2 ^ P)
    enclose P (if 2 ≤ q then -v else v) (2 ^ 20 + P)

/-! ## Delivered values -/

/-- A rounding on which both ends of an enclosure agree, with more precision as needed. -/
def agreeRound (f : FFmt) (enc : Nat → Frac × Frac) : List Nat → Nat
  | [] => 0
  | P :: Ps =>
    let (lo, hi) := enc P
    let a := (roundZ f 0 false lo).1
    if a = (roundZ f 0 false hi).1 then a
    else match Ps with
      | [] => a
      | _ => agreeRound f enc Ps

/-- The precisions tried. -/
def precisions : List Nat := [96, 192, 384]

/-- The unit in the last place at an exact value (R133). -/
def ulpAt (f : FFmt) (x : Frac) : Frac := (Frac.ofInt 1).shift (max (floorLog2 x.num.natAbs x.den) f.emin - f.m)

/-- Whether a code lies within `bound` ulp of every value of an enclosure (R133). -/
def withinUlp (f : FFmt) (bound : Int) (lo hi : Frac) (c : Nat) : Bool :=
  let v := (decodeF f c).frac
  let u := (ulpAt f (if lo.isZero then hi else lo)).mul (Frac.ofInt bound)
  ((v.sub lo).abs).le u && ((v.sub hi).abs).le u

/-- The value that the part delivers in F32 or F64: the rounded code moved by the part's own step, where that stays
finite, keeps the sign and the bound; the rounded code otherwise (log 10). -/
def deliver (f : FFmt) (fn operand : Nat) (bound : Int) (lo hi : Frac) (c : Nat) : Nat :=
  if f = f64 || f = f32 then
    let sign := c / 2 ^ (f.e + f.m) * 2 ^ (f.e + f.m)
    let mag : Int := (c % 2 ^ (f.e + f.m) : Nat) + Config.ulpStep fn (if f = f64 then 0 else 1) operand
    if 0 ≤ mag && mag ≤ f.maxCode && (c % 2 ^ (f.e + f.m) ≤ f.maxCode) && withinUlp f bound lo hi (sign + mag.toNat) then sign + mag.toNat else c
  else c

/-- The events of an inexact delivered value: overflow, or underflow if it is tiny. -/
def deliveredEvents (f : FFmt) (c : Nat) : Nat :=
  let mag := c % 2 ^ (f.e + f.m)
  if f.maxCode < mag then evOver else if mag < 2 ^ f.m then evUnder else 0

/-- A function value that is not exact. -/
def functionValue (f : FFmt) (fn operand : Nat) (bound : Int) (enc : Nat → Frac × Frac) : Nat × Nat :=
  let c := agreeRound f enc precisions
  let e := enc 384
  let r := deliver f fn operand bound e.1 e.2 c
  (r, deliveredEvents f r)

/-- RCP (R132, R133). A result that the format represents exactly is delivered exactly, within the bound (log 10). -/
def fRcp (f : FFmt) (a : Nat) : Nat × Nat :=
  match nanOf f [a] with
  | some r => r
  | none => match decodeF f a with
    | .inf n => (f.signBit n, 0)
    | .zero n => (f.signBit n + f.infCode, evInf)
    | .fin x =>
      let y := (Frac.ofInt 1).div x
      let (c, ev) := roundZ f 0 false y
      if (decodeF f c).frac.beq y then (c, ev) else functionValue f 0 a 1 fun _ => (y, y)
    | .nan _ _ => (f.nan, 0)

/-- RSQ (R132, R133). A result that the format represents exactly is delivered exactly, within the bound (log 10). -/
def fRsq (f : FFmt) (a : Nat) : Nat × Nat :=
  match nanOf f [a] with
  | some r => r
  | none => match decodeF f a with
    | .inf true => (f.nan, evNan)
    | .inf false => (0, 0)
    | .zero n => (f.signBit n + f.infCode, evInf)
    | .fin x =>
      if x.num < 0 then (f.nan, evNan)
      else
        let y := sqrtFrac x.den x.num.natAbs (f.m + 12)
        let (c, ev) := roundZ f 0 false y
        if ((decodeF f c).frac.mul (decodeF f c).frac).mul x |>.beq ⟨1, 1⟩ then (c, ev) else functionValue f 1 a 1 fun _ => (y, y)
    | .nan _ _ => (f.nan, 0)

/-- EXP2 (R132, R133): exact for an integer. Far below the smallest subnormal it delivers +0 and far above the range +inf, neither moved
within the bound (log 10). -/
def fExp2 (f : FFmt) (a : Nat) : Nat × Nat :=
  match nanOf f [a] with
  | some r => r
  | none => match decodeF f a with
    | .inf true => (0, 0)
    | .inf false => (f.infCode, 0)
    | .zero _ => roundZ f 0 false ⟨1, 1⟩
    | .fin x =>
      let n := x.floor
      if (f.bias : Int) + 1 < n then (f.infCode, evOver)
      else if n < f.emin - f.m - 2 then (0, evUnder)
      else if (Frac.ofInt n).beq x then roundTo f 0 ((Frac.ofInt 1).shift n)
      else functionValue f 2 a 2 fun P => exp2Enclose P x
    | .nan _ _ => (f.nan, 0)

/-- LOG2 (R132, R133): exact for a power of two. -/
def fLog2 (f : FFmt) (a : Nat) : Nat × Nat :=
  match nanOf f [a] with
  | some r => r
  | none => match decodeF f a with
    | .inf true => (f.nan, evNan)
    | .inf false => (f.infCode, 0)
    | .zero _ => (f.signBit true + f.infCode, evInf)
    | .fin x =>
      if x.num < 0 then (f.nan, evNan)
      else
        let e := floorLog2 x.num.natAbs x.den
        if ((Frac.ofInt 1).shift e).beq x then roundZ f 0 false (Frac.ofInt e)
        else functionValue f 3 a 2 fun P => log2Enclose P x
    | .nan _ _ => (f.nan, 0)

/-- SIN and COS (R132, R133). -/
def fTrig (f : FFmt) (cos : Bool) (a : Nat) : Nat × Nat :=
  match nanOf f [a] with
  | some r => r
  | none => match decodeF f a with
    | .zero n => if cos then roundZ f 0 false ⟨1, 1⟩ else (f.signBit n, 0)
    | .fin x => functionValue f (if cos then 5 else 4) a 2 fun P => sinEnclose P cos x
    | _ => (f.nan, evNan)

/-! ## The instructions -/

/-- A long-latency function of floating elements. -/
def funcOp (s : State) (i : Instr) (m : Marks) (d a : Code) (fn : Nat → FFmt → Nat → Nat × Nat) : Out :=
  laneLateOp s i m (lateDA floatType d a) d Frag.words Frag.fmt fun f l =>
    byElem f.g.type (fltElem f.g.type (fn f.g.round)) [f.src a f.words l]

def execSqrt (m : Marks) (d a : Code) (s : State) : Out := funcOp s (.sqrt m d a) m d a fun rm f v => fSqrt f rm v
def execRcp (m : Marks) (d a : Code) (s : State) : Out := funcOp s (.rcp m d a) m d a fun _ f v => fRcp f v
def execRsq (m : Marks) (d a : Code) (s : State) : Out := funcOp s (.rsq m d a) m d a fun _ f v => fRsq f v
def execExp2 (m : Marks) (d a : Code) (s : State) : Out := funcOp s (.exp2 m d a) m d a fun _ f v => fExp2 f v
def execLog2 (m : Marks) (d a : Code) (s : State) : Out := funcOp s (.log2 m d a) m d a fun _ f v => fLog2 f v
def execSin (m : Marks) (d a : Code) (s : State) : Out := funcOp s (.sin m d a) m d a fun _ f v => fTrig f false v
def execCos (m : Marks) (d a : Code) (s : State) : Out := funcOp s (.cos m d a) m d a fun _ f v => fTrig f true v

end Sys2Proof.Machine
end

