-- ==== Sys2Proof/Machine/Keccak.lean ====
section
/-! DEFINITION. SHAKE128 and SHAKE256 (R446, R448), as FIPS 202 defines them: the spec names the functions and gives no definition of its
own (log 11). -/

namespace Sys2Proof.Machine

/-- The state of the sponge: 25 lanes, lane (x, y) at index x + 5y. -/
abbrev Sponge := List (BitVec 64)

/-- A lane, its coordinates taken modulo 5. -/
def Sponge.lane (a : Sponge) (x y : Nat) : BitVec 64 := a.getD (x % 5 + 5 * (y % 5)) 0

/-- The sponge whose lane (x, y) is `f x y`. -/
def Sponge.of (f : Nat → Nat → BitVec 64) : Sponge := (List.range 25).map fun i => f (i % 5) (i / 5)

/-- How far step rho turns each lane, by index. The lanes but (0, 0) are visited from (1, 0) on, each (x, y) followed by
(y, 2x + 3y), and the one visited k-th is turned by 1 + 2 + ... + k. -/
def rhoTurns : List Nat :=
  ((List.range 24).foldl (fun (p : (Nat × Nat) × List Nat) k =>
    ((p.1.2, (2 * p.1.1 + 3 * p.1.2) % 5), p.2.set (p.1.1 + 5 * p.1.2) ((k + 1) * (k + 2) / 2 % 64))) ((1, 0), List.replicate 25 0)).2

/-- The bits of the shift register that step iota draws on: `n` of them from a register of 8 bits on, whose feedback is
x^8 + x^6 + x^5 + x^4 + 1. -/
def iotaBits : Nat → Nat → List Nat
  | 0, _ => []
  | n + 1, r => r % 2 :: iotaBits n (if r < 128 then 2 * r else (2 * r) ^^^ 0x171)

/-- The constants of step iota: each of the 24 rounds takes the next seven bits, for the bits 0, 1, 3, 7, 15, 31 and 63 of its constant. -/
def iotaWords : List (BitVec 64) :=
  let bits := iotaBits 168 1
  (List.range 24).map fun k => BitVec.ofNat 64 ((List.range 7).map fun j => bits.getD (7 * k + j) 0 * 2 ^ (2 ^ j - 1)).sum

/-- Step theta: each lane takes the parity of two columns. -/
def Sponge.theta (a : Sponge) : Sponge :=
  let c := (List.range 5).map fun x => (List.range 5).foldl (fun w y => w ^^^ a.lane x y) 0
  let d := (List.range 5).map fun x => c.getD ((x + 4) % 5) 0 ^^^ (c.getD ((x + 1) % 5) 0).rotateLeft 1
  .of fun x y => a.lane x y ^^^ d.getD x 0

/-- Steps rho and pi: lanes are rotated and moved. -/
def Sponge.rhoPi (a : Sponge) : Sponge :=
  .of fun x y => let x' := (x + 3 * y) % 5; (a.lane x' x).rotateLeft (rhoTurns.getD (x' + 5 * x) 0)

/-- Step chi. -/
def Sponge.chi (a : Sponge) : Sponge := .of fun x y => a.lane x y ^^^ (~~~a.lane (x + 1) y &&& a.lane (x + 2) y)

/-- One round: theta, rho, pi, chi, and iota with a constant. -/
def Sponge.round (a : Sponge) (w : BitVec 64) : Sponge :=
  match a.theta.rhoPi.chi with
  | l :: ls => (l ^^^ w) :: ls
  | [] => []

/-- The permutation. -/
def Sponge.permute (a : Sponge) : Sponge := iotaWords.foldl Sponge.round a

/-- A block of bytes is added to the first lanes. -/
def Sponge.absorb (a : Sponge) (block : List Byte) : Sponge :=
  Sponge.permute ((List.range 25).map fun i => a.getD i 0 ^^^ BitVec.ofNat 64 (ofBytes ((block.drop (8 * i)).take 8)))

/-- The first `rate` bytes. -/
def Sponge.bytes (a : Sponge) (rate : Nat) : List Byte := (a.flatMap fun w => bytesOf w.toNat 8).take rate

/-- `n` blocks of output. -/
def Sponge.squeeze (a : Sponge) (rate : Nat) : Nat → List Byte
  | 0 => []
  | n + 1 => a.bytes rate ++ a.permute.squeeze rate n

/-- A message padded to whole blocks: the suffix 1111 of an extendable output and the padding 10*1. -/
def shakePad (rate : Nat) (msg : List Byte) : List Byte :=
  let gap := rate - msg.length % rate
  if gap = 1 then msg ++ [0x9F] else msg ++ [0x1F] ++ List.replicate (gap - 2) 0 ++ [0x80]

/-- SHAKE of a rate in bytes, taken to `n` bytes. -/
def shake (rate : Nat) (msg : List Byte) (n : Nat) : List Byte :=
  let padded := shakePad rate msg
  let blocks := (List.range (padded.length / rate)).map fun i => (padded.drop (rate * i)).take rate
  ((blocks.foldl Sponge.absorb (List.replicate 25 0)).squeeze rate (n / rate + 1)).take n

/-- SHAKE128 taken to `n` bytes. -/
def shake128 (msg : List Byte) (n : Nat) : List Byte := shake 168 msg n

/-- SHAKE256 taken to `n` bytes. -/
def shake256 (msg : List Byte) (n : Nat) : List Byte := shake 136 msg n

end Sys2Proof.Machine
end

