-- ==== Sys2Proof/Machine/Mldsa.lean ====
section
/-! DEFINITION. HashML-DSA-65 with pre-hash function SHAKE256 at 512 bits of output (R446, R448), as FIPS 204 defines it: the spec names
the standard and gives no definition of its own (log 11). -/

namespace Sys2Proof.Machine

/-! ## The parameters of ML-DSA-65 -/

/-- The modulus. -/
def dsaQ : Nat := 8380417
/-- The rows and columns of the matrix. -/
def dsaK : Nat := 6
def dsaL : Nat := 5
/-- The range of the mask, the rounding range of low bits, the bound β = τη. -/
def dsaGamma1 : Nat := 2 ^ 19
def dsaGamma2 : Nat := 261888
def dsaBeta : Nat := 196
/-- The number of coefficients that are not 0 in a challenge, and of ones in a hint at most. -/
def dsaTau : Nat := 49
def dsaOmega : Nat := 55

/-! ## Polynomials of 256 coefficients modulo q -/

/-- A polynomial: 256 coefficients below q, of degree 0 first; or its 256 values in the transformed domain. -/
abbrev Poly := List Nat

/-- The residue of an integer. -/
def dsaMod (z : Int) : Nat := (z % (dsaQ : Int)).toNat

/-- The representative of a residue nearest 0 (mod± q). -/
def dsaCentre (c : Nat) : Int := if 2 * c < dsaQ then c else (c : Int) - dsaQ

/-- The greatest absolute value of a coefficient of some polynomials. -/
def dsaNorm (ps : List Poly) : Nat := (ps.flatMap id).foldl (fun m c => max m (dsaCentre c).natAbs) 0

def Poly.add (a b : Poly) : Poly := List.zipWith (fun x y => (x + y) % dsaQ) a b
def Poly.sub (a b : Poly) : Poly := List.zipWith (fun x y => (x + (dsaQ - y)) % dsaQ) a b
/-- The product in the transformed domain. -/
def Poly.mul (a b : Poly) : Poly := List.zipWith (fun x y => x * y % dsaQ) a b
/-- The value at a point. -/
def Poly.value (p : Poly) (x : Nat) : Nat := p.foldr (fun c v => (c + v * x) % dsaQ) 0

/-- The powers of a number: `n` of them from 1 on. -/
def dsaPowers (x : Nat) : Nat → List Nat
  | 0 => []
  | n + 1 => 1 :: (dsaPowers x n).map fun y => y * x % dsaQ

/-- The eight bits of a number reversed. -/
def rev8 (i : Nat) : Nat := (List.range 8).foldl (fun v k => 2 * v + i / 2 ^ k % 2) 0

/-- The 512 powers of 1753, a root of unity. -/
def dsaRoots : List Nat := dsaPowers 1753 512

/-- The transform: the values at the odd powers of the root, in bit-reversed order. -/
def Poly.ntt (p : Poly) : Poly := (List.range 256).map fun i => p.value (dsaRoots.getD (2 * rev8 i + 1) 0)

/-- The inverse transform. -/
def Poly.invNtt (p : Poly) : Poly :=
  let inOrder := (List.range 256).map fun i => p.getD (rev8 i) 0
  (List.range 256).map fun j => dsaRoots.getD ((512 - j) % 512) 0 * (Poly.value inOrder (dsaRoots.getD ((1024 - 2 * j) % 512) 0)) % dsaQ * 8347681 % dsaQ

/-- A matrix times a vector, in the transformed domain. -/
def dsaApply (m : List (List Poly)) (v : List Poly) : List Poly :=
  m.map fun row => (List.zipWith Poly.mul row v).foldl Poly.add (List.replicate 256 0)

/-! ## Bits and packing -/

/-- The coefficients that bytes hold, `w` bits each. -/
def unpackBits (w : Nat) (bs : List Byte) : List Nat :=
  (List.range (8 * bs.length / w)).map fun i => ofBytes ((bs.drop (w * i / 8)).take (w / 8 + 2)) / 2 ^ (w * i % 8) % 2 ^ w

/-- Coefficients packed, `w` bits each: 256 of them fill whole bytes. -/
def packBits (w : Nat) (cs : List Nat) : List Byte := bytesOf (cs.foldr (fun c v => c + v * 2 ^ w) 0) (w * cs.length / 8)

/-! ## Sampling. FIPS 204 draws until it has enough; the lengths below fall short with probability under 2^-256 (log 11) -/

/-- RejNTTPoly. -/
def dsaUniform (seed : List Byte) : Poly :=
  let xs := (unpackBits 24 (shake128 seed 1344)).map (· % 2 ^ 23)
  ((xs.filter (· < dsaQ)) ++ List.replicate 256 0).take 256

/-- RejBoundedPoly with η = 4. -/
def dsaShort (seed : List Byte) : Poly :=
  let xs := (unpackBits 4 (shake256 seed 544)).filter (· < 9)
  ((xs.map fun x => dsaMod (4 - (x : Int))) ++ List.replicate 256 0).take 256

/-- ExpandA. -/
def dsaMatrix (rho : List Byte) : List (List Poly) :=
  (List.range dsaK).map fun r => (List.range dsaL).map fun c => dsaUniform (rho ++ bytesOf c 1 ++ bytesOf r 1)

/-- ExpandMask. -/
def dsaMask (rho : List Byte) (kappa : Nat) : List Poly :=
  (List.range dsaL).map fun r => (unpackBits 20 (shake256 (rho ++ bytesOf (kappa + r) 2) 640)).map fun x => dsaMod ((dsaGamma1 : Int) - x)

/-- One swap of SampleInBall for a position: the next byte not above it, and what is left of the bytes. -/
def dsaDraw (i : Nat) : List Byte → Nat × List Byte
  | [] => (0, [])
  | b :: bs => if b.toNat ≤ i then (b.toNat, bs) else dsaDraw i bs

/-- SampleInBall. -/
def dsaBall (seed : List Byte) : Poly :=
  let bs := shake256 seed 544
  let signs := ofBytes (bs.take 8)
  let put (acc : Poly × List Byte) (n : Nat) : Poly × List Byte :=
    let i := 256 - dsaTau + n
    let d := dsaDraw i acc.2
    ((acc.1.set i (acc.1.getD d.1 0)).set d.1 (if signs / 2 ^ n % 2 = 1 then dsaQ - 1 else 1), d.2)
  ((List.range dsaTau).foldl put (List.replicate 256 0, bs.drop 8)).1

/-! ## Rounding and hints -/

/-- Power2Round: high and low part. -/
def dsaPower2Round (r : Nat) : Nat × Int :=
  let low : Int := if r % 8192 ≤ 4096 then (r % 8192 : Nat) else ((r % 8192 : Nat) : Int) - 8192
  ((((r : Int) - low) / 8192).toNat, low)

/-- Decompose: high and low part. -/
def dsaDecompose (r : Nat) : Nat × Int :=
  let m := r % (2 * dsaGamma2)
  let low : Int := if m ≤ dsaGamma2 then m else (m : Int) - 2 * dsaGamma2
  if (r : Int) - low = dsaQ - 1 then (0, low - 1) else ((((r : Int) - low) / (2 * dsaGamma2)).toNat, low)

/-- HighBits and LowBits of polynomials. -/
def dsaHigh (ps : List Poly) : List Poly := ps.map fun p => p.map fun c => (dsaDecompose c).1
def dsaLow (ps : List Poly) : List Poly := ps.map fun p => p.map fun c => dsaMod (dsaDecompose c).2

/-- MakeHint of `z` for `r`. -/
def dsaMakeHint (z r : Poly) : List Bool := List.zipWith (fun z r => (dsaDecompose r).1 ≠ (dsaDecompose ((r + z) % dsaQ)).1) z r

/-- UseHint. -/
def dsaUseHint (h : Bool) (r : Nat) : Nat :=
  let d := dsaDecompose r
  if !h then d.1 else if 0 < d.2 then (d.1 + 1) % 16 else (d.1 + 15) % 16

/-- HintBitPack. -/
def dsaHintPack (hs : List (List Bool)) : List Byte :=
  let at1 := hs.map fun h => (List.range 256).filter fun i => h.getD i false
  let ends := (List.range dsaK).map fun i => ((at1.take (i + 1)).flatMap id).length
  (((at1.flatMap id).map (BitVec.ofNat 8) ++ List.replicate dsaOmega 0).take dsaOmega) ++ ends.map (BitVec.ofNat 8)

/-- HintBitUnpack: nothing where the bytes are no canonical hint. -/
def dsaHintUnpack (bs : List Byte) : Option (List (List Bool)) :=
  let place (i : Nat) : Nat := (bs.getD i 0).toNat
  let limit (i : Nat) : Nat := if i = 0 then 0 else place (dsaOmega + i - 1)
  let rows := (List.range dsaK).map fun i => ((List.range dsaOmega).filter fun j => limit i ≤ j && j < limit (i + 1)).map place
  let good := (List.range dsaK).all (fun i => limit i ≤ limit (i + 1) && limit (i + 1) ≤ dsaOmega) &&
    rows.all (fun r => (r.zip (r.drop 1)).all fun p => p.1 < p.2) &&
    (List.range dsaOmega).all fun j => j < limit dsaK || place j = 0
  if good then some (rows.map fun r => (List.range 256).map fun i => r.contains i) else none

/-! ## Keys, signing, verifying -/

/-- A private key: the seed of the matrix, K, tr, and the secret vectors. -/
structure DsaKey where
  rho : List Byte
  k : List Byte
  tr : List Byte
  s1 : List Poly
  s2 : List Poly
  t0 : List Poly
  deriving DecidableEq, Repr

/-- KeyGen from a 32-byte seed: public key and private key. -/
def dsaKeyGen (seed : List Byte) : List Byte × DsaKey :=
  let h := shake256 (seed ++ bytesOf dsaK 1 ++ bytesOf dsaL 1) 128
  let rho := h.take 32
  let short (r : Nat) : Poly := dsaShort ((h.drop 32).take 64 ++ bytesOf r 2)
  let s1 := (List.range dsaL).map short
  let s2 := (List.range dsaK).map fun r => short (dsaL + r)
  let t := List.zipWith (fun (p q : Poly) => p.invNtt.add q) (dsaApply (dsaMatrix rho) (s1.map Poly.ntt)) s2
  let pk := rho ++ t.flatMap fun p => packBits 10 (p.map fun c => (dsaPower2Round c).1)
  (pk, ⟨rho, h.drop 96, shake256 pk 64, s1, s2, t.map fun p => p.map fun c => dsaMod (dsaPower2Round c).2⟩)

/-- The message that HashML-DSA signs: domain 1, context string, the OID of SHAKE256, the 64-byte hash. -/
def dsaHashed (context msg : List Byte) : List Byte :=
  [0x01] ++ bytesOf context.length 1 ++ context ++ [0x06, 0x09, 0x60, 0x86, 0x48, 0x01, 0x65, 0x03, 0x04, 0x02, 0x0C] ++ shake256 msg 64

/-- The challenge's 48 bytes for a message representative and the high bits of w. -/
def dsaChallenge (mu : List Byte) (w1 : List Poly) : List Byte := shake256 (mu ++ w1.flatMap (packBits 4)) 48

/-- One attempt of signing with a mask: a signature, or nothing where it is rejected. -/
def dsaAttempt (key : DsaKey) (a : List (List Poly)) (mu : List Byte) (y : List Poly) : Option (List Byte) :=
  let w := (dsaApply a (y.map Poly.ntt)).map Poly.invNtt
  let ct := dsaChallenge mu (dsaHigh w)
  let c := (dsaBall ct).ntt
  let times (v : List Poly) : List Poly := v.map fun p => (c.mul p.ntt).invNtt
  let z := List.zipWith Poly.add y (times key.s1)
  let r := List.zipWith Poly.sub w (times key.s2)
  let t := times key.t0
  let hs := List.zipWith (fun (p q : Poly) => dsaMakeHint (Poly.sub (List.replicate 256 0) p) (q.add p)) t r
  if dsaGamma1 - dsaBeta ≤ dsaNorm z || dsaGamma2 - dsaBeta ≤ dsaNorm (dsaLow r) || dsaGamma2 ≤ dsaNorm t || dsaOmega < ((hs.flatMap id).filter id).length then none
  else some (ct ++ z.flatMap (fun p => packBits 20 (p.map fun x => ((dsaGamma1 : Int) - dsaCentre x).toNat)) ++ dsaHintPack hs)

/-- Attempts with the masks from `kappa` on, `fuel` of them at most. -/
def dsaAttempts (key : DsaKey) (a : List (List Poly)) (mu rho : List Byte) : Nat → Nat → Option (List Byte)
  | 0, _ => none
  | fuel + 1, kappa => match dsaAttempt key a mu (dsaMask rho kappa) with
    | some sig => some sig
    | none => dsaAttempts key a mu rho fuel (kappa + dsaL)

/-- HashML-DSA-65.Sign with a private key, 32 bytes of randomness and a context string: the 3,309-byte signature. 814 attempts fall short
with probability under 2^-256, and FIPS 204 lets a part stop there. -/
def mldsaSign (key : DsaKey) (rnd context msg : List Byte) : Option (List Byte) :=
  let mu := shake256 (key.tr ++ dsaHashed context msg) 64
  dsaAttempts key (dsaMatrix key.rho) mu (shake256 (key.k ++ rnd ++ mu) 64) 814 0

/-- HashML-DSA-65.Verify: public key, context string, message, signature. -/
def mldsaVerify (pk context msg sig : List Byte) : Bool :=
  match dsaHintUnpack (sig.drop 3248) with
  | none => false
  | some hs =>
    let ct := sig.take 48
    let z : List Poly := (List.range dsaL).map fun i => (unpackBits 20 ((sig.drop (48 + 640 * i)).take 640)).map fun x => dsaMod ((dsaGamma1 : Int) - x)
    let t1 : List Poly := (List.range dsaK).map fun i => (unpackBits 10 ((pk.drop (32 + 320 * i)).take 320)).map fun x => x * 8192 % dsaQ
    let mu := shake256 (shake256 pk 64 ++ dsaHashed context msg) 64
    let c := (dsaBall ct).ntt
    let w := (List.zipWith (fun (p q : Poly) => p.sub (c.mul q.ntt)) (dsaApply (dsaMatrix (pk.take 32)) (z.map Poly.ntt)) t1).map Poly.invNtt
    let w1 := List.zipWith (fun (h : List Bool) (p : Poly) => List.zipWith dsaUseHint h p) hs w
    pk.length = 1952 && sig.length = 3309 && dsaNorm z < dsaGamma1 - dsaBeta && dsaChallenge mu w1 = ct

end Sys2Proof.Machine
end

