-- ==== Sys2Proof/Machine/Host.lean ====
section
/-! DEFINITION. The host attachment (R440 to R443), the event ring (R442), boot (R446, R447), reset (R449), power and clock steps
(R450, R451), and what arrives from outside the module: host accesses (R243), other modules (R225, R226, R264). -/

namespace Sys2Proof.Machine

/-! ## Accesses of the host and of other modules to memory (R214, R243) -/

/-- The physical address at which the device sees a host address (R214; log 12). -/
def hostPa (a : Nat) : Nat := 0x100000000000 + a % 2 ^ 44

/-- The unit that the host and other modules request through: their first touches are homed by region number (R216). -/
def outsideUnit : Nat := 98

/-- Whether `n` bytes are memory of the module: HBM4E, host memory or the second tier, all in one of them. -/
def plainRange (a n : Nat) : Bool :=
  a + n ≤ 0x7735940000 || (0x100000000000 ≤ a && a + n ≤ 0x200000000000) ||
  (0x10000000000 ≤ a && a + n ≤ 0x10000000000 + Config.lpcap.val * 2 ^ 34)

/-- The lines that `n` bytes touch. -/
def linesAt (a n : Nat) : List Nat := if n = 0 then [] else (List.range ((a + n - 1) / 64 - a / 64 + 1)).map fun i => a / 64 + i

/-- The regions of some bytes have a home. -/
def State.touchOutside (s : State) (a n : Nat) : State := (linesAt a n).foldl (fun (s : State) l => s.touchHome outsideUnit (64 * l)) s

/-- Bytes as an acquire from outside reads them: releases of scope `least` or wider are written back first (R241). -/
def State.readOutside (s : State) (least a n : Nat) : State × List Byte :=
  let s := (linesAt a n).foldl (fun (s : State) l => s.acquireOutside least l) (s.touchOutside a n)
  (s, Memory.read s.mem a n)

/-- HOST_MEMORY_WRITE: performed at the home, so that everything of the host before it is seen with it (R243). -/
def execHostMemoryWrite (pa : Nat) (bytes : List Byte) (s : State) : Out :=
  if plainRange pa bytes.length then .next ((s.touchOutside pa bytes.length).writeHome pa bytes) else .next s

/-- HOST_MEMORY_READ: an acquire at SYSTEM scope. -/
def execHostMemoryRead (pa n : Nat) (s : State) : Out :=
  if plainRange pa n then
    let r := s.readOutside 8 pa n
    .next (r.1.setEvents { r.1.events with lastRead := r.2 })
  else .next s

/-- REQUEST_FROM_ANOTHER_MODULE: a read is an acquire that releases at FABRIC scope reach; a write is performed at the home; an
atomic enters by the Weft port and goes to its home (R226, R264; log 20). -/
def execRequestFromAnotherModule (req : RemoteRequest) (s : State) : Out :=
  match req with
  | .read pa n =>
    if plainRange pa n then
      let r := s.readOutside 7 pa n
      .next (r.1.setEvents { r.1.events with lastRead := r.2 })
    else .next s
  | .write pa bytes => if plainRange pa bytes.length then .next ((s.touchOutside pa bytes.length).writeHome pa bytes) else .next s
  | .atomic op unsigned asid cls va pa size v c combinable =>
    if op < 0xC0 || 0xCB < op || (size ≠ 4 && size ≠ 8) || pa % size ≠ 0 || !plainRange pa size then .next s
    else
      let (rid, s) := s.fresh
      let s := s.touchHome outsideUnit pa
      let r : Req :=
        { rid := rid, gid := 0, slot := 0, pc := 0, core := 1000, asid := asid, cls := cls % 4, op := op, unsigned := unsigned, size := size, va := va, pa := pa,
          bits := 12, so := false, lane := rid, v := v % 2 ^ (8 * size), c := c % 2 ^ (8 * size), member := .outside, noCombine := !combinable || decide (0xC7 ≤ op), faulted := false,
          release := none, route := routeIn s.net.outPort (s.homeOf pa), entry := s.clock (s.net.outPort / 6), origs := [rid] }
      .next (s.enterNet r)

/-- `n` bytes of which nothing is known. -/
def State.freeBytes (s : State) (n : Nat) : List Byte × State :=
  ((List.range n).map fun i => Config.freeBits 8 (s.ctl.freeCtr + i), s.setCtl { s.ctl with freeCtr := s.ctl.freeCtr + n })

/-- REMOTE_HOME_INVALIDATION: copies of a line of another module are dropped, what they held dirty going home first; the write
of that module then gives the line a content that this module does not know (R226; log 12). -/
def execRemoteHomeInvalidation (module pa : Nat) (s : State) : Out :=
  let a := modulePa s module (pa / 64 * 64)
  if a < remoteBase then .next s
  else
    let s := s.dropLines fun l => l.pline = a / 64
    let (bs, s) := s.freeBytes 64
    .next (s.writeHome a bs)

/-- LINK_TRAIN: a Weft port trains; the fabric gives the module its number and the modules in reach; the port reads COMB (R193,
R225, R264). -/
def execLinkTrain (port : Nat) (comb : Bool) (module : Nat) (reach : List Nat) (s : State) : Out :=
  if port < 12 then
    .next (s.setNet { s.net with links := s.net.links.set port ⟨true, comb⟩, moduleNo := module % 1024,
                                 reach := reach.filter fun m => m < 1024 && m ≠ module % 1024 })
  else .next s

/-! ## The event ring (R442) -/

/-- EQCTL's fields. -/
def HostRegs.eqOn (h : HostRegs) : Bool := h.eqctl.getLsbD 31
def HostRegs.eqSize (h : HostRegs) : Nat := 2 ^ (h.eqctl.toNat % 32)
/-- Whether the ring has no room. -/
def HostRegs.eqFull (h : HostRegs) : Bool := h.eqSize ≤ (h.eqwidx - h.eqridx).toNat

/-- The 32 bytes of a record. -/
def Event.bytes (e : Event) (seq : Nat) : List Byte :=
  bytesOf e.kind 2 ++ bytesOf e.die 1 ++ bytesOf 0 1 ++ bytesOf e.ctx 4 ++ bytesOf seq 8 ++ bytesOf e.a 8 ++ bytesOf e.b 8

/-- Die 0 writes a record at EQWIDX, then advances EQWIDX. -/
def State.writeEvent (s : State) (seq : Nat) (e : Event) : State :=
  let h := s.host
  let a := hostPa (h.eqbase.toNat + 32 * (h.eqwidx.toNat % h.eqSize))
  let s := (s.touchRange (firmwareUnit 0) a 32).writeHome a (e.bytes seq)
  s.setHost { s.host with eqwidx := h.eqwidx + 1 }

/-- An event is dropped: EQDROP counts it, saturating, and it takes no SEQ. -/
def State.dropEvent (s : State) : State :=
  s.setHost { s.host with eqdrop := if s.host.eqdrop = BitVec.allOnes 32 then s.host.eqdrop else s.host.eqdrop + 1 }

/-- Whether a die's firmware runs (R446). -/
def State.booted (s : State) (d : Nat) : Bool := (s.die d).boot = 3

/-- Events of a die that are held at most. -/
def heldLimit : Nat := 256

/-- EVENT_TAKE: die 0 takes the oldest event that a die has raised. -/
def execEventTake (die : Nat) (s : State) : Out :=
  match (s.die die).raised with
  | [] => .next s
  | e :: rest =>
    if !s.booted 0 then .next s
    else
      let s := s.modDie die fun d => { d with raised := rest }
      let seq := s.events.seq + 1
      if !s.host.eqOn then .next s.dropEvent
      else if s.events.held = [] && !s.host.eqFull then .next ((s.setEvents { s.events with seq := seq }).writeEvent seq e)
      else if heldLimit ≤ (s.events.held.filter fun h => h.2.die = e.die).length then .next s.dropEvent
      else .next (s.setEvents { s.events with seq := seq, held := s.events.held ++ [(seq, e)] })

/-- EVENT_QUEUED_WRITE: the oldest event held is written once there is room. -/
def execEventQueuedWrite (s : State) : Out :=
  match s.events.held with
  | [] => .next s
  | (seq, e) :: rest =>
    if !s.booted 0 || !s.host.eqOn || s.host.eqFull then .next s
    else .next ((s.setEvents { s.events with held := rest }).writeEvent seq e)

/-! ## Registers (R441, R443) -/

/-- IDENT, and BOOTSTAT as it reads. -/
def identReg : Nat := 0x96400000 + Config.stepping.toNat
def State.bootStat (s : State) : Nat := (s.die 0).boot + 256 * (s.die 1).boot

/-- A register of the block as the host reads it; EQDROP's clearing is EQDROP_READ. -/
def State.hostRegister (s : State) (off : Nat) : Nat :=
  let h := s.host
  match off with
  | 0x000 => identReg
  | 0x008 => h.eqbase.toNat
  | 0x010 => h.eqctl.toNat
  | 0x014 => h.eqridx.toNat
  | 0x018 => h.eqwidx.toNat
  | 0x01C => h.eqdrop.toNat
  | 0x020 => h.bootaddr.toNat
  | 0x028 => h.bootlen.toNat
  | 0x02C => if h.bootgo then 1 else 0
  | 0x030 => s.bootStat
  | 0x038 => (s.die 0).clockStep + 256 * (s.die 1).clockStep
  | 0x040 => h.mbxreq.toNat
  | 0x048 => if h.mbxgo then 1 else 0
  | 0x04C => h.mbxdone.toNat
  | 0x050 => Config.lpcap.val
  | _ => 0

/-- EQDROP_READ: answers the count and clears it. -/
def execEqdropRead (s : State) : Out :=
  let s := s.setEvents { s.events with lastRead := bytesOf s.host.eqdrop.toNat 4 }
  .next (s.setHost { s.host with eqdrop := 0 })

/-- Whether the boot ROM of a die fetches or verifies (R446). -/
def State.booting (s : State) (d : Nat) : Bool := (s.die d).boot = 1 || (s.die d).boot = 2

/-- The boot ROMs of both dies take GO, which clears it, and start to fetch; ignored while either fetches or verifies (R441, R446). -/
def State.bootStart (s : State) : State :=
  if s.booting 0 || s.booting 1 then s
  else
    let s := (s.setDies (s.dies.map fun d => { d with boot := 1, image := [] })).setGroups (s.groups.filter fun g => !g.fw)
    s.setHost { s.host with bootgo := false }

/-- HOST_REGISTER_WRITE: read-only registers and reserved bits are ignored; MBXREQ and GO while GO reads 1, and GO until both dies
run. BOOTCTL.GO reads 1 until both dies take it at BOOT_GO; a write of it is ignored while a die fetches or verifies. A request that GO submits is a host event of die 0, whose firmware takes it (R196, R443; log 97). -/
def execHostRegisterWrite (off : BitVec 16) (val : BitVec 64) (s : State) : Out :=
  let h := s.host
  let w := val.setWidth 32
  match off.toNat with
  | 0x008 => .next (s.setHost { h with eqbase := val })
  | 0x010 => .next (s.setHost { h with eqctl := w &&& 0x8000001F#32 })
  | 0x014 => .next (s.setHost { h with eqridx := w })
  | 0x020 => .next (s.setHost { h with bootaddr := val })
  | 0x028 => .next (s.setHost { h with bootlen := w })
  | 0x02C => .next (if val.getLsbD 0 && !s.booting 0 && !s.booting 1 then s.setHost { h with bootgo := true } else s)
  | 0x040 => .next (if h.mbxgo then s else s.setHost { h with mbxreq := val })
  | 0x048 => .next (if val.getLsbD 0 && !h.mbxgo && s.booted 0 && s.booted 1 then (s.setHost { h with mbxgo := true }).wake 0 else s)
  | _ => .next s

/-! ## Boot (R446, R447) -/

/-- BOOT_GO: the host's GO, written now or before, is taken. -/
def execBootGo (s : State) : Out := .next s.bootStart

/-- The image as a die fetches it. -/
def State.bootImage (s : State) : List Byte := Memory.read s.mem (hostPa s.host.bootaddr.toNat) s.host.bootlen.toNat

/-- Step 1: the header reads well, and the image holds what it names. -/
def State.imageOk (s : State) (im : List Byte) : Bool :=
  s.host.bootaddr.toNat % 4096 = 0 && 64 ≤ im.length && im.length ≤ 2 ^ 26 && fieldOf im 0 4 = 0x4B4C5A4E && fieldOf im 0x14 44 = 0 &&
  fieldOf im 8 4 + 1952 ≤ im.length && fieldOf im 0xC 4 + 3309 ≤ im.length && fieldOf im 0x10 4 ≤ im.length

/-- Steps 2 to 4: what BOOTSTAT reports of a fetched image: 3, or the first step that fails. -/
def bootVerdict (im : List Byte) : Nat :=
  let key := (im.drop (fieldOf im 8 4)).take 1952
  if shake256 key 32 ≠ Config.keyHash then 0x80
  else if fieldOf im 4 4 < Config.minSvn then 0x82
  else if !mldsaVerify key [] (im.take 64 ++ im.drop (fieldOf im 0x10 4)) ((im.drop (fieldOf im 0xC 4)).take 3309) then 0x81
  else 3

/-- A die's boot fails: BOOTSTAT says why. The other die, where it runs, goes back to waiting for GO; where it still fetches or verifies, it
ends that first and shows what it finds (R446; log 11). -/
def State.bootFailed (s : State) (die why : Nat) : State :=
  let s := s.modDie (1 - die) fun d => if d.boot = 3 then { d with boot := 0 } else d
  (s.modDie die fun d => { d with boot := why }).setGroups (s.groups.filter fun g => !g.fw)

/-- The firmware group of a die as it stands at the end of boot: in HALT, or past it where a wake event is held (R196, R447). -/
def firmwareGroup (die gid : Nat) (awake : Bool) : Group :=
  let g := Group.start gid 0 0 .any (treadle die) ⟨0, 0, 0⟩ (if awake then Config.firmwareHalt + 4 else Config.firmwareHalt) 0
  let sl := Slot.at (if awake then Config.firmwareHalt + 4 else Config.firmwareHalt) (BitVec.allOnes 64) none
  { g with fw := true, slot0 := some { sl with park := if awake then none else some (.halt 4) } }

/-- Step 5: the body is in firmware memory, and the die's Treadle core runs it in FIRMWARE mode up to its HALT (R446, R447; log 11). -/
def State.bootRuns (s : State) (die : Nat) : State :=
  let im := (s.die die).image
  let body := im.drop (fieldOf im 0x10 4)
  let (gid, s) := s.fresh
  let s := (s.touchRange (firmwareUnit die) Config.firmwareBase body.length).writeHome Config.firmwareBase body
  let s := s.addGroup (firmwareGroup die gid (s.die die).wakeHeld)
  let s := s.modDie die fun d => { d with boot := 3, fwRoot := Config.firmwareRoot die, wakeHeld := false }
  s.setHost { s.host with digest := shake256 im 64, svn := fieldOf im 4 4 }

/-- Whether the boot of a die has failed since GO. -/
def State.bootBad (s : State) (die : Nat) : Bool := decide (0x80 ≤ (s.die die).boot)

/-- BOOT_FETCH_COMPLETE: a die that fetches has its image, whose header fails or which it then verifies; a die that verifies has its
verdict: it runs, waits for GO again where the other die has failed, or fails. -/
def execBootFetchComplete (die : Nat) (s : State) : Out :=
  let d := s.die die
  if d.boot = 1 then
    if s.imageOk s.bootImage then .next (s.modDie die fun d => { d with boot := 2, image := s.bootImage })
    else .next (s.bootFailed die 0x83)
  else if d.boot = 2 then
    if bootVerdict d.image ≠ 3 then .next (s.bootFailed die (bootVerdict d.image))
    else if s.bootBad (1 - die) then .next (s.modDie die fun d => { d with boot := 0 })
    else .next (s.bootRuns die)
  else .next s

/-! ## Reset (R449) -/

/-- RESET: the reset state. Host memory and the memory of other modules are not the module's; HBM4E and the second tier hold what
an unlisted address reads as (log 3). The model's own control data goes on (log 1). -/
def execReset (s : State) : Out :=
  let outside (c : Host.Cell) : Bool := (0x100000000000 ≤ c.1 && c.1 < 0x200000000000) || remoteBase ≤ c.1
  .next ((State.reset.setCtl s.ctl).setMem (s.mem.filter outside))

/-! ## Power and clock steps (R450, R451) -/

/-- The slowest clock step. -/
def lastStep : Nat := 4

/-- A die at the end of a window: too hot or over its limit, or the module over its own, one step down; after 10 cool windows in a
row, one step up. -/
def Die.endWindow (d : Die) (milliwatts : Nat) (above : Bool) : Die :=
  if above || 550000 < milliwatts || 1050 < d.temperature then { d with clockStep := min (d.clockStep + 1) lastStep, cool := 0, temperature := 0 }
  else if 495000 ≤ milliwatts || 950 ≤ d.temperature then { d with cool := 0, temperature := 0 }
  else if d.cool + 1 < 10 then { d with cool := d.cool + 1, temperature := 0 }
  else { d with clockStep := d.clockStep - 1, cool := 0, temperature := 0 }

/-- A die ends its window; a step that changes raises an event. -/
def State.endWindow (s : State) (die milliwatts : Nat) (above : Bool) : State :=
  let old := (s.die die).clockStep
  let s := s.modDie die fun d => d.endWindow milliwatts above
  let new := (s.die die).clockStep
  if new = old then s else s.postEvent die 8 0 new old

/-- POWER_WINDOW_END: each die's power, and the module's, in the window that ends. -/
def execPowerWindowEnd (milliwatts0 milliwatts1 moduleMilliwatts : Nat) (s : State) : Out :=
  let above := decide (1800000 < moduleMilliwatts)
  .next ((s.endWindow 0 milliwatts0 above).endWindow 1 milliwatts1 above)

/-- THERMAL_SAMPLE: the hottest sample of the window so far, in tenths of a degree. -/
def execThermalSample (die : Nat) (decidegrees : Int) (s : State) : Out :=
  .next (s.modDie die fun d => { d with temperature := max d.temperature decidegrees })

end Sys2Proof.Machine
end

