-- ==== Sys2Proof/Machine/Lanes.lean ====
section
/-! DEFINITION. Class 011: predicates and votes, cross-lane and quad instructions (R144 to R152). -/

namespace Sys2Proof.Machine

/-! ## Predicates and votes -/

/-- The bit of a K operand in a lane. -/
def Frag.kBit (f : Frag) (k : Code) (l : Nat) : Bool := (f.g.kReg k.toNat).getLsbD l

def noNeed (_ : Frag) : Need := {}

/-- KAND, KOR, KXOR, KNOT, KMOV (R144). -/
def execKand (m : Marks) (k a b : Code) (s : State) : Out := predOp s (.kand m k a b) m noNeed k fun f l => f.kBit a l && f.kBit b l
def execKor (m : Marks) (k a b : Code) (s : State) : Out := predOp s (.kor m k a b) m noNeed k fun f l => f.kBit a l || f.kBit b l
def execKxor (m : Marks) (k a b : Code) (s : State) : Out := predOp s (.kxor m k a b) m noNeed k fun f l => f.kBit a l != f.kBit b l
def execKnot (m : Marks) (k a : Code) (s : State) : Out := predOp s (.knot m k a) m noNeed k fun f l => !f.kBit a l
def execKmov (m : Marks) (k a : Code) (s : State) : Out := predOp s (.kmov m k a) m noNeed k fun f l => f.kBit a l

/-- VOTE (R145): the active lanes whose bit is set, as two words in every active lane. -/
def execVote (m : Marks) (d a : Code) (s : State) : Out :=
  laneOp s (.vote m d a) m (fun _ => { dst := some (opnd d 2) }) d (fun _ => 2) fun f _ => (f.g.kReg a.toNat &&& f.active).toNat

/-- KANY and KALL (R146). -/
def execKany (m : Marks) (k a : Code) (s : State) : Out :=
  predOp s (.kany m k a) m noNeed k fun f _ => (f.g.kReg a.toNat &&& f.active) ≠ 0
def execKall (m : Marks) (k a : Code) (s : State) : Out :=
  predOp s (.kall m k a) m noNeed k fun f _ => (f.g.kReg a.toNat &&& f.active) = f.active

/-! ## Moves between lanes (R147, R148, R150) -/

/-- Each active lane takes the words of A of a source lane; B is one word of the receiving lane. -/
def crossOp (s : State) (i : Instr) (m : Marks) (d a b : Code) (from_ : Nat → Nat → Nat) : Out :=
  laneOp s i m (fun f => { srcs := [opnd a f.words], srcB := some (opnd b 1), dst := some (opnd d f.words) }) d Frag.words fun f l =>
    f.src a f.words (from_ l (f.srcB b 1 l))

/-- XROT, XXOR, XBC (R148). -/
def execXrot (m : Marks) (d a b : Code) (s : State) : Out := crossOp s (.xrot m d a b) m d a b fun l v => (l + v) % W
def execXxor (m : Marks) (d a b : Code) (s : State) : Out := crossOp s (.xxor m d a b) m d a b fun l v => l ^^^ (v % W)
def execXbc (m : Marks) (d a b : Code) (s : State) : Out := crossOp s (.xbc m d a b) m d a b fun _ v => v % W

/-- Each active lane takes the words of A of a lane of its quad. -/
def quadOp (s : State) (i : Instr) (m : Marks) (d a : Code) (from_ : Nat → Nat) : Out :=
  laneOp s i m (typedDA anyType d a) d Frag.words fun f l => f.src a f.words (from_ l)

/-- QSWPX, QSWPY, QSWPD, QBCST (R150). -/
def execQswpx (m : Marks) (d a : Code) (s : State) : Out := quadOp s (.qswpx m d a) m d a fun l => l ^^^ 1
def execQswpy (m : Marks) (d a : Code) (s : State) : Out := quadOp s (.qswpy m d a) m d a fun l => l ^^^ 2
def execQswpd (m : Marks) (d a : Code) (s : State) : Out := quadOp s (.qswpd m d a) m d a fun l => l ^^^ 3
def execQbcst (m : Marks) (d a : Code) (x : BitVec 4) (s : State) : Out := quadOp s (.qbcst m d a x) m d a fun l => l / 4 * 4 + x.toNat

/-! ## Reductions and scans (R149) -/

/-- The element operations: 0 add, 1 min, 2 max, 3 and, 4 or, 5 xor. The add is that of ADD (R125); MODE.SAT is none of its concern (R109). -/
def scanElem (t rm op : Nat) : List Nat → Nat × Nat :=
  match op with
  | 0 => addElem t rm false
  | 1 => minMaxElem t false
  | 2 => minMaxElem t true
  | 3 => fun x => (arg x 0 &&& arg x 1, 0)
  | 4 => fun x => (arg x 0 ||| arg x 1, 0)
  | _ => fun x => (arg x 0 ^^^ arg x 1, 0)

/-- The identity of an element operation. -/
def scanIdentity (t op : Nat) : Nat :=
  match elemOf t, op with
  | .int sg w, 1 => if sg then 2 ^ (w - 1) - 1 else 2 ^ w - 1
  | .int sg w, 2 => if sg then 2 ^ (w - 1) else 0
  | .int _ w, 3 => 2 ^ w - 1
  | .flt f, 1 => f.infCode
  | .flt f, 2 => f.signBit true + f.infCode
  | _, _ => 0

/-- One lane of the scan: its value, or none; the events its steps have raised, by element (counted once, log 17). -/
structure ScanLane where
  val : Option Nat
  evs : List Nat
  deriving DecidableEq, Repr

/-- `comb` of R149. -/
def scanComb (t rm op : Nat) (p q : ScanLane) : ScanLane :=
  match p.val, q.val with
  | none, _ => q
  | some x, none => ⟨some x, q.evs⟩
  | some x, some y =>
    let r := byElem t (scanElem t rm op) [x, y]
    ⟨some r.1, q.evs.zipWith (· ||| ·) r.2⟩

/-- One step of R149 at a distance. -/
def scanStep (t rm op dist : Nat) (xs : List ScanLane) : List ScanLane :=
  xs.mapIdx fun l q => if l < dist then q else scanComb t rm op (xs.getD (l - dist) q) q

/-- The six steps. -/
def scanAll (t rm op : Nat) (xs : List ScanLane) : List ScanLane :=
  [1, 2, 4, 8, 16, 32].foldl (fun xs d => scanStep t rm op d xs) xs

/-- The lanes before the first step. -/
def Frag.scanStart (f : Frag) (a : Code) : List ScanLane :=
  laneNums.map fun l => ⟨if f.active.getLsbD l then some (f.src a f.words l) else none, if typePacked f.g.type then [0, 0] else [0]⟩

/-- The identity of a type's value. -/
def identityOf (t op : Nat) : Nat := ofElems t [scanIdentity t op, scanIdentity t op]

/-- The result of a lane: 0 the reduction, 1 the inclusive scan, 2 the exclusive scan. -/
def scanPick (t op form l : Nat) (xs : List ScanLane) : Nat :=
  let v (i : Nat) : Option Nat := (xs[i]?).bind fun x => x.val
  match form with
  | 0 => (v 63).getD 0
  | 1 => (v l).getD 0
  | _ => if l = 0 then identityOf t op else (v (l - 1)).getD (identityOf t op)

/-- Operations and, or and xor are for integer types only (R107). -/
def scanTyped (t op : Nat) : Bool := op < 3 || intType t

def scanOp (s : State) (i : Instr) (m : Marks) (d a : Code) (op form : Nat) : Out :=
  issue s i m (typedDA (fun t => scanTyped t op) d a) fun f =>
    let xs := scanAll f.g.type f.g.round op (f.scanStart a)
    .next (s.withEventsIn f (maskAt f.sl m 0) f.fmt (xs.map (·.evs)) (BitVec.allOnes 64) f.active fun s =>
      (s.result f d f.words (perLane fun l => scanPick f.g.type op form l xs) f.active).goOn f m)

/-- XRED and XSCAN (R149). -/
def execXred (m : Marks) (d a : Code) (x : BitVec 3) (s : State) : Out := scanOp s (.xred m d a x) m d a x.toNat 0
def execXscan (m : Marks) (d a : Code) (e : Bool) (x : BitVec 3) (s : State) : Out :=
  scanOp s (.xscan m d a e x) m d a x.toNat (if e then 2 else 1)

/-! ## Derivatives (R151, R152) -/

/-- The pairs of an axis (0 X, 1 Y), first by number: (first lane, second lane). -/
def derivPair (axis n : Nat) : Nat × Nat := if axis = 0 then (2 * n, 2 * n + 1) else (n, n + 2)

/-- The pair that quad lane i takes in a quad whose lowest lane is q: its preferred pair if complete, or the other. -/
def derivChoice (axis : Nat) (fine : Bool) (active : LaneMask) (q i : Nat) : Option (Nat × Nat) :=
  let pref := if fine then (if axis = 0 then i / 2 else i % 2) else 0
  let complete (n : Nat) : Bool := active.getLsbD (q + (derivPair axis n).1) && active.getLsbD (q + (derivPair axis n).2)
  if complete pref then some (derivPair axis pref) else if complete (1 - pref) then some (derivPair axis (1 - pref)) else none

/-- The derivative of a lane, its events, and whether no pair was complete. -/
def Frag.deriv (f : Frag) (axis : Nat) (fine : Bool) (a : Code) (l : Nat) : (Nat × List Nat) × Bool :=
  if f.g.dissolved then ((0, []), true)
  else
    let q := l / 4 * 4
    match derivChoice axis fine f.active q (l % 4) with
    | some (x, y) => (byElem f.g.type (subElem f.g.type f.g.round f.g.sat) [f.src a f.words (q + y), f.src a f.words (q + x)], false)
    | none => ((0, []), true)

/-- Set QUADFAULT of the fragment's group. -/
def State.setQuadFault (s : State) (f : Frag) (b : Bool) : State :=
  match s.group? f.g.gid with
  | some g => s.putGroup { g with quadFault := g.quadFault || b }
  | none => s

def derivOp (s : State) (i : Instr) (m : Marks) (d a : Code) (axis : Nat) (fine : Bool) : Out :=
  issue s i m (typedDA floatType d a) fun f =>
    let rs := laneNums.map (f.deriv axis fine a)
    let bad := f.g.dissolved || (lanesOf f.active).any fun l => (rs.getD l ((0, []), false)).2
    .next (s.withEvents f (maskAt f.sl m 0) f.fmt (rs.map (·.1.2)) f.active fun s =>
      ((s.setQuadFault f bad).result f d f.words (rs.map (·.1.1)) f.active).goOn f m)

/-- DDX and DDY (R151, R152). -/
def execDdx (m : Marks) (d a : Code) (x : BitVec 4) (s : State) : Out := derivOp s (.ddx m d a x) m d a 0 (x.toNat = 1)
def execDdy (m : Marks) (d a : Code) (x : BitVec 4) (s : State) : Out := derivOp s (.ddy m d a x) m d a 1 (x.toNat = 1)

end Sys2Proof.Machine
end

