-- ==== Sys2Proof/Machine/Logic.lean ====
section
/-! DEFINITION. Class 010: logic, shifts and bit-field instructions on one 32-bit word (R137 to R143). -/

namespace Sys2Proof.Machine

/-- A lane function of words of A and B. -/
def wordOp (s : State) (i : Instr) (m : Marks) (d a b : Code) (op : Word → Word → Word) : Out :=
  laneOp s i m (needDAB d a b) d (fun _ => 1) fun f l => (op (BitVec.ofNat 32 (f.src a 1 l)) (BitVec.ofNat 32 (f.srcB b 1 l))).toNat

/-- A lane function of a word of A. -/
def wordOp1 (s : State) (i : Instr) (m : Marks) (d a : Code) (op : Word → Word) : Out :=
  laneOp s i m (needDA d a) d (fun _ => 1) fun f l => (op (BitVec.ofNat 32 (f.src a 1 l))).toNat

/-- AND, ANDN, OR, XOR (R137). -/
def execAnd (m : Marks) (d a b : Code) (s : State) : Out := wordOp s (.and m d a b) m d a b fun x y => x &&& y
def execAndn (m : Marks) (d a b : Code) (s : State) : Out := wordOp s (.andn m d a b) m d a b fun x y => x &&& ~~~y
def execOr (m : Marks) (d a b : Code) (s : State) : Out := wordOp s (.or m d a b) m d a b fun x y => x ||| y
def execXor (m : Marks) (d a b : Code) (s : State) : Out := wordOp s (.xor m d a b) m d a b fun x y => x ^^^ y

/-- The six-bit count of a shift (R138). -/
def count6 (y : Word) : Nat := y.toNat % 64

/-- SHL, SHR, SAR, ROL (R138). -/
def execShl (m : Marks) (d a b : Code) (s : State) : Out := wordOp s (.shl m d a b) m d a b fun x y => x <<< count6 y
def execShr (m : Marks) (d a b : Code) (s : State) : Out := wordOp s (.shr m d a b) m d a b fun x y => x >>> count6 y
def execSar (m : Marks) (d a b : Code) (s : State) : Out := wordOp s (.sar m d a b) m d a b fun x y => x.sshiftRight (count6 y)
def execRol (m : Marks) (d a b : Code) (s : State) : Out := wordOp s (.rol m d a b) m d a b fun x y => x.rotateLeft (y.toNat % 32)

/-- A lane function of words of A, B and C. -/
def wordOp3 (s : State) (i : Instr) (m : Marks) (d a b : Code) (c : BitVec 4) (op : Word → Word → Word → Word) : Out :=
  laneOp s i m (needDABC d a b c) d (fun _ => 1) fun f l =>
    (op (BitVec.ofNat 32 (f.src a 1 l)) (BitVec.ofNat 32 (f.srcB b 1 l)) (BitVec.ofNat 32 (f.src (cCode d c) 1 l))).toNat

/-- FNL: bits 63:32 of (a:b) << n, n = c[4:0] (R139). -/
def funnelLeft (a b c : Word) : Word := BitVec.ofNat 32 ((a.toNat * 2 ^ 32 + b.toNat) * 2 ^ (c.toNat % 32) / 2 ^ 32)
/-- FNR: bits 31:0 of (a:b) >> n (R139). -/
def funnelRight (a b c : Word) : Word := BitVec.ofNat 32 ((a.toNat * 2 ^ 32 + b.toNat) / 2 ^ (c.toNat % 32))

def execFnl (m : Marks) (d a b : Code) (c : BitVec 4) (s : State) : Out := wordOp3 s (.fnl m d a b c) m d a b c funnelLeft
def execFnr (m : Marks) (d a b : Code) (c : BitVec 4) (s : State) : Out := wordOp3 s (.fnr m d a b c) m d a b c funnelRight

/-- The field that b describes (R140): offset b[4:0], width min(b[13:8], 32 − offset). -/
def fieldOff (b : Word) : Nat := b.toNat % 32
def fieldWidth (b : Word) : Nat := min (b.toNat / 256 % 64) (32 - fieldOff b)

/-- BFX and BFXS (R140). -/
def bfxWord (a b : Word) : Word := BitVec.ofNat 32 (a.toNat / 2 ^ fieldOff b % 2 ^ fieldWidth b)
def bfxsWord (a b : Word) : Word :=
  if fieldWidth b = 0 then 0 else BitVec.ofNat 32 (unsignedOf 32 (signedOf (fieldWidth b) (bfxWord a b).toNat))

def execBfx (m : Marks) (d a b : Code) (s : State) : Out := wordOp s (.bfx m d a b) m d a b bfxWord
def execBfxs (m : Marks) (d a b : Code) (s : State) : Out := wordOp s (.bfxs m d a b) m d a b bfxsWord

/-- Insert v in the field of c that b describes (R141). -/
def insertField (v b c : Word) : Word :=
  let mask : Word := BitVec.ofNat 32 ((2 ^ fieldWidth b - 1) * 2 ^ fieldOff b)
  (c &&& ~~~mask) ||| ((v <<< fieldOff b) &&& mask)

def execBfi (m : Marks) (d a b : Code) (c : BitVec 4) (s : State) : Out := wordOp3 s (.bfi m d a b c) m d a b c insertField

/-- The value that BFIS inserts: a clamped to the field's signed range, 0 for a field of no bits (R141). -/
def bfisClamp (a b : Word) : Int :=
  if fieldWidth b = 0 then 0
  else max (-(2 : Int) ^ (fieldWidth b - 1)) (min ((2 : Int) ^ (fieldWidth b - 1) - 1) (signedOf 32 a.toNat))

/-- BFIS and its event: range, where the value had to be clamped (R113, R141). A width of 0, which makes the value 0, counts as a
clamp where `a` is not 0: the rule does not say (log 96). -/
def bfisWord (a b c : Word) : Nat × Nat :=
  let v := bfisClamp a b
  ((insertField (BitVec.ofInt 32 v) b c).toNat, if v = signedOf 32 a.toNat then 0 else evRange)

def execBfis (m : Marks) (d a b : Code) (c : BitVec 4) (s : State) : Out :=
  laneEventOp s (.bfis m d a b c) m (needDABC d a b c) d (fun _ => 1) (fun _ => 0xFF) fun f l =>
    let r := bfisWord (BitVec.ofNat 32 (f.src a 1 l)) (BitVec.ofNat 32 (f.srcB b 1 l)) (BitVec.ofNat 32 (f.src (cCode d c) 1 l))
    (r.1, [r.2])

/-- The number of set bits of a number below 2^n. -/
def popCount (n v : Nat) : Nat := ((List.range n).filter fun i => v.testBit i).length
/-- Trailing zeros of a word, 32 for 0 (R142). -/
def trailingZeros (v : Nat) : Nat := ((List.range 32).find? fun i => v.testBit i).getD 32
/-- Leading zeros of a word, 32 for 0 (R142). -/
def leadingZeros (v : Nat) : Nat := ((List.range 32).find? fun i => v.testBit (31 - i)).getD 32

/-- POPC, CLZ, CTZ, BREV (R142). -/
def execPopc (m : Marks) (d a : Code) (s : State) : Out := wordOp1 s (.popc m d a) m d a fun x => BitVec.ofNat 32 (popCount 32 x.toNat)
def execClz (m : Marks) (d a : Code) (s : State) : Out := wordOp1 s (.clz m d a) m d a fun x => BitVec.ofNat 32 (leadingZeros x.toNat)
def execCtz (m : Marks) (d a : Code) (s : State) : Out := wordOp1 s (.ctz m d a) m d a fun x => BitVec.ofNat 32 (trailingZeros x.toNat)
def execBrev (m : Marks) (d a : Code) (s : State) : Out := wordOp1 s (.brev m d a) m d a fun x => x.reverse

/-- PACK2 and UNPK (R143). -/
def execPack2 (m : Marks) (d a b : Code) (s : State) : Out :=
  wordOp s (.pack2 m d a b) m d a b fun x y => (y <<< 16) ||| (x &&& 0xFFFF)
def execUnpk (m : Marks) (d a : Code) (x : BitVec 4) (s : State) : Out :=
  wordOp1 s (.unpk m d a x) m d a fun v => if x.toNat = 0 then v &&& 0xFFFF else v >>> 16

end Sys2Proof.Machine
end

