-- ==== Sys2Proof/Machine/Mailbox.lean ====
section
/-! DEFINITION. The firmware mailbox (R443 to R445): contexts, queues, replies to page faults, shootdowns, attestation (R448). -/

namespace Sys2Proof.Machine

/-! ## Requests and replies (R444, R445) -/

/-- A request as die 0's firmware reads it: a body that is shorter than its fields reads as zeros behind its end. -/
structure MailReq where
  op : Nat
  tag : Nat
  reply : Nat
  rlen : Nat
  /-- the header's reserved fields are 0, LEN and REPLY are in range -/
  clean : Bool
  body : List Byte
  deriving DecidableEq, Repr

/-- A field of the body. -/
def MailReq.f (r : MailReq) (off n : Nat) : Nat := fieldOf r.body off n

/-- Every body byte that lies in none of some ranges is 0. -/
def MailReq.bodyOk (r : MailReq) (used : List (Nat × Nat)) : Bool :=
  (List.range r.body.length).all fun i => used.any (fun u => u.1 ≤ i && i < u.1 + u.2) || r.f i 1 = 0

/-- The request at MBXREQ. -/
def State.mailReq (s : State) : MailReq :=
  let a := s.host.mbxreq.toNat
  let h := Memory.read s.mem (hostPa a) 32
  let len := fieldOf h 4 4
  { op := fieldOf h 0 2, tag := fieldOf h 8 8, reply := fieldOf h 0x10 8, rlen := fieldOf h 0x18 4,
    clean := fieldOf h 2 2 = 0 && fieldOf h 0x1C 4 = 0 && len ≤ 4096 && fieldOf h 0x10 8 % 64 = 0,
    body := Memory.read s.mem (hostPa (a + 32)) (min len 4096) }

/-- The reply is written where it fits, then DONE rises, then the event is posted (R443). -/
def State.mailReply (s : State) (r : MailReq) (status : Nat) (body : List Byte) : State :=
  let s := s.touchRange (firmwareUnit 0) (hostPa s.host.mbxreq.toNat) (32 + r.body.length)
  let s := if r.rlen < 32 then s
    else (s.touchRange (firmwareUnit 0) (hostPa r.reply) (32 + body.length)).writeHome (hostPa r.reply) (bytesOf r.op 2 ++ bytesOf status 2 ++ bytesOf body.length 4 ++ bytesOf r.tag 8 ++ bytesOf 0 16 ++ body)
  let s := s.setHost { s.host with mbxdone := s.host.mbxdone + 1 }
  s.postEvent 0 9 0 r.tag status

/-- What an operation answers: a STATUS above 0, or the state and the reply's body. -/
abbrev MailAct := Except Nat (State × List Byte)

/-- Whether a request waits that has one of some OPs. -/
def State.mailReady (s : State) (ops : Nat → Bool) : Bool := s.host.mbxgo && s.booted 0 && s.booted 1 && ops s.mailReq.op

/-- A request of an OP whose reply body has `n` bytes is acted on and answered: RLEN is checked first, then the fields. -/
def mailOut (s : State) (op n : Nat) (used : List (Nat × Nat)) (act : State → MailReq → MailAct) : Out :=
  if !s.mailReady (· = op) then .next s
  else
    let r := s.mailReq
    let s := s.setHost { s.host with mbxgo := false }
    if r.rlen < 32 + n then .next (s.mailReply r 5 [])
    else if !r.clean || !r.bodyOk used then .next (s.mailReply r 2 [])
    else match act s r with
      | .error k => .next (s.mailReply r k [])
      | .ok (s, b) => .next (s.mailReply r 0 b)

/-- UNKNOWN_MAILBOX_OP: any OP but 1 to 8. -/
def execUnknownMailboxOp (s : State) : Out :=
  if !s.mailReady (fun k => k = 0 || 8 < k) then .next s
  else
    let r := s.mailReq
    .next ((s.setHost { s.host with mbxgo := false }).mailReply r (if r.rlen < 32 then 5 else 1) [])

/-! ## Contexts (R102, R299, R444, R452) -/

/-- The lowest number from `first` on that a list does not hold. -/
def lowestFree (first : Nat) (used : List Nat) : Nat :=
  (((List.range (used.length + 1)).map (first + ·)).find? fun k => !used.contains k).getD first

/-- The clusters of a reservation: bits of the two masks, numbered over the module. -/
def reservedClusters (r0 r1 : Nat) : List Nat :=
  ((List.range 48).filter fun i => r0 / 2 ^ i % 2 = 1) ++ ((List.range 48).filter fun i => r1 / 2 ^ i % 2 = 1).map (48 + ·)

/-- The context that a CREATE_CONTEXT body describes. -/
def State.newContext (s : State) (r : MailReq) : Ctx :=
  { ctxid := lowestFree 1 (s.contexts.map (·.ctxid)), cls := r.f 0 1, asid := r.f 2 2, root := r.f 8 8, save := r.f 0x10 8, saveBytes := r.f 0x18 8,
    resv := reservedClusters (r.f 0x20 8) (r.f 0x28 8), lend := r.f 0x30 1, nslot := r.f 0x34 4, gimgBytes := r.f 0x38 8, trapArith := false,
    compat := false, quota := s.msys.classQuota (r.f 0 1), fpx := List.replicate 20 0, fpxThr := 0, fired := List.replicate 20 false,
    streams := List.replicate 16 ⟨Timeline.zero, []⟩, killed := false }

/-- The fields of a context are good (R445). An aligned ROOT at or above 2^52, which no root table can lie at, is a bad field too: R445 lists no
such check, and this is the model's choice (log 73). -/
def Ctx.fieldsOk (c : Ctx) (r0 r1 : Nat) : Bool :=
  c.cls ≤ 3 && (c.resv = [] || c.cls ≤ 1) && r0 < 2 ^ 48 && r1 < 2 ^ 48 && c.lend ≤ 96 && c.root % 2 ^ 20 = 0 && c.root < 2 ^ 52 && c.save % 4096 = 0 && c.save ≠ 0 &&
  plainRange c.save c.saveBytes && teamOff c.nslot c.gimgBytes ≤ c.saveBytes

/-- A context is created. A team that runs on a cluster which it reserves runs on there, and so does a harvest team whose owner is destroyed:
R31 is heeded where teams are placed (log 114). -/
def State.createContext (s : State) (r : MailReq) : MailAct :=
  let c := s.newContext r
  if !c.fieldsOk (r.f 0x20 8) (r.f 0x28 8) then .error 2
  else if 4096 ≤ s.contexts.length then .error 3
  else if s.contexts.any fun d => d.asid = c.asid || d.resv.any c.resv.contains then .error 6
  else .ok ((s.addCtx c).initSaveArea c, bytesOf c.ctxid 4)

/-- CREATE_CONTEXT. -/
def execCreateContext (s : State) : Out :=
  mailOut s 1 4 [(0, 1), (2, 2), (8, 8), (0x10, 8), (0x18, 8), (0x20, 8), (0x28, 8), (0x30, 1), (0x34, 4), (0x38, 8)] State.createContext

/-- A queue is removed; its unconsumed packets are discarded. -/
def State.removeQueue (s : State) (q : Queue) : State :=
  ((s.dropMonitors fun m => m.isPacket q.qid || m.isNotify q.qid).dropQueue q.qid).modDie q.die fun d => { d with mapped := d.mapped.filter (· ≠ q.qid) }

/-- A context is torn down and its queues are removed. -/
def State.destroyContext (s : State) (r : MailReq) : MailAct :=
  let id := r.f 0 4
  match s.ctx? id with
  | none => .error 4
  | some _ =>
    let s := s.teardown id
    let s := (s.queues.filter fun q => q.ctxid = id).foldl (fun (s : State) q => s.removeQueue q) s
    .ok (s.dropCtx id, [])

/-- DESTROY_CONTEXT. -/
def execDestroyContext (s : State) : Out := mailOut s 2 0 [(0, 4)] State.destroyContext

/-! ## Queues (R275, R287, R444) -/

/-- The queue that a CREATE_QUEUE body describes, of a context. -/
def State.newQueue (s : State) (c : Ctx) (r : MailReq) : Queue :=
  let q : Queue :=
    { qid := lowestFree 0 (s.queues.map (·.qid)), die := r.f 4 1, ring := r.f 8 8, ridxAddr := r.f 0x10 8, widxAddr := r.f 0x18 8, notify := r.f 0x20 8,
      log2sz := r.f 6 1, prio := r.f 5 1, cls := c.cls, state := if c.killed then 3 else 0, asid := c.asid, qflags := r.f 7 1, ctxid := c.ctxid,
      errrec := r.f 0x28 8, ridx := 0, awake := false, indirect := none, waiting := none, held := none, repaired := false, idleSince := s.clock (r.f 4 1) }
  { q with ridx := (s.glance (c.cpAgent q.die) q.ridxAddr 8).getD 0 }

/-- The fields of a queue are good (R275). -/
def Queue.fieldsOk (q : Queue) : Bool :=
  q.die ≤ 1 && q.prio ≤ 15 && 12 ≤ q.log2sz && q.log2sz ≤ 30 && q.qflags ≤ 1 && q.ring % 2 ^ q.log2sz = 0 && q.notify % 64 = 0

/-- A queue is created, unmapped, its notify line watched (R288). -/
def State.createQueue (s : State) (r : MailReq) : MailAct :=
  let shape : Queue := s.newQueue ⟨0, 0, 0, 0, 0, 0, [], 0, 0, 0, false, false, 0, [], 0, [], [], false⟩ r
  if !shape.fieldsOk then .error 2
  else if 65536 ≤ s.queues.length then .error 3
  else match s.ctx? (r.f 0 4) with
    | none => .error 4
    | some c =>
      let q := s.newQueue c r
      let s := (s.readVa (c.cpAgent q.die) q.ridxAddr 8).addQueue q
      .ok (if c.killed then s else s.watchNotify q, bytesOf q.qid 4)

/-- CREATE_QUEUE. -/
def execCreateQueue (s : State) : Out :=
  mailOut s 3 4 [(0, 4), (4, 1), (5, 1), (6, 1), (7, 1), (8, 8), (0x10, 8), (0x18, 8), (0x20, 8), (0x28, 8)] State.createQueue

/-- DESTROY_QUEUE. -/
def execDestroyQueue (s : State) : Out :=
  mailOut s 4 0 [(0, 4)] fun s r => match s.queue? (r.f 0 4) with
    | none => .error 4
    | some q => .ok (s.removeQueue q, [])

/-- A queue in ERROR is in service again, past the offending packet if the request says so. -/
def State.enableQueue (s : State) (r : MailReq) : MailAct :=
  if 1 < r.f 4 1 then .error 2
  else match s.queue? (r.f 0 4) with
    | none => .error 4
    | some q =>
      if q.state ≠ 2 then .error 6
      else
        let s := s.makeRoom q.die
        let q := { q with state := 1 }
        let s := (s.putQueue q).addMapped q
        let s := if r.f 4 1 = 1 then
            match s.consumeSlot q with
            | .error a => s.queueError q 7 0 a
            | .ok s => s
          else s
        let ridx := ((s.queue? q.qid).map (·.ridx)).getD 0
        .ok (if (s.queue? q.qid).any (fun q => q.state = 1) then s.look q.qid else s, bytesOf ridx 8)

/-- ENABLE_QUEUE. -/
def execEnableQueue (s : State) : Out := mailOut s 5 8 [(0, 4), (4, 1)] State.enableQueue

/-! ## Page faults (R304, R316, R341, R442) -/

/-- The page of one fault is mapped: what it holds may go on. -/
def State.faultMapped (s : State) (w : FaultWait) : State :=
  match w.src with
  | some src => s.setRepair src false true
  | none => match s.group? w.gid with
    | some g =>
      if g.phase = .posted then s.putGroup { g with phase := .repaired }
      else if g.phase = .task then s.putGroup { g with phase := .taskRepaired }
      else s
    | none => s

/-- The host declines one fault: firmware kills the context, for a group's trap when it handles the group. -/
def State.faultDeclined (s : State) (w : FaultWait) : State :=
  match w.src with
  | some src => match s.heldFault src with
    | some h => s.killContext h.die w.ctx (s.faultKind h).1 h.crec
    | none => s
  | none => match s.group? w.gid with
    | some g => if g.phase = .posted || g.phase = .task then s.putGroup { g with phase := .declined } else s
    | none => s

/-- Every event of a context and address that awaits a reply is answered. -/
def State.faultReply (s : State) (r : MailReq) : MailAct :=
  let mine (w : FaultWait) : Bool := w.ctx = r.f 0 4 && w.addr = r.f 8 8
  let ws := s.events.waiting.filter mine
  if 1 < r.f 4 1 then .error 2
  else if ws = [] then .error 4
  else
    let s := s.setEvents { s.events with waiting := s.events.waiting.filter fun w => !mine w }
    .ok (ws.foldl (fun (s : State) w => if r.f 4 1 = 0 then s.faultMapped w else s.faultDeclined w) s, [])

/-- FAULT_REPLY. -/
def execFaultReply (s : State) : Out := mailOut s 6 0 [(0, 4), (4, 1), (8, 8)] State.faultReply

/-! ## INVALIDATE (R213) and ATTEST (R448) -/

/-- The shootdown that an INVALIDATE body names. -/
def MailReq.shootdown (r : MailReq) : Shootdown := ⟨0, r.f 2 1, r.f 0 2, r.f 8 8, none⟩

/-- INVALIDATE: acted on once the shootdown can complete, which is when accesses that used what it removes have been performed. -/
def execInvalidate (s : State) : Out :=
  if s.mailReady (· = 7) && s.mailReq.f 2 1 ≤ 3 && s.shootdownBusy s.mailReq.shootdown then .next s
  else mailOut s 7 0 [(0, 2), (2, 1), (8, 8)] fun s r => if 3 < r.f 2 1 then .error 2 else .ok (s.shootdown r.shootdown, [])

/-- A byte string cut or filled to a length. -/
def fitted (n : Nat) (bs : List Byte) : List Byte := (bs ++ List.replicate n 0).take n

/-- The 256-byte report over a nonce. -/
def State.report (s : State) (nonce : List Byte) : List Byte :=
  fitted 32 nonce ++ fitted 64 s.host.digest ++ bytesOf s.host.svn 4 ++ bytesOf Config.minSvn 4 ++ bytesOf s.net.moduleNo 2 ++ bytesOf 0 2 ++
  bytesOf identReg 4 ++ fitted 32 Config.keyHash ++ bytesOf s.bootStat 2 ++ bytesOf 0 110

/-- The context string of a report's signature. -/
def attestContext : List Byte := [0x5A, 0x4C, 0x39, 0x36, 0x34, 0x30, 0x2D, 0x41, 0x54, 0x54]

/-- The device identity key: public and private part. The private part is no state: nothing reads it but this signature (R448). -/
def identityKey : List Byte × DsaKey := dsaKeyGen (fitted 32 Config.deviceSeed)

/-- A report's signature, with 32 free bytes of randomness; free bytes too where FIPS 204 gives none (log 11). -/
def State.signature (s : State) (report : List Byte) : List Byte × State :=
  let (rnd, s) := s.freeBytes 32
  match mldsaSign identityKey.2 rnd attestContext report with
  | some sig => (sig, s)
  | none => s.freeBytes 3309

/-- ATTEST: report, identity key, signature. -/
def execAttest (s : State) : Out :=
  mailOut s 8 5517 [(0, 32)] fun s r =>
    let report := s.report (r.body.take 32)
    let (sig, s) := s.signature report
    .ok (s, report ++ fitted 1952 identityKey.1 ++ fitted 3309 sig)

end Sys2Proof.Machine
end

