-- ==== Sys2Proof/Machine/Moves.lean ====
section
/-! DEFINITION. Class 000: NOP, LIT, SETM, GETM, moves and immediates (R39, R40, R48, R115 to R124). -/

namespace Sys2Proof.Machine

/-- NOP (R117): with S it waits for OSCOUNT 0, with P it is a safe point. -/
def execNop (m : Marks) (s : State) : Out := issue s (.nop m) m (fun _ => {}) fun f => .next (s.goOn f m)

/-! ## LIT -/

/-- The B source that an instruction reads, if its B field is a source (R40, R52). -/
def bSource : Instr → Option Code
  | .add _ _ _ b => some b | .sub _ _ _ b => some b | .mul _ _ _ b => some b | .mulh _ _ _ b => some b
  | .mad _ _ _ b _ => some b | .div _ _ _ b => some b | .rem _ _ _ b => some b | .min _ _ _ b => some b
  | .max _ _ _ b => some b | .cmp _ _ _ b _ => some b | .sel _ _ _ b _ _ => some b | .lea _ _ _ b _ => some b
  | .and _ _ _ b => some b | .andn _ _ _ b => some b | .or _ _ _ b => some b | .xor _ _ _ b => some b
  | .shl _ _ _ b => some b | .shr _ _ _ b => some b | .sar _ _ _ b => some b | .rol _ _ _ b => some b
  | .fnl _ _ _ b _ => some b | .fnr _ _ _ b _ => some b | .bfx _ _ _ b => some b | .bfxs _ _ _ b => some b
  | .bfi _ _ _ b _ => some b | .bfis _ _ _ b _ => some b | .pack2 _ _ _ b => some b
  | .xrot _ _ _ b => some b | .xxor _ _ _ b => some b | .xbc _ _ _ b => some b
  | .tlbi _ _ b _ => some b
  | .aadd _ _ _ b => some b | .amin _ _ _ b => some b | .aminU _ _ _ b => some b | .amax _ _ _ b => some b
  | .amaxU _ _ _ b => some b | .aand _ _ _ b => some b | .aor _ _ _ b => some b | .axor _ _ _ b => some b
  | .axch _ _ _ b => some b | .amax64 _ _ _ b => some b | .acas _ _ _ b _ => some b
  | .waitc _ _ b _ => some b
  | .tlwait _ _ b x => if x.toNat = 4 then some b else none
  | .tlread _ _ b x => if x.toNat = 4 then some b else none
  | .madd _ _ _ b _ _ => some b | .mmin _ _ _ b _ _ _ => some b | .mmax _ _ _ b _ _ _ => some b
  | .mand _ _ _ b _ _ => some b | .mor _ _ _ b _ _ => some b | .mxor _ _ _ b _ _ => some b
  | .mxch _ _ _ b _ _ => some b | .mcas _ _ _ b _ => some b | .mbim _ _ _ b _ => some b
  | .mpls _ _ _ b _ => some b | .mcas64 _ _ _ b _ => some b
  | .qenq _ _ _ b => some b | .qdeq _ _ _ b => some b | .qpost _ _ _ b _ => some b
  | .tkget _ _ _ b => some b | .tkarm _ _ _ b _ => some b
  | .mma _ _ _ b _ => some b | .mmaz _ _ _ b _ => some b
  | .tex _ _ _ b _ => some b | .texg _ _ _ b _ => some b
  | .emitv _ _ b x => if x.toNat = 0 then none else some b
  | .emitp _ _ b => some b
  | .fbrd _ _ _ b x => if x.toNat = 2 then none else some b
  | .fbwr _ _ _ b _ => some b
  | .ray _ _ _ b _ => some b | .rayq _ _ _ b _ => some b | .egrs _ _ _ b _ => some b
  | _ => none

/-- Whether an instruction's opcode is permitted to a role (R19). -/
def roleOk (r : Role) : Instr → Bool
  | .cpy _ _ _ _ => r.copies | .cpym _ _ _ _ => r.copies | .cpys _ _ _ _ => r.copies | .cpyt _ _ _ _ => r.copies
  | .cpyg _ _ _ _ _ => r.copies | .cpyx _ _ _ _ _ => r.copies | .cbmrd _ _ _ => r.copies
  | .gang _ _ _ => r.matrices | .mma _ _ _ _ _ => r.matrices | .mmaz _ _ _ _ _ => r.matrices
  | .accld _ _ _ _ => r.matrices | .accst _ _ _ _ => r.matrices | .accrd _ _ _ _ _ => r.matrices
  | .mburst _ _ => r.matrices | .mfree _ _ => r.matrices
  | .tex _ _ _ _ _ => r.vectors | .texg _ _ _ _ _ => r.vectors | .emitv _ _ _ _ => r.vectors | .emitp _ _ _ => r.vectors
  | .fbrd _ _ _ _ _ => r.vectors | .fbwr _ _ _ _ _ => r.vectors | .tret _ _ _ => r.vectors | .late _ _ _ => r.vectors
  | .ray _ _ _ _ _ => r.vectors | .rayq _ _ _ _ _ => r.vectors | .rgrp _ _ _ _ => r.vectors | .egrs _ _ _ _ _ => r.vectors
  | _ => true

/-- Whether an instruction executes only in FIRMWARE mode (R54, R192). -/
def privileged : Instr → Bool
  | .eret _ => true
  | .halt _ => true
  | .tlbi _ _ _ _ => true
  | .mfs _ _ i => firmwareReg i.toNat
  | .mts _ _ i => firmwareReg i.toNat
  | _ => false

/-- The S bit of the word of an instruction of an issue unit (R39). -/
def wordSwitch (w : Word) : Bool := w.getLsbD 31

/-- Whether a LIT is misused before this word (R40). A word that itself traps by an earlier condition of R55 is left
to trap at its own issue. -/
def litMisused (f : Frag) (w : Word) : Bool :=
  match decodeWord w 0 with
  | .error _ => false
  | .ok i =>
    if !roleOk f.g.role i || (privileged i && !f.g.fw) then false
    else match bSource i with
      | some b => b.toNat ≠ 0
      | none => true

/-- LIT (R39, R40, R118): the following instruction of the unit reads the literal as its B operand. The trap record of a LIT whose P is set
takes the word behind the literal as its mask word, which R36 and R40 do not place (log 103). -/
def execLit (m : Marks) (literal : Word) (s : State) : Out :=
  match s.frag? with
  | none => .next s
  | some f =>
    let next := f.sl.pc.toNat + 8
    match s.fetchWord f.g next with
    | .error c => .next ((s.touchWord f.g next).takeTrap f (maskAt f.sl m 1) ⟨c, if c = 0x0A then 0 else 2, next, f.sl.mask⟩)
    | .ok w =>
      issue s (.lit m literal) { m with s := m.s || wordSwitch w } (fun f => { legal := !litMisused f w }) (ext := 1) fun f =>
        .next (s.putGroup (f.g.setSlot f.slot (some
          { f.sl with pc := f.sl.pc + 8, lit := some ⟨f.sl.pc, literal, m.s⟩ })))

/-! ## MODE -/

/-- Whether the fields that a write mask selects hold legal values (R47, R48). -/
def modeLegal (wm : BitVec 4) (v : Nat) : Bool := (!wm.getLsbD 0 || v % 16 ≤ 9) && (!wm.getLsbD 1 || v / 16 % 8 ≤ 4)

/-- MODE with the fields that a write mask selects taken from v (R48). -/
def modeWrite (wm : BitVec 4) (v : Nat) (old : Word) : Word :=
  let sel (bit : Nat) (mask : Word) : Word := if wm.getLsbD bit then mask else 0
  let mask : Word := sel 0 0xF ||| sel 1 0x70 ||| sel 2 0x80 ||| sel 3 0xF00
  (old &&& ~~~mask) ||| (BitVec.ofNat 32 v &&& mask)

/-- Write MODE of the fragment's group. -/
def State.setMode (s : State) (f : Frag) (v : Word) : State :=
  match s.group? f.g.gid with
  | some g => s.putGroup { g with mode := v }
  | none => s

/-- SETM immediate (R48, R115). -/
def execSetmImm (m : Marks) (wm : BitVec 4) (v : BitVec 12) (s : State) : Out :=
  issue s (.setmImm m wm v) m (fun _ => { legal := modeLegal wm v.toNat }) fun f =>
    .next ((s.setMode f (modeWrite wm v.toNat f.g.mode)).goOn f m)

/-- SETM register: v is A of the lowest lane of the slot's mask. A source that cannot be read traps first as R55
orders it, so the check of v comes after (R48, R115). -/
def execSetmReg (m : Marks) (wm : BitVec 4) (a : Code) (s : State) : Out :=
  issue s (.setmReg m wm a) m (fun _ => { srcs := [opnd a 1] }) fun f =>
    let v := f.src a 1 f.low
    if v / 2 ^ 12 = 0 && modeLegal wm v then .next ((s.setMode f (modeWrite wm v f.g.mode)).goOn f m)
    else trapOut s f m ⟨0x02, 0, 0, f.sl.mask⟩

/-- GETM (R116): MODE in every lane of the slot's mask. -/
def execGetm (m : Marks) (d : Code) (s : State) : Out :=
  issue s (.getm m d) m (needD d) fun f => .next ((s.result f d 1 (perLane fun _ => f.g.mode.toNat) f.sl.mask).goOn f m)

/-! ## Moves and immediates -/

/-- MOV (R119): copies the words of the MODE type. -/
def execMov (m : Marks) (d a : Code) (s : State) : Out :=
  laneOp s (.mov m d a) m (typedDA anyType d a) d Frag.words fun f l => f.src a f.words l

/-- MOVI (R120): the sign-extended immediate as one word. -/
def execMovi (m : Marks) (d : Code) (i : BitVec 16) (s : State) : Out :=
  laneOp s (.movi m d i) m (needD d) d (fun _ => 1) fun _ _ => (i.signExtend 32).toNat

/-- A signed ten-bit immediate as a 32-bit word (R35). -/
def imm32 (i : BitVec 10) : Word := i.signExtend 32

/-- ANDI (R121). -/
def execAndi (m : Marks) (d a : Code) (i : BitVec 10) (s : State) : Out :=
  laneOp s (.andi m d a i) m (needDA d a) d (fun _ => 1) fun f l => (BitVec.ofNat 32 (f.src a 1 l) &&& imm32 i).toNat

/-- ORI (R121). -/
def execOri (m : Marks) (d a : Code) (i : BitVec 10) (s : State) : Out :=
  laneOp s (.ori m d a i) m (needDA d a) d (fun _ => 1) fun f l => (BitVec.ofNat 32 (f.src a 1 l) ||| imm32 i).toNat

/-- XORI (R121). -/
def execXori (m : Marks) (d a : Code) (i : BitVec 10) (s : State) : Out :=
  laneOp s (.xori m d a i) m (needDA d a) d (fun _ => 1) fun f l => (BitVec.ofNat 32 (f.src a 1 l) ^^^ imm32 i).toNat

/-- SHLI (R121): 0 for a count of 32 or more. -/
def execShli (m : Marks) (d a : Code) (i : BitVec 10) (s : State) : Out :=
  laneOp s (.shli m d a i) m (needDA d a) d (fun _ => 1) fun f l => f.src a 1 l * 2 ^ i.toNat % 2 ^ 32

end Sys2Proof.Machine
end

