-- ==== Sys2Proof/Machine/Packets.lean ====
section
/-! DEFINITION. Packets (R277 to R287, R386, R392): what the command processor does with each, and what wakes it (R288 to R290). -/

namespace Sys2Proof.Machine

/-! ## Serving a packet (R278, R287) -/

/-- The packet that a queue's command processor takes next, if it is this queue's turn. -/
def State.turn (s : State) (qid : Nat) : Option Packet :=
  match s.queue? qid with
  | some q => if s.nextQueue q.die = some qid then s.ready q else none
  | none => none

/-- What a packet does before it is consumed: the state, or the cause and detail of its error. -/
abbrev Served := Except (Nat × Nat) State

/-- A queue has had its turn. -/
def State.tookTurn (s : State) (q : Queue) : State := s.modDie q.die fun d => { d with lastQueue := q.qid }

/-- Serve a packet: a bad header or reserved byte is cause 2; then its effects, its consumption, and a look at the next. -/
def State.serve (s : State) (p : Packet) (used : List (Nat × Nat)) (body : State → Served) : State :=
  let s := s.tookTurn p.q
  if !p.headerOk || !p.bodyOk used then s.queueError p.q 2 p.op 0
  else match body s with
    | .error (cause, d) => s.queueError p.q cause p.op d
    | .ok s1 => match s1.consume p.q.qid with
      | .error a => s.queueError p.q 7 p.op a
      | .ok s2 => s2.look p.q.qid

/-- A packet of one opcode in its turn. -/
def packetOut (s : State) (qid op : Nat) (used : List (Nat × Nat)) (body : Packet → State → Served) : Out :=
  match s.turn qid with
  | some p => if p.op = op then .next (s.serve p used (body p)) else .next s
  | none => .next s

/-- NOP. -/
def execNopPacket (qid : Nat) (s : State) : Out := packetOut s qid 0 [] fun _ s => .ok s

/-- A packet with an opcode of 0x09 to 0xFF. -/
def execUnknownPacketOpcode (qid : Nat) (s : State) : Out :=
  match s.turn qid with
  | some p => if 9 ≤ p.op then .next ((s.tookTurn p.q).queueError p.q 1 p.op 0) else .next s
  | none => .next s

/-! ## Kernel descriptors (R282, R68, R352) -/

/-- A kernel descriptor from its 128 bytes. -/
def kdescOf (b : List Byte) : KDesc :=
  { ngroups := fieldOf b 4 1, allot := fieldOf b 5 1, gflags := fieldOf b 6 1, classes := fieldOf b 7 1, roles := fieldOf b 8 4,
    scratch := fieldOf b 0xC 4, rings := fieldOf b 0x10 1, nbar := fieldOf b 0x12 2, code := fieldOf b 0x18 8, entry := fieldOf b 0x20 4,
    restart := fieldOf b 0x24 4, slots := (List.range 8).map fun i => fieldOf b (0x40 + 8 * i) 8 }

/-- Whether a kernel descriptor is good for a class: version, ranges, reserved fields, the class, the slots. The bits of ROLES of groups at or
above NGROUPS count as reserved: R282 does not say so (log 95). -/
def kdescOk (cls : Nat) (b : List Byte) : Bool :=
  let k := kdescOf b
  fieldOf b 0 4 = 1 && 1 ≤ k.ngroups && k.ngroups ≤ 16 && k.allot ≤ 4 && k.gflags < 8 && k.classes < 16 && k.classes / 2 ^ cls % 2 = 1 &&
  k.roles / 4 ^ k.ngroups = 0 && k.scratch % 256 = 0 && k.rings < 16 && k.scratch + k.ringBytes ≤ 393216 && k.nbar ≤ 512 &&
  fieldOf b 0x11 1 = 0 && fieldOf b 0x14 4 = 0 && fieldOf b 0x28 24 = 0 && k.slots.all fun v => (fslotOf v).ok

/-- Bytes that a packet names, read as an acquire at its ACQ scope; a fault is cause 7. -/
def State.packetRead (s : State) (p : Packet) (a n : Nat) : Except (Nat × Nat) (State × List Byte) :=
  match (s.acquireVa p.ag p.q.die p.acq a n).peekVa p.ag a n with
  | .error e => .error (7, e.2)
  | .ok (s, v) => .ok (s, bytesOf v n)

/-- Read and check a kernel descriptor: a bad one is cause 4. -/
def State.packetKernel (s : State) (p : Packet) (a : Nat) : Except (Nat × Nat) (State × KDesc) :=
  match s.packetRead p a 128 with
  | .error e => .error e
  | .ok (s, b) => if kdescOk p.c.cls b then .ok (s, kdescOf b) else .error (4, 0)

/-- Whether a grid's teams can be clusters and their records fit the save area. -/
def gridOk (c : Ctx) (k : KDesc) (total clsize : Nat) : Bool :=
  (clsize = 0 || total % clsize = 0) && teamOff c.nslot c.gimgBytes + k.recLen ≤ c.saveBytes

/-! ## Launching (R281, R155) -/

/-- The launch that a packet describes. -/
def Packet.launch (p : Packet) (lid : Nat) (kind : LaunchKind) (k : KDesc) (clsize lsize lslots lbase : Nat) : Launch :=
  { lid := lid, kind := kind, ctx := p.c.ctxid, qid := some p.q.qid, die := p.q.die, kdAddr := p.f 8 8, kd := k, args := p.f 0x10 8,
    gx := p.f 0x18 4 + 1, gy := p.f 0x1C 4 + 1, gz := p.f 0x20 4 + 1, tlimit := p.f 4 2, clsize := clsize, lflags := p.f 7 1, lsize := lsize,
    lslots := lslots, lbase := lbase, signal := p.f 0x30 8, crec := p.f 0x38 8, acq := p.acq, rel := p.rel, prio := p.q.prio, next := 0,
    exited := 0, replayed := false, killed := false, cores := [], held := none, repaired := false }

/-- What a launch's flags do to its context: counters reset, trapping and policy set. A counter that has posted its event posts no other until
software writes it or FPXTHR (R154): the command processor's reset is no such write (log 67). -/
def Ctx.launched (c : Ctx) (flags : Nat) : Ctx :=
  let c := if flags % 2 = 1 then { c with fpx := List.replicate 20 0 } else c
  { c with trapArith := flags / 2 % 2 = 1, compat := flags / 4 % 2 = 1 }

/-- A launch starts. -/
def State.startLaunch (s : State) (l : Launch) : State :=
  match s.ctx? l.ctx with
  | some c =>
    let c := c.launched l.lflags
    ((s.putCtx c).writeHeader c).addLaunch l
  | none => s

/-- Whether the fields that DISPATCH and FRAME share are in range and aligned. -/
def Packet.launchOk (p : Packet) : Bool := p.f 7 1 < 32 && p.f 8 8 % 64 = 0 && p.f 0x30 8 % 8 = 0 && p.f 0x38 8 % 64 = 0

/-- DISPATCH (R281). -/
def execDispatch (qid : Nat) (s : State) : Out :=
  packetOut s qid 1 [(4, 60)] fun p s =>
    if !p.launchOk || 4 < p.f 6 1 || p.f 0x28 8 % 4096 ≠ 0 then .error (2, 0)
    else match s.packetKernel p (p.f 8 8) with
      | .error e => .error e
      | .ok (s, k) =>
        let (lid, s) := s.fresh
        let l := p.launch lid .grid k (p.f 6 1) (16 * (p.f 0x24 2 + 1)) (p.f 0x26 2) (p.f 0x28 8)
        if gridOk p.c k l.total l.clsize then .ok (s.startLaunch l) else .error (4, 0)

/-! ## FRAME (R386 to R389, R409, R425) -/

/-- Eight knots of an axis. -/
def knotsOf (b : List Byte) (off : Nat) : List (Nat × Nat) := (List.range 8).map fun j => (fieldOf b (off + 4 * j) 2, fieldOf b (off + 4 * j + 2) 2)

/-- The strips of a view. -/
def stripsOf (b : List Byte) : List Strip :=
  (List.range (fieldOf b 0x4C 1)).map fun k => ⟨fieldOf b (0xC0 + 16 * k) 2, fieldOf b (0xC4 + 16 * k) 4, fieldOf b (0xC8 + 16 * k) 4⟩

/-- The egress target in its record. -/
def targetOf (a : Nat) (b : List Byte) : Target :=
  ⟨a, fieldOf b 0 1, fieldOf b 1 1, fieldOf b 8 8, fieldOf b 0x10 8, fieldOf b 0x18 4, fieldOf b 0x20 8⟩

/-- A view from its descriptor and its target's record. -/
def viewOf (b : List Byte) (t : Target) : View :=
  { m := (List.range 16).map fun i => BitVec.ofNat 32 (fieldOf b (4 * i) 4), wd := fieldOf b 0x40 2, hd := fieldOf b 0x42 2,
    tx := fieldOf b 0x44 2, ty := fieldOf b 0x46 2, flags := fieldOf b 0x48 4, cx := signedOf 32 (fieldOf b 0x50 4), cy := signedOf 32 (fieldOf b 0x54 4),
    lens := fieldOf b 0x58 8, xk := knotsOf b 0x80, yk := knotsOf b 0xA0, strips := stripsOf b, target := t, frameNo := 0,
    frameNoDone := false, repaired := false }

/-- Whether the knots of an axis are valid (R389). -/
def knotsOk (ks : List (Nat × Nat)) (tiles extent : Nat) : Bool :=
  knotU ks 0 = 0 && (List.range 8).all (fun j => knotU ks j % 16 = 0) &&
  (List.range 7).all (fun j => knotU ks j ≤ knotU ks (j + 1) && (knotU ks j = knotU ks (j + 1) || 1 ≤ knotH ks j)) &&
  knotU ks 7 = 16 * tiles && knotH ks 7 = 0 && 256 * extent ≤ knotSpan ks 7 && knotSpan ks 7 < 2 ^ 31

/-- Whether the strips of a view are valid. -/
def stripsOk (ss : List Strip) (hd : Nat) : Bool :=
  1 ≤ ss.length && ss.length ≤ 8 && (ss.head?).all (fun x => x.row0 = 0 && x.start = 0) && ss.all (fun x => x.row0 < hd) &&
  (List.range (ss.length - 1)).all fun k =>
    match ss[k]?, ss[k + 1]? with
    | some x, some y => x.row0 < y.row0 && x.start ≤ y.start
    | _, _ => true

/-- Whether the reserved fields of a view descriptor are 0. -/
def viewReserved (b : List Byte) : Bool :=
  fieldOf b 0x48 4 < 16 && fieldOf b 0x4D 3 = 0 && fieldOf b 0x68 24 = 0 && fieldOf b 0x140 192 = 0 &&
  ((List.range 8).all fun k => fieldOf b (0xC2 + 16 * k) 2 = 0 && fieldOf b (0xCC + 16 * k) 4 = 0)

/-- Whether a view is valid. -/
def View.ok (w : View) : Bool :=
  1 ≤ w.wd && w.wd ≤ 16384 && 1 ≤ w.hd && w.hd ≤ 16384 && 1 ≤ w.tx && w.tx ≤ 1024 && 1 ≤ w.ty && w.ty ≤ 1024 &&
  knotsOk w.xk w.tx w.wd && knotsOk w.yk w.ty w.hd && stripsOk w.strips w.hd

/-- Whether an egress target record keeps its layout (R425). -/
def View.targetOk (w : View) (b : List Byte) : Bool :=
  let t := w.target
  t.kind ≤ 3 && 1 ≤ t.slots && t.slots ≤ 16 && fieldOf b 2 2 = 0 && fieldOf b 0x28 88 = 0 && t.recs % 16 = 0 &&
  w.wd * pixelBytes t.kind ≤ t.pitch && t.pitch * w.hd ≤ t.slotBytes

/-- Read the view descriptors and their targets from view `v` on: a view set that is not valid is cause 8 with VSREC. -/
def State.readViews (s : State) (p : Packet) (vsrec : Nat) : List Nat → Except (Nat × Nat) (State × List View)
  | [] => .ok (s, [])
  | v :: vs =>
    match s.packetRead p (vsrec + 0x100 + 0x200 * v) 512 with
    | .error e => .error e
    | .ok (s, b) =>
      let a := fieldOf b 0x60 8
      if a % 64 ≠ 0 then .error (8, vsrec)
      else match s.packetRead p a 128 with
        | .error e => .error e
        | .ok (s, r) =>
          let w := viewOf b (targetOf a r)
          if !viewReserved b || !w.ok || !w.targetOk r then .error (8, vsrec)
          else (s.readViews p vsrec vs).map fun x => (x.1, w :: x.2)

/-- Read and check the small-triangle queue descriptors of the cores. -/
def State.readQueues (s : State) (p : Packet) (vsrec stq : Nat) : List Nat → Except (Nat × Nat) State
  | [] => .ok s
  | k :: ks =>
    match s.packetRead p (stq + 64 * k) 64 with
    | .error e => .error e
    | .ok (s, b) => if (qdescOf (ofBytes b)).ok then s.readQueues p vsrec stq ks else .error (8, vsrec)

/-- The core set of a CLMASK on a die. -/
def coreSet (die mask : Nat) : List Nat :=
  ((List.range 48).filter fun c => mask / 2 ^ c % 2 = 1).flatMap fun c => ((List.range 4).map fun j => 192 * die + 4 * c + j).filter userCore

/-- The largest number of tiles that one core of `n` owns. -/
def mostTiles (n : Nat) (views : List View) : Nat :=
  (List.range n).foldl (fun m k => max m (views.mapIdx fun v w => ownedBelow n k v w.tiles).sum) 0

/-- The fixed part of a view-set record in range: its fields and reserved bytes (R387). -/
def vsetOk (b : List Byte) : Bool :=
  fieldOf b 0 4 = 1 && 1 ≤ fieldOf b 4 1 && fieldOf b 4 1 ≤ 16 && fieldOf b 5 3 = 0 && fieldOf b 8 8 ≠ 0 && fieldOf b 8 8 < 2 ^ 48 &&
  fieldOf b 0x10 8 % 256 = 0 && 1 ≤ fieldOf b 0x18 4 && 1 ≤ fieldOf b 0x1C 4 && fieldOf b 0x20 8 % 64 = 0 && fieldOf b 0x48 56 = 0

/-- The frame of a FRAME packet, from what it names: the state after the reads, and the frame without its numbers. -/
def State.readFrame (s : State) (p : Packet) (vsrec : Nat) : Except (Nat × Nat) (State × Frame) :=
  match s.packetRead p vsrec 256 with
  | .error e => .error e
  | .ok (s, b) =>
    if !vsetOk b then .error (8, vsrec)
    else match s.readViews p vsrec (List.range (fieldOf b 4 1)) with
      | .error e => .error e
      | .ok (s, views) => match s.packetKernel p (fieldOf b 0x30 8) with
        | .error e => .error e
        | .ok (s, fk) =>
          let cores := coreSet p.q.die (fieldOf b 8 8)
          let targets := views.map fun w => w.target.addr
          if fk.ngroups ≠ 1 || !(fk.role 0).vectors || fk.rings ≠ 0 || fk.scratch < 4096 * mostTiles cores.length views || targets.dedup ≠ targets then
            .error (8, vsrec)
          else if !gridOk p.c fk 1 0 then .error (4, 0)
          else (s.readQueues p vsrec (fieldOf b 0x28 8) (List.range cores.length)).map fun s =>
            (s, { fid := 0, lid := 0, ctx := p.c.ctxid, die := p.q.die, vset := p.f 0x24 2, cores := cores, views := views,
                  primRing := fieldOf b 0x10 8, primSlots := fieldOf b 0x18 4, setupRing := fieldOf b 0x20 8, setupSlots := fieldOf b 0x1C 4,
                  stq := fieldOf b 0x28 8, fkAddr := fieldOf b 0x30 8, fk := fk, fargs := fieldOf b 0x38 8, stats := fieldOf b 0x40 8,
                  qrange := (List.range 16).map fun i => (fieldOf b (0x80 + 8 * i) 4, fieldOf b (0x84 + 8 * i) 4), prims := [], tris := [],
                  setups := 0, areas := [], batches := [], blends := [], ends := [], queued := [], claimed := [], deadlines := [],
                  counters := views.map fun _ => ⟨0, 0, 0, 0, 0⟩, errPrim := 0, emitErrs := [], occ := List.replicate 16 0, pads := [], meshDone := false,
                  fault := none, repaired := false })

/-- The tile launches of a frame: one cluster launch for each cluster of its core set (R409). -/
def State.startTiles (s : State) (fr : Frame) (prio : Nat) : List Nat → State
  | [] => s
  | cl :: cls =>
    let (lid, s) := s.fresh
    let cores := fr.cores.filter fun k => coreCluster k = cl
    let l : Launch := { fr.fragmentLaunch lid 0 0 prio with kind := .tiles fr.fid cl, gx := cores.length, clsize := cores.length, cores := cores }
    (s.addLaunch l).startTiles fr prio cls

/-- The frame numbers of every view, at the start event; one whose record faults waits for its repair (R425). -/
def State.startNumbers (s : State) (fr : Frame) : State :=
  (List.range fr.views.length).foldl (fun (s : State) v => match s.frame? fr.fid with
    | some fr => match s.frameNumber fr v with
      | .ok s => s
      | .error _ => s
    | none => s) s

/-- The start event: the view set's counter is 0 and nothing is latched. -/
def State.startFrame (s : State) (fr : Frame) (prio : Nat) : State :=
  let s := (s.addFrame fr).modViewSet fr fun x => { x with start := s.clock fr.die, latched := [] }
  let s := (fr.cores.map coreCluster).dedup.foldl (fun (s : State) k => s.engineArrive fr.die (rasterEngine k) fr.ctx) s
  (s.startTiles fr prio (fr.cores.map coreCluster).dedup).startNumbers fr

/-- FRAME (R386). -/
def execFrame (qid : Nat) (s : State) : Out :=
  packetOut s qid 2 [(4, 2), (7, 29), (0x24, 2), (0x28, 24)] fun p s =>
    let vsrec := p.f 0x28 8
    if !p.launchOk || 16 ≤ p.f 7 1 || 15 < p.f 0x24 2 || vsrec % 256 ≠ 0 then .error (2, 0)
    else match s.packetKernel p (p.f 8 8) with
      | .error e => .error e
      | .ok (s, k) =>
        let (lid, s) := s.fresh
        let (fid, s) := s.fresh
        let l := p.launch lid (.meshlets fid) k 0 0 0 0
        if !gridOk p.c k l.total 0 || 2 ^ 25 ≤ l.total * k.ngroups then .error (4, 0)
        else (s.readFrame p vsrec).map fun x => (x.1.startLaunch l).startFrame { x.2 with fid := fid, lid := lid } l.prio

/-! ## Packets that complete at once (R280, R222, R392) -/

/-- TASK_POOL: LIVE and PFLAGS are written, FAULTS is 0. -/
def execTaskPool (qid : Nat) (s : State) : Out :=
  packetOut s qid 6 [(8, 20)] fun p s =>
    match s.pokeVa p.ag (p.f 8 8 + 0x40) (bytesOf (p.f 0x10 8) 8 ++ bytesOf (p.f 0x18 4) 4 ++ bytesOf 0 4) with
    | .ok s => .ok s
    | .error e => .error (7, e.2)

/-- A view set with the pending pairs of a mask's views written. -/
def ViewSet.gaze (x : ViewSet) (mask : Nat) (gx gy : Word) : ViewSet :=
  let set (old : List Word) (g : Word) : List Word := old.mapIdx fun v w => if mask / 2 ^ v % 2 = 1 then g else w
  { x with gzx := set x.gzx gx, gzy := set x.gzy gy }

/-- GAZE. -/
def execGaze (qid : Nat) (s : State) : Out :=
  packetOut s qid 7 [(8, 6), (0x10, 8)] fun p s =>
    let v := p.f 8 4
    if 15 < v then .error (2, 0)
    else
      let s := (s.frames.filter fun fr => fr.die = p.q.die && fr.vset = v).foldl State.latchDue s
      .ok (s.modDie p.q.die fun d => { d with viewSets := d.viewSets.modify v fun x => x.gaze (p.f 0xC 2) (BitVec.ofNat 32 (p.f 0x10 4)) (BitVec.ofNat 32 (p.f 0x14 4)) })

/-- CACHE_CLASS: a privileged queue sets the quotas; an RT context's is at least 4. -/
def execCacheClass (qid : Nat) (s : State) : Out :=
  packetOut s qid 8 [(8, 2), (0xC, 5)] fun p s =>
    let sv := p.f 8 1
    let bk := p.f 9 1
    let q := p.f 0x10 1
    if p.q.qflags % 2 = 0 then .error (3, 0)
    else if 12 < sv + bk || 16 < q then .error (2, 0)
    else
      let s := s.setMsys { s.msys with svQuota := sv, bkQuota := bk }
      .ok (match s.ctx? (p.f 0xC 4) with
        | some c => s.putCtx { c with quota := if c.cls = 0 then max 4 q else q }
        | none => s)

/-! ## INDIRECT (R286) -/

/-- INDIRECT: the queue goes on in the buffer. -/
def execIndirect (qid : Nat) (s : State) : Out :=
  match s.turn qid with
  | none => .next s
  | some p =>
    if p.op ≠ 4 then .next s
    else
      let s := s.tookTurn p.q
      let len := p.f 0x10 4
      if p.q.indirect.isSome then .next (s.queueError p.q 5 4 0)
      else if !p.headerOk || !p.bodyOk [(8, 12)] || p.f 8 8 % 64 ≠ 0 || len % 64 ≠ 0 || 2 ^ 24 < len then .next (s.queueError p.q 2 4 0)
      else .next ((s.putQueue { p.q with awake := false, indirect := some ⟨p.f 8 8, len, 0, 0, []⟩ }).look qid)

/-! ## Packets that hold their queue (R279, R280, R285) -/

/-- How a wait stands: satisfied, waiting, or an error with its cause and detail. -/
inductive WaitState where
  | met | waits
  | bad (cause detail : Nat)
  deriving DecidableEq, Repr

/-- The addresses that a waiting packet reads. -/
def Packet.waitsOn (p : Packet) : List Nat := if p.op = 3 then barrierSignals p.bytes else [p.f 8 8]

/-- How a signal stands: 0, positive, negative, or one that cannot be read. -/
def State.signalState (s : State) (p : Packet) (a : Nat) : WaitState :=
  match s.glance p.ag a 8 with
  | none => .bad 7 a
  | some v => if v = 0 then .met else if 2 ^ 63 ≤ v then .bad 6 a else .waits

/-- The state of a barrier from the states of its signals: the first error, else whether one still waits. -/
def barrierState : List WaitState → WaitState
  | [] => .met
  | .bad c d :: _ => .bad c d
  | .met :: r => barrierState r
  | .waits :: r => match barrierState r with | .bad c d => .bad c d | _ => .waits

/-- How a BARRIER_AND or TIMELINE_WAIT stands. -/
def State.waitState (s : State) (p : Packet) : WaitState :=
  if p.op = 3 then barrierState ((barrierSignals p.bytes).map (s.signalState p))
  else match s.glance p.ag (p.f 8 8) 8 with
    | none => .bad 7 (p.f 8 8)
    | some v => if p.f 0x10 8 ≤ v then .met else .waits

/-- The reads of a wait are acquires at the packet's ACQ scope. -/
def State.waitAcquire (s : State) (p : Packet) : State :=
  p.waitsOn.foldl (fun (s : State) a => (s.acquireVa p.ag p.q.die p.acq a 8).readVa p.ag a 8) s

/-- Look at a wait: an error ends it; otherwise what it reads is watched. -/
def State.lookWait (s : State) (p : Packet) : State :=
  let s := (s.waitAcquire p).dropMonitors (Monitor.isPacket p.q.qid)
  match s.waitState p with
  | .bad c d => s.queueError p.q c p.op d
  | _ => p.waitsOn.foldl (fun (s : State) a => s.watchPacket p.q a) s

/-- A packet that waits holds its queue. -/
def waitOut (s : State) (qid op : Nat) (used : List (Nat × Nat)) (ok : Packet → Bool) : Out :=
  match s.turn qid with
  | none => .next s
  | some p =>
    if p.op ≠ op then .next s
    else
      let s := s.tookTurn p.q
      if !p.headerOk || !p.bodyOk used || !ok p then .next (s.queueError p.q 2 op 0)
      else
        let q := { p.q with awake := false, waiting := some p.bytes }
        .next ((s.putQueue q).lookWait { p with q := q })

/-- BARRIER_AND. -/
def execBarrierAnd (qid : Nat) (s : State) : Out := waitOut s qid 3 [(8, 40), (0x38, 8)] fun p => p.f 0x38 8 % 8 = 0

/-- TIMELINE_WAIT. -/
def execTimelineWait (qid : Nat) (s : State) : Out := waitOut s qid 5 [(8, 16)] fun p => p.f 8 8 % 8 = 0

/-- The packet that a queue waits in. -/
def State.waitingPacket (s : State) (qid : Nat) : Option Packet :=
  match s.queue? qid with
  | some q => match q.waiting, s.ctx? q.ctxid with
    | some b, some c => if q.state = 1 then some ⟨q, c, c.cpAgent q.die, b⟩ else none
    | _, _ => none
  | none => none

/-- A wait that is met: the packet is consumed and completes; a signal that faults is held for its repair (R283). -/
def State.endWait (s : State) (p : Packet) : State :=
  let s := (s.waitAcquire p).dropMonitors (Monitor.isPacket p.q.qid)
  match (s.putQueue { p.q with waiting := none }).consume p.q.qid with
  | .error a => s.queueError p.q 7 p.op a
  | .ok s =>
    let s := match s.signalDown p.ag (packetSignal p.bytes) with
      | .ok s => s
      | .error _ => match s.queue? p.q.qid with
        | some q => s.putQueue { q with held := some (packetSignal p.bytes), repaired := false }
        | none => s
    s.look p.q.qid

/-- A waiting packet of one opcode completes once its wait is met; a second BARRIER_AND waits while the signal of the first is
held. -/
def waitEndOut (s : State) (qid op : Nat) : Out :=
  match s.waitingPacket qid with
  | some p => if p.op = op && s.waitState p = .met && (op ≠ 3 || p.q.held.isNone) then .next (s.endWait p) else .next s
  | none => .next s

/-- BARRIER_AND_SATISFIED. -/
def execBarrierAndSatisfied (qid : Nat) (s : State) : Out := waitEndOut s qid 3
/-- TIMELINE_WAIT_SATISFIED. -/
def execTimelineWaitSatisfied (qid : Nat) (s : State) : Out := waitEndOut s qid 5

/-! ## The scanner (R288 to R290) -/

/-- The scanner looks at a queue that is mapped: at its wait, or at its next slot. -/
def State.scan (s : State) (qid : Nat) : State :=
  match s.waitingPacket qid with
  | some p => s.lookWait p
  | none => match s.queue? qid with
    | some q => if q.state = 1 && !q.awake && q.waiting.isNone then s.look qid else s
    | none => s

/-- PACKET_SLOT_WATCH: a watched slot, signal or wait word has been written; an unmapped queue is mapped again first, and while no queue can
give way to it the watch stays as it is (log 120). -/
def execPacketSlotWatch (qid : Nat) (s : State) : Out :=
  if (s.msys.monitors.any fun m => m.isPacket qid && m.fired) && !s.noRoom qid then
    .next (((s.mapQueue qid).dropMonitors (Monitor.isPacket qid)).scan qid)
  else .next s

/-- Whether WIDX is ahead of RIDX; a WIDX that cannot be read counts as ahead. -/
def State.hasNew (s : State) (q : Queue) : Bool :=
  match s.glance (s.queueAgent q) q.widxAddr 8 with
  | some w => q.ridx < w
  | none => true

/-- A notice for a queue: it is mapped, and looked at if WIDX is ahead. -/
def State.notice (s : State) (qid : Nat) : State :=
  let s := s.mapQueue qid
  match s.queue? qid with
  | some q =>
    let s := s.readVa (s.queueAgent q) q.widxAddr 8
    if s.hasNew q then s.scan qid else s
  | none => s

/-- QUEUE_NOTIFY: a write to the notify line wakes the scanner with the queue's number, and the watch is set again; the notice is a wake event
of the die (R196). While no queue can give way to an unmapped one the notice stands (log 120). -/
def execQueueNotify (qid : Nat) (s : State) : Out :=
  match s.queue? qid with
  | some q =>
    if (q.state = 0 || q.state = 1) && (s.msys.monitors.any fun m => m.isNotify qid && m.fired) && !s.noRoom qid then
      .next (((s.watchNotify q).notice qid).wake q.die)
    else .next s
  | none => .next s

/-- Whether a queue lacks a watch: that of its notify line, or, where it is mapped or was unmapped without it, that of what it waits for. -/
def State.lacksNotify (s : State) (q : Queue) : Bool := !s.msys.monitors.any (Monitor.isNotify q.qid)
def State.lacksWatch (s : State) (q : Queue) : Bool :=
  s.lacksNotify q || (q.state = 0 && q.awake) || (q.state = 1 && !s.msys.monitors.any (Monitor.isPacket q.qid))

/-- SCANNER_RESCAN: every queue of the die that lacks a watch is looked at, and its watches are tried again. No rule says what of the
scanner's work is a queue-scanner notice to firmware (R196): QUEUE_NOTIFY alone is one here, neither a rescan nor a slot's watch (log 97). -/
def execScannerRescan (die : Nat) (s : State) : Out :=
  .next ((s.queues.filter fun q => q.die = die && (q.state = 0 || q.state = 1) && s.lacksWatch q).foldl (fun (s : State) q =>
    let s := if s.lacksNotify q then s.watchNotify q else s
    if q.state = 1 then s.scan q.qid else if s.hasNew q then s.notice q.qid else s) s)

end Sys2Proof.Machine
end

