-- ==== Sys2Proof/Machine/Texture.lean ====
section
/-! DEFINITION. The texture unit (R419 to R424): TEX and TEXG, sampler state records, filters, NEURAL and LENS, completion. -/

namespace Sys2Proof.Machine

/-- Apply a partial function to each element, stopping at the first that fails. -/
def mapE {α β : Type} (f : α → Except Nat β) : List α → Except Nat (List β)
  | [] => .ok []
  | x :: xs => match f x with
    | .error e => .error e
    | .ok y => (mapE f xs).map (y :: ·)

/-! ## Sampler state records (R419) -/

/-- A sampler state record as read. -/
structure Sampler where
  image : Nat
  w : Nat
  h : Nat
  pitch : Nat
  fmt : Nat
  filter : Nat
  repeat_ : Bool
  maxAniso : Nat
  levels : Nat
  aux : Nat
  ox : Int
  oy : Int
  mapW : Nat
  mapH : Nat
  deriving DecidableEq, Repr

/-- The record of 64 bytes. -/
def samplerOf (r : List Byte) : Sampler :=
  { image := fieldOf r 0 8, w := fieldOf r 8 2, h := fieldOf r 0x0A 2, pitch := fieldOf r 0x0C 4, fmt := fieldOf r 0x10 1,
    filter := fieldOf r 0x11 1, repeat_ := fieldOf r 0x12 1 = 1, maxAniso := fieldOf r 0x13 1, levels := fieldOf r 0x14 1,
    aux := fieldOf r 0x18 8, ox := signedOf 32 (fieldOf r 0x20 4), oy := signedOf 32 (fieldOf r 0x24 4),
    mapW := fieldOf r 0x28 2, mapH := fieldOf r 0x2A 2 }

namespace Sampler

def neural (q : Sampler) : Bool := q.filter = 4
def lens (q : Sampler) : Bool := q.filter = 5
/-- Bytes per texel. -/
def texel (q : Sampler) : Nat := if q.fmt = 2 || q.fmt = 4 then 8 else 4

/-- Whether every field is in its range (R419, R420). -/
def ok (q : Sampler) (r : List Byte) (gather : Bool) : Bool :=
  q.fmt ≤ 4 && q.filter ≤ 5 && fieldOf r 0x12 1 ≤ 1 && 1 ≤ q.maxAniso && q.maxAniso ≤ 16 && 1 ≤ q.levels && q.levels ≤ 15 &&
  1 ≤ q.w && q.w ≤ 16384 && 1 ≤ q.h && q.h ≤ 16384 && q.pitch % q.texel = 0 && fieldOf r 0x15 3 = 0 && fieldOf r 0x2C 20 = 0 &&
  (if q.neural || q.lens then q.aux % 64 = 0 && q.levels = 1 else q.aux = 0) && (q.fmt = 4) = q.neural &&
  (if q.lens then q.fmt = 0 && !q.repeat_ && 1 ≤ q.mapW && q.mapW ≤ 16384 && 1 ≤ q.mapH && q.mapH ≤ 16384
   else fieldOf r 0x20 12 = 0) && !(gather && (q.neural || q.lens))

/-- The address whose aperture is not allowed. -/
def badAperture (q : Sampler) : Option Nat :=
  let bad (a : Nat) : Bool := apertureOf a = 0 || apertureOf a = 4
  if bad q.image then some q.image else if (q.neural || q.lens) && bad q.aux then some q.aux else none

/-- Width and height of level `i`. -/
def width (q : Sampler) (i : Nat) : Nat := max 1 (q.w / 2 ^ i)
def height (q : Sampler) (i : Nat) : Nat := max 1 (q.h / 2 ^ i)

/-- Where level `i` begins, from IMAGE: level 0 has PITCH, the others are packed. -/
def levelAt (q : Sampler) : Nat → Nat
  | 0 => 0
  | 1 => q.pitch * q.h
  | i + 2 => q.levelAt (i + 1) + q.width (i + 1) * q.height (i + 1) * q.texel

/-- A texel index clamped to the edge or repeated. -/
def wrapped (q : Sampler) (n : Nat) (i : Int) : Nat :=
  if q.repeat_ then (i % (n : Int)).toNat else (max 0 (min i ((n : Int) - 1))).toNat

/-- The address of a texel. -/
def texelAddr (q : Sampler) (lv : Nat) (i j : Int) : Nat :=
  let x := q.wrapped (q.width lv) i
  let y := q.wrapped (q.height lv) j
  addrPlus q.image ((q.levelAt lv + y * (if lv = 0 then q.pitch else q.width lv * q.texel) + x * q.texel : Nat))

end Sampler

/-! ## Texels -/

/-- A channel: its value, and the value as an F32 code. -/
abbrev Chan := NVal × Word

/-- A channel with a rational value. -/
def chanOf (n d : Nat) : Chan := if n = 0 then (.zero false, 0) else (.fin ⟨n, d⟩, toF32 ⟨n, d⟩)

/-- The channels of a texel: four, or the eight latents of LATENT8. -/
def channels (fmt raw : Nat) : List Chan :=
  match fmt with
  | 0 => (List.range 4).map fun c => chanOf (raw / 2 ^ (8 * c) % 256) 255
  | 1 => (List.range 3).map (fun c => chanOf (raw / 2 ^ (10 * c) % 1024) 1023) ++ [chanOf (raw / 2 ^ 30 % 4) 3]
  | 2 => (List.range 4).map fun c =>
      let h := raw / 2 ^ (16 * c) % 65536
      ((decodeF f16 h).toN, BitVec.ofNat 32 (fConvert f16 f32 0 h).1)
  | 3 => [((decodeF f32 (raw % 2 ^ 32)).toN, BitVec.ofNat 32 raw), chanOf 0 1, chanOf 0 1, chanOf 1 1]
  | _ => (List.range 8).map fun c => (decodeN (nfmt 6) (raw / 2 ^ (8 * c) % 256), 0)

/-- Read `n` bytes for the texture unit: 0 outside an allocation, an address where translation or access fails. -/
def State.texRead (s : State) (g : Group) (a n : Nat) : Except Nat Nat :=
  match s.enginePieces g a n with
  | none => .ok 0
  | some ps => match s.engineBits (s.engineAgent g) .rd ps with
    | .error _ => .error a
    | .ok bs => .ok (ofBytes (s.readBits g.core bs))

/-- What a texture read leaves in the memory system. -/
def State.texTouch (s : State) (g : Group) (a n : Nat) : State :=
  match s.engineRange g .rd a n with
  | .error _ => s
  | .ok bs => (s.engineReads (s.engineAgent g) bs).1

/-! ## Taps (R421) -/

/-- A texel with its weight in a sum. -/
structure Tap where
  weight : Frac
  level : Nat
  i : Int
  j : Int
  deriving DecidableEq, Repr

/-- The bilinear footprint's first texel and fraction in 1/256 of a texel coordinate. -/
def footprint (x : Frac) : Int × Nat :=
  let y := x.sub ⟨1, 2⟩
  let f := roundInt 0 ((y.sub (Frac.ofInt y.floor)).mul (Frac.ofInt 256))
  if f = 256 then (y.floor + 1, 0) else (y.floor, f.toNat)

/-- The taps of BILINEAR at a position of a level, their sum of weights being `k`. -/
def bilinear (lv : Nat) (k : Frac) (x y : Frac) : List Tap :=
  let (i, fx) := footprint x
  let (j, fy) := footprint y
  [⟨k.mul ⟨((256 - fx) * (256 - fy) : Nat), 65536⟩, lv, i, j⟩, ⟨k.mul ⟨(fx * (256 - fy) : Nat), 65536⟩, lv, i + 1, j⟩,
   ⟨k.mul ⟨((256 - fx) * fy : Nat), 65536⟩, lv, i, j + 1⟩, ⟨k.mul ⟨(fx * fy : Nat), 65536⟩, lv, i + 1, j + 1⟩]

/-- A sum of weighted values, rounded once to F32: NaN where a value with weight is, or where the infinities oppose, which
is the NaN event. -/
def weightedSum (xs : List (Frac × NVal)) : Word × Nat :=
  let xs := xs.filter fun x => !x.1.isZero
  if xs.any fun x => x.2.isNan then (BitVec.ofNat 32 f32.nan, 0)
  else
    let pos := xs.any fun x => x.2.isInf false
    let neg := xs.any fun x => x.2.isInf true
    if pos && neg then (BitVec.ofNat 32 f32.nan, evNan)
    else if pos || neg then (BitVec.ofNat 32 (f32.signBit neg + f32.infCode), 0)
    else (toF32 (Frac.sum (xs.map fun x => x.1.mul x.2.frac)), 0)

/-! ## Level of detail (R421) -/

/-- The fine differences of (s, t) in x and in y across a lane's quad, 0 on an axis without a complete pair (R151); nothing where the quad
has no complete pair. -/
def SampOp.differences (o : SampOp) (st : Nat → Frac × Frac) (l : Nat) : Option ((Frac × Frac) × (Frac × Frac)) :=
  let q := l / 4 * 4
  let diff (p : Option (Nat × Nat)) : Frac × Frac :=
    match p with
    | some p => (((st (q + p.2)).1.sub (st (q + p.1)).1), ((st (q + p.2)).2.sub (st (q + p.1)).2))
    | none => (⟨0, 1⟩, ⟨0, 1⟩)
  if o.dissolved then none
  else match derivChoice 0 true o.mask q (l % 4), derivChoice 1 true o.mask q (l % 4) with
    | none, none => none
    | x, y => some (diff x, diff y)

/-- The squared length of a difference in texels. -/
def lengthSq (q : Sampler) (d : Frac × Frac) : Frac :=
  let x := d.1.mul (Frac.ofInt q.w)
  let y := d.2.mul (Frac.ofInt q.h)
  (x.mul x).add (y.mul y)

/-- log2 of the root of a positive number, rounded to 1/256 with RNE, in units of 1/256. A tie cannot occur. -/
def log2Root (r : Frac) : Int := (floorLog2 (r.num.natAbs ^ 256) (r.den ^ 256) + 1) / 2

/-- Implicit λ. -/
def SampOp.implicit (o : SampOp) (q : Sampler) (st : Nat → Frac × Frac) (l : Nat) : Frac :=
  match o.differences st l with
  | none => ⟨0, 1⟩
  | some (dx, dy) =>
    let r := (lengthSq q dx).max (lengthSq q dy)
    if r.isZero then ⟨0, 1⟩ else ⟨log2Root r, 256⟩

/-- λ clamped to the levels. -/
def Sampler.clampLod (q : Sampler) (x : Frac) : Frac := (Frac.ofInt 0).max (x.min (Frac.ofInt (q.levels - 1)))
/-- The level nearest to λ. -/
def Sampler.nearLevel (q : Sampler) (x : Frac) : Nat := ((q.clampLod x).add ⟨1, 2⟩).floor.toNat

/-- A position of (s, t) in a level. -/
def Sampler.texelPos (q : Sampler) (lv : Nat) (st : Frac × Frac) : Frac × Frac :=
  (st.1.mul (Frac.ofInt (q.width lv)), st.2.mul (Frac.ofInt (q.height lv)))

/-- BILINEAR at (s, t) in a level. -/
def Sampler.bilinearAt (q : Sampler) (lv : Nat) (k : Frac) (st : Frac × Frac) : List Tap :=
  let p := q.texelPos lv st
  bilinear lv k p.1 p.2

/-- The probes of ANISO: the least N that reaches ρ_max ÷ ρ_min, up to MAXANISO, along the longer difference. -/
def SampOp.aniso (o : SampOp) (q : Sampler) (st : Nat → Frac × Frac) (l : Nat) (base : Bool) : List Tap :=
  match o.differences st l with
  | none => q.bilinearAt 0 ⟨1, 1⟩ (st l)
  | some (dx, dy) =>
    let a := (lengthSq q dx).max (lengthSq q dy)
    let b := (lengthSq q dx).min (lengthSq q dy)
    let major := if (lengthSq q dx).lt (lengthSq q dy) then dy else dx
    let n := ((List.range q.maxAniso).find? fun i => a.le (b.mul (Frac.ofInt ((i + 1) * (i + 1) : Nat)))).map (· + 1) |>.getD q.maxAniso
    let lod : Int := if a.isZero then 0 else (floorLog2 a.num.natAbs (a.den * (n * n)) + 1) / 2
    let lv := if base then 0 else min (max lod 0).toNat (q.levels - 1)
    (List.range n).flatMap fun i =>
      let f : Frac := (Frac.mk (2 * i + 1) (2 * n)).sub ⟨1, 2⟩
      q.bilinearAt lv ⟨1, n⟩ ((st l).1.add (f.mul major.1), (st l).2.add (f.mul major.2))

/-- The taps of a lane's TEX with a filter other than NEURAL and LENS; `lod` is the explicit λ. -/
def SampOp.taps (o : SampOp) (q : Sampler) (st : Nat → Frac × Frac) (lod : Frac) (l : Nat) : List Tap :=
  let x := q.clampLod (if o.x = 0 then o.implicit q st l else if o.x = 1 then lod else ⟨0, 1⟩)
  match q.filter with
  | 0 =>
    let lv := q.nearLevel x
    let p := q.texelPos lv (st l)
    [⟨⟨1, 1⟩, lv, p.1.floor, p.2.floor⟩]
  | 1 => q.bilinearAt (q.nearLevel x) ⟨1, 1⟩ (st l)
  | 2 =>
    let f := roundInt 0 ((x.sub (Frac.ofInt x.floor)).mul (Frac.ofInt 256))
    let lv := x.floor.toNat
    q.bilinearAt lv ⟨256 - f, 256⟩ (st l) ++ (if f = 0 then [] else q.bilinearAt (lv + 1) ⟨f, 256⟩ (st l))
  | _ => o.aniso q st l (o.x = 2)

/-- The four texels of a gather, in its order. -/
def gatherTaps (q : Sampler) (st : Frac × Frac) : List Tap :=
  let p := q.texelPos 0 st
  let i := (footprint p.1).1
  let j := (footprint p.2).1
  [⟨⟨1, 1⟩, 0, i, j⟩, ⟨⟨1, 1⟩, 0, i + 1, j⟩, ⟨⟨1, 1⟩, 0, i, j + 1⟩, ⟨⟨1, 1⟩, 0, i + 1, j + 1⟩]

/-! ## LENS (R423) -/

/-- The grid cell and the fraction in it of a display position on one axis, clamped to the grid. -/
def lensCell (p : Int) (m : Nat) : Nat × Frac :=
  let u := (Frac.ofInt 0).max ((Frac.mk (31 * p) (256 * m)).min (Frac.ofInt 31))
  let i := min u.floor.toNat 30
  (i, u.sub (Frac.ofInt i))

/-- The weights and addresses of the map entries around a position. -/
def Sampler.lensEntries (q : Sampler) (px py : Int) : List (Frac × Nat) :=
  let (i, fu) := lensCell px q.mapW
  let (j, fv) := lensCell py q.mapH
  let one := Frac.ofInt 1
  let at_ (di dj : Nat) : Nat := addrPlus q.aux ((4 * (32 * (j + dj) + i + di) : Nat))
  [((one.sub fu).mul (one.sub fv), at_ 0 0), (fu.mul (one.sub fv), at_ 1 0), ((one.sub fu).mul fv, at_ 0 1), (fu.mul fv, at_ 1 1)].filter
    fun e => !e.1.isZero

/-- The taps of a LENS lane at pixel (x, y). -/
def State.lensTaps (s : State) (g : Group) (q : Sampler) (x y : Int) : Except Nat (List Tap) :=
  let px := 256 * x + 128
  let py := 256 * y + 128
  match mapE (fun e => (s.texRead g e.2 4).map fun v => (e.1, v)) (q.lensEntries px py) with
  | .error a => .error a
  | .ok es =>
    let off (h : Nat) : Int := roundInt 0 (Frac.sum (es.map fun e => e.1.mul (Frac.ofInt (signedOf 16 (e.2 / 2 ^ h)))))
    let tx := (Frac.mk (px + off 0) 256).sub (Frac.ofInt q.ox)
    let ty := (Frac.mk (py + off 16) 256).sub (Frac.ofInt q.oy)
    .ok (bilinear 0 ⟨1, 1⟩ tx ty)

/-! ## NEURAL (R422) -/

/-- Round to FP8-E4M3 with RNE, saturating: the code and its events. -/
def toE4m3 (v : NVal) : Nat × Nat := convertInto (nfmt 6) ⟨0, true, false⟩ v

/-- A sum of products behind a bias: NaN if an operand is. -/
def neuron (bias : NVal) (ws xs : List NVal) : NVal :=
  if bias.isNan || ws.any NVal.isNan || xs.any NVal.isNan then .nan false false
  else
    let v := (Frac.sum ((ws.zip xs).map fun p => p.1.frac.mul p.2.frac)).add bias.frac
    if v.isZero then .zero false else .fin v

/-- The decoding of eight latents: four F32 words, and the event bits of each rounding. -/
def dobby (w : List Byte) (latents : List NVal) : List Word × List Nat :=
  let at_ (o : Nat) : NVal := decodeN (nfmt 6) (w.getD o 0).toNat
  let xs := latents.map fun v => toE4m3 (if v.isNan then .zero false else v)
  let xv := xs.map fun x => decodeN (nfmt 6) x.1
  let hs := (List.range 16).map fun j =>
    match neuron (at_ (0x80 + j)) ((List.range 8).map fun i => at_ (8 * j + i)) xv with
    | .fin v => toE4m3 (if v.num < 0 then .zero false else .fin v)
    | v => toE4m3 v
  let hv := hs.map fun x => decodeN (nfmt 6) x.1
  let os := (List.range 4).map fun c =>
    match neuron (at_ (0xD0 + c)) ((List.range 16).map fun j => at_ (0x90 + 16 * c + j)) hv with
    | .fin v => roundZ f32 0 false v
    | .nan _ _ => (f32.nan, 0)
    | _ => (0, 0)
  (os.map fun o => BitVec.ofNat 32 o.1, (xs ++ hs ++ os).map (·.2))

/-- The contexts whose sampler operations a core's texture unit could carry out now. -/
def State.samplersWaiting (s : State) (core : Nat) : List Nat :=
  ((s.engineGroups core).filter fun g => g.sampOps.any fun o => o.fault.isNone).map s.ctxIdOf

/-! ## TEX and TEXG (R420) -/

/-- The coordinates of a lane, if they are finite numbers. -/
def coords (a : Nat) : Option (Frac × Frac) :=
  let s := decodeF f32 (a % 2 ^ 32)
  let t := decodeF f32 (a / 2 ^ 32 % 2 ^ 32)
  if s.isNan || s.isInf || t.isNan || t.isInf then none else some (s.frac, t.frac)

/-- Whether the sampler queue holds 32 operations: a further one is not ready (R424). -/
def State.samplerFull (s : State) : Bool := s.frag?.any fun f => 32 ≤ f.g.sampOps.length

/-- Words of the A operand. -/
def samplerArgWords (q : Sampler) (gather : Bool) (x : Nat) : Nat := if !gather && !q.lens && x = 1 then 3 else 2

/-- Whether implicit λ finds a lane's quad without a complete pair. -/
def quadMissing (o : SampOp) (q : Sampler) : Bool :=
  !o.gather && o.x = 0 && !q.neural && !q.lens &&
  (lanesOf o.mask).any fun l => o.dissolved || ((derivChoice 0 true o.mask (l / 4 * 4) (l % 4)).isNone && (derivChoice 1 true o.mask (l / 4 * 4) (l % 4)).isNone)

/-- TEX and TEXG: the record is read at issue, and the sampler queue accepts the operation. -/
def samplerOut (s : State) (i : Instr) (m : Marks) (d a b : Code) (gather : Bool) (x : Nat) : Out :=
  if s.samplerFull then .next s
  else issue s i m (fun f => { role := f.g.role.vectors, srcs := [opnd a 2], srcB := some (opnd b 2), dst := some (opnd d 4), late := true }) fun f =>
    let xs := s.checkLanes f.g .rd [1, 2, 3] 64 64 (fun _ => f.srcB b 2 f.low) [f.low]
    match lanesTrap 0 xs with
    | some t => trapLanes s f m .rd xs t
    | none =>
      if s.relBusy f.g then .next s
      else
        let bits := xs.flatMap LaneAccess.pieces
        let s := bits.foldl (fun (s : State) b => s.bringBit (s.agentOf f.g) true b) s
        let r := s.readBits f.g.core bits
        let q := samplerOf r
        let n := samplerArgWords q gather x
        if !(q.ok r gather && (opnd a n).inAllot f.g.allot) then trapOut s f m ⟨0x02, 0, 0, f.sl.mask⟩
        else match q.badAperture, f.readTrap [opnd a n] with
          | some addr, _ => trapOut s f m ⟨0x0A, 0, addr, f.sl.mask⟩
          | none, some c => trapOut s f m ⟨c, 0, 0, f.sl.mask⟩
          | none, none =>
            let o : SampOp := ⟨f.g.samp.accepted + 1, s.ctl.nextId, gather, x, r, perLane (f.src a n), f.sl.mask, f.g.dissolved, none, false⟩
            let g := { f.g with samp := f.g.samp.accept, sampOps := f.g.sampOps ++ [o], quadFault := f.g.quadFault || quadMissing o q }
            let s := s.putGroup g
            let s := s.engineAccept (coreDie f.g.core) (textureUnit f.g.core) (s.ctxIdOf f.g) true (s.samplersWaiting f.g.core)
            .next ((s.resultLater f d 4 (perLane fun _ => 0) f.sl.mask 1 .engine).goOn f m)

def execTex (m : Marks) (d a b : Code) (x : BitVec 2) (s : State) : Out := samplerOut s (.tex m d a b x) m d a b false x.toNat
def execTexg (m : Marks) (d a b : Code) (x : BitVec 2) (s : State) : Out := samplerOut s (.texg m d a b x) m d a b true x.toNat

/-! ## Completion (R420 to R424) -/

/-- What a lane needs: free values where its coordinates are no finite numbers, or its taps. -/
inductive LaneJob where
  | free
  | taps (ts : List Tap)
  deriving DecidableEq, Repr

/-- The job of a lane. -/
def State.laneJob (s : State) (g : Group) (o : SampOp) (q : Sampler) (l : Nat) : Except Nat LaneJob :=
  let a := o.args.getD l 0
  if q.lens then (s.lensTaps g q (signedOf 32 a) (signedOf 32 (a / 2 ^ 32))).map .taps
  else
    let st (i : Nat) : Frac × Frac := (coords (o.args.getD i 0)).getD (⟨0, 1⟩, ⟨0, 1⟩)
    let lod := decodeF f32 (a / 2 ^ 64 % 2 ^ 32)
    let lodFrac : Frac := match lod with | .inf neg => Frac.ofInt (if neg then 0 else 15) | v => v.frac
    if (coords a).isNone || (!o.gather && !q.neural && o.x = 1 && lod.isNan) then .ok .free
    else if o.gather then .ok (.taps (gatherTaps q (st l)))
    else if q.neural then .ok (.taps (q.bilinearAt 0 ⟨1, 1⟩ (st l)))
    else .ok (.taps (o.taps q st lodFrac l))

/-- A tap's texel. -/
def State.tapRead (s : State) (g : Group) (q : Sampler) (t : Tap) : Except Nat (Frac × List Chan) :=
  if t.weight.isZero then .ok (t.weight, [])
  else (s.texRead g (q.texelAddr t.level t.i t.j) q.texel).map fun v => (t.weight, channels q.fmt v)

/-- The four words of a lane, and the event bits that they raise. -/
def State.laneResult (s : State) (g : Group) (o : SampOp) (q : Sampler) (weights : List Byte) (l : Nat) : LaneJob → Except Nat (List Word × List Nat)
  | .free => .ok ((List.range 4).map fun c => Config.freeBits 32 (2 ^ 80 + (o.oid * 64 + l) * 4 + c), [])
  | .taps ts => match mapE (s.tapRead g q) ts with
    | .error a => .error a
    | .ok xs =>
      let chan (x : Frac × List Chan) (c : Nat) : Chan := x.2.getD c (.zero false, 0)
      if o.gather then .ok (xs.map fun x => (chan x o.x).2, [])
      else if q.neural then
        .ok (dobby weights ((List.range 8).map fun c =>
          let v := Frac.sum ((xs.filter fun x => !(x.1.isZero || (chan x c).1.isNan)).map fun x => x.1.mul (chan x c).1.frac)
          if v.isZero then .zero false else .fin v))
      else if q.filter = 0 then .ok ((List.range 4).map fun c => ((xs.head?.map fun x => (chan x c).2).getD 0), [])
      else
        let rs := (List.range 4).map fun c => weightedSum (xs.map fun x => (x.1, (chan x c).1))
        .ok (rs.map (·.1), rs.map (·.2))

/-- What an operation reads besides its record: ranges of addresses. -/
def State.samplerReads (s : State) (g : Group) (o : SampOp) (q : Sampler) : Except Nat (List (Nat × Nat)) :=
  let ls := lanesOf o.mask
  let aux : List (Nat × Nat) :=
    if q.neural then [(q.aux, 256)]
    else if q.lens then ls.flatMap fun l =>
      let a := o.args.getD l 0
      (q.lensEntries (256 * signedOf 32 a + 128) (256 * signedOf 32 (a / 2 ^ 32) + 128)).map fun e => (e.2, 4)
    else []
  (mapE (s.laneJob g o q) ls).map fun js => (aux ++ js.flatMap fun j => match j with
    | .free => []
    | .taps ts => (ts.filter fun t => !t.weight.isZero).map fun t => (q.texelAddr t.level t.i t.j, q.texel)).dedup

/-- A sampler operation's results by lane, and its event bits, or the address that faults. -/
def State.sample (s : State) (g : Group) (o : SampOp) (q : Sampler) : Except Nat (List (Nat × List Word × List Nat)) :=
  let ws : Except Nat (List Byte) := if q.neural then (s.texRead g q.aux 256).map fun v => bytesOf v 256 else .ok []
  match ws with
  | .error a => .error a
  | .ok ws => mapE (fun l => match s.laneJob g o q l with
      | .error a => .error a
      | .ok j => (s.laneResult g o q ws l j).map fun r => (l, r.1, r.2)) (lanesOf o.mask)

/-- Put an operation back into its group. -/
def State.putSampOp (s : State) (gid : Nat) (o : SampOp) : State :=
  match s.group? gid with
  | some g => s.putGroup { g with sampOps := put SampOp.n o g.sampOps }
  | none => s

/-- A result of an engine operation is there and lands. -/
def State.landEngine (s : State) (oid : Nat) (vals : List Nat) : State :=
  match s.out? oid with
  | some r => (s.landResult { r with vals := vals, left := 0 }).dropOut oid
  | none => s

/-- How many of some event bits are event `e`. -/
def eventCount (evs : List Nat) (e : Nat) : Nat := (evs.filter fun b => b / 2 ^ e % 2 = 1).length

/-- The texture unit carries out an operation: its context has had its turn. -/
def State.startSampler (s : State) (g : Group) (op : Nat) : State :=
  s.engineServe (coreDie g.core) (textureUnit g.core) (s.ctxIdOf g)
    ((s.groups.filter fun h => h.core = g.core && s.ctxIdOf h = s.ctxIdOf g).any fun h => h.sampOps.any fun o => !(h.gid = g.gid && o.n = op))

/-- SAMPLER_OP_COMPLETE: in its context's turn (R30), reads, results, events, and the counter; or the operation waits on a fault. -/
def execSamplerOpComplete (gid op : Nat) (s : State) : Out :=
  match s.group? gid with
  | none => .next s
  | some g => match g.sampOps.find? fun o => o.n = op with
    | none => .next s
    | some o =>
      let q := samplerOf o.record
      if !s.engineRuns g || o.fault.isSome || !s.engineTurn (coreDie g.core) (textureUnit g.core) (s.ctxIdOf g) (s.samplersWaiting g.core) then .next s
      else match s.samplerReads g o q, s.sample g o q with
        | .ok rs, .ok vs =>
          let s := rs.foldl (fun (s : State) r => s.texTouch g r.1 r.2) (s.startSampler g op)
          let evs := vs.map fun v => v.2.2.foldl (fun e b => e ||| b) 0
          let s := s.countEvents (s.ctxIdOf g) (coreCluster g.core) (if q.neural then 4 else 1) ((List.range 4).map (eventCount evs))
          let s := s.landEngine o.oid (perLane fun l => ((vs.find? fun v => v.1 = l).map fun v => valueOf v.2.1).getD 0)
          let s := match s.group? gid with
            | some g => s.putGroup { g with samp := g.samp.complete op, sampOps := g.sampOps.filter fun x => x.n ≠ op }
            | none => s
          .next (s.engineChoose (coreDie g.core) (textureUnit g.core) (s.samplersWaiting g.core))
        | .error a, _ => .next ((s.tryVa (s.engineAgent g) .rd a).putSampOp gid { o with fault := some a, repaired := false })
        | _, .error a => .next ((s.tryVa (s.engineAgent g) .rd a).putSampOp gid { o with fault := some a, repaired := false })

end Sys2Proof.Machine
end

