-- ==== Sys2Proof/Machine/Rays.lean ====
section
/-! DEFINITION. The ray unit (R433 to R436) and RGRP (R437). -/

namespace Sys2Proof.Machine

/-! ## Vectors of exact numbers -/

/-- A vector of three exact numbers. -/
structure V3 where
  x : Frac
  y : Frac
  z : Frac
  deriving DecidableEq, Repr

namespace V3

def sub (a b : V3) : V3 := ⟨a.x.sub b.x, a.y.sub b.y, a.z.sub b.z⟩
def dot (a b : V3) : Frac := ((a.x.mul b.x).add (a.y.mul b.y)).add (a.z.mul b.z)
def cross (a b : V3) : V3 :=
  ⟨(a.y.mul b.z).sub (a.z.mul b.y), (a.z.mul b.x).sub (a.x.mul b.z), (a.x.mul b.y).sub (a.y.mul b.x)⟩
def axis (a : V3) (i : Nat) : Frac := if i = 0 then a.x else if i = 1 then a.y else a.z
/-- Lexicographic order. -/
def before (a b : V3) : Bool := a.x.lt b.x || (a.x.beq b.x && (a.y.lt b.y || (a.y.beq b.y && a.z.lt b.z)))

end V3

/-- The vector of three F32 codes, if each is finite. -/
def v3Of (a b c : Nat) : Option V3 :=
  if [a, b, c].any fun x => notFinite (BitVec.ofNat 32 x) then none
  else some ⟨(decodeF f32 a).frac, (decodeF f32 b).frac, (decodeF f32 c).frac⟩

/-! ## Rays (R434, R435) -/

/-- A bound of t: a number or an infinity. -/
inductive Bound where
  | fin (x : Frac)
  | inf (neg : Bool)
  deriving DecidableEq, Repr

/-- The bound of an F32 code, unless it is NaN. -/
def boundOf (c : Nat) : Option Bound :=
  match decodeF f32 c with
  | .nan _ _ => none
  | .inf n => some (.inf n)
  | v => some (.fin v.frac)

/-- Whether t is at or above the bound, and at or below it. -/
def Bound.below (b : Bound) (t : Frac) : Bool := match b with | .fin x => x.le t | .inf n => n
def Bound.above (b : Bound) (t : Frac) : Bool := match b with | .fin x => t.le x | .inf n => !n

/-- A ray with its range of t. -/
structure Ray where
  o : V3
  d : V3
  tmin : Bound
  tmax : Bound
  deriving DecidableEq, Repr

/-- The ray of eight words, if its origin and direction are finite and its range holds no NaN. -/
def rayOf (a : Nat) : Option Ray :=
  let w (i : Nat) : Nat := a / 2 ^ (32 * i) % 2 ^ 32
  match v3Of (w 0) (w 1) (w 2), v3Of (w 3) (w 4) (w 5), boundOf (w 6), boundOf (w 7) with
  | some o, some d, some lo, some hi => some ⟨o, d, lo, hi⟩
  | _, _, _, _ => none

/-- A range of t narrowed by one slab: nothing where it is empty. -/
def Ray.slab (r : Ray) (lo hi : V3) (rng : Option (Bound × Bound)) (i : Nat) : Option (Bound × Bound) :=
  match rng with
  | none => none
  | some (a, b) =>
    let o := r.o.axis i
    let d := r.d.axis i
    if d.isZero then if (lo.axis i).le o && o.le (hi.axis i) then some (a, b) else none
    else
      let t0 := ((lo.axis i).sub o).div d
      let t1 := ((hi.axis i).sub o).div d
      let near := t0.min t1
      let far := t0.max t1
      some (if a.below near then .fin near else a, if b.above far then .fin far else b)

/-- Whether a range of t holds a number. -/
def meetsRange (a b : Bound) : Bool :=
  match a, b with
  | .fin x, _ => b.above x
  | .inf n, .fin _ => n
  | .inf n, .inf m => n && !m

/-- The box test: the exact slab interval meets [tmin, tmax]. -/
def Ray.hitsBox (r : Ray) (lo hi : V3) : Bool :=
  (lo.x.le hi.x && lo.y.le hi.y && lo.z.le hi.z) &&
  match [0, 1, 2].foldl (r.slab lo hi) (some (r.tmin, r.tmax)) with
  | some (a, b) => meetsRange a b
  | none => false

/-- A triangle hit: t, and whether the edge functions are not negative. -/
def Ray.hitsTri (r : Ray) (a b c : V3) : Option (Frac × Bool) :=
  let n := (b.sub a).cross (c.sub a)
  let dn := r.d.dot n
  let edge (p q : V3) : Frac := r.d.dot ((p.sub r.o).cross (q.sub r.o))
  let inside (sgn : Int) (p q : V3) : Bool :=
    let e := (edge p q).num * sgn
    0 < e || (e = 0 && p.before q)
  let allIn (sgn : Int) : Bool := inside sgn a b && inside sgn b c && inside sgn c a
  if dn.isZero then none
  else
    let t := ((a.sub r.o).dot n).div dn
    if !(r.tmin.below t && r.tmax.above t) then none
    else if allIn 1 then some (t, true)
    else if allIn (-1) then some (t, false)
    else none

/-! ## The BVH (R433) -/

/-- A BVH's header as read. -/
structure Bvh where
  nodes : Nat
  tris : Nat
  nnodes : Nat
  ntris : Nat
  rest : Nat
  deriving DecidableEq, Repr

def bvhOf (v : Nat) : Bvh := ⟨v % 2 ^ 64, v / 2 ^ 64 % 2 ^ 64, v / 2 ^ 128 % 2 ^ 32, v / 2 ^ 160 % 2 ^ 32, v / 2 ^ 192⟩

/-- The closest hit so far: t, triangle index, primitive, shader, front. -/
structure Hit where
  t : Frac
  ix : Nat
  prim : Nat
  shader : Nat
  front : Bool
  deriving DecidableEq, Repr

/-- How a lane's query stands: the closest hit; an error; values the manual does not state, from a coordinate that is no
number; a fault; a traversal without end. -/
inductive Query where
  | best (h : Option Hit)
  | error
  | open_
  | fault (a : Nat)
  | endless
  deriving DecidableEq, Repr

/-- The reads of a query so far and how it stands. -/
structure Walk where
  reads : List (Nat × Nat)
  q : Query
  deriving DecidableEq, Repr

/-- Whether a walk is over: only a query that stands at hits goes on, and one for any hit ends at the first. -/
def Walk.over (w : Walk) (anyHit : Bool) : Bool :=
  match w.q with
  | .best none => false
  | .best (some _) => anyHit
  | _ => true

/-- The closer of two hits: the least t, then the lower index. -/
def closer (h : Option Hit) (k : Hit) : Option Hit :=
  match h with
  | none => some k
  | some x => if k.t.lt x.t || (k.t.beq x.t && k.ix < x.ix) then some k else some x

/-- A walk that reads a range and goes on with its value. -/
def State.readStep (s : State) (ag : Agent) (w : Walk) (a n : Nat) (k : Walk → Nat → Walk) : Walk :=
  match s.checkRange ag .rd a n with
  | .error e => { w with q := .fault e.2 }
  | .ok bs => k { w with reads := (a, n) :: w.reads } (ofBytes (s.readBits ag.core bs))

/-- Test one triangle of a leaf. -/
def State.testTri (s : State) (ag : Agent) (b : Bvh) (r : Ray) (ix : Nat) (w : Walk) : Walk :=
  if b.ntris ≤ ix then { w with q := .error }
  else s.readStep ag w (addrPlus b.tris (48 * ix : Nat)) 48 fun w v =>
    let f (o n : Nat) : Nat := v / 2 ^ (8 * o) % 2 ^ (8 * n)
    let vert (o : Nat) : Option V3 := v3Of (f o 4) (f (o + 4) 4) (f (o + 8) 4)
    if f 0x2C 4 ≠ 0 || f 0x2A 2 / 2 ≠ 0 then { w with q := .error }
    else match vert 0, vert 0x0C, vert 0x18, w.q with
      | some p0, some p1, some p2, .best h =>
        match r.hitsTri p0 p1 p2 with
        | none => w
        | some (t, pos) =>
          let front := pos == Config.rayFront
          if f 0x2A 2 % 2 = 1 && !front then w else { w with q := .best (closer h ⟨t, ix, f 0x24 4, f 0x28 2, front⟩) }
      | some _, some _, some _, _ => w
      | _, _, _, _ => { w with q := .open_ }

/-- The box of child `c` of a node, if its origin is finite. -/
def childBox (f : Nat → Nat → Nat) (c : Nat) : Option (V3 × V3) :=
  (v3Of (f 0 4) (f 4 4) (f 8 4)).map fun o =>
    let at_ (base i : Nat) : Frac := (Frac.ofInt (f (base + 8 * i + c) 1)).shift (signedOf 8 (f (0x0C + i) 1))
    (⟨o.x.add (at_ 0x20 0), o.y.add (at_ 0x20 1), o.z.add (at_ 0x20 2)⟩, ⟨o.x.add (at_ 0x38 0), o.y.add (at_ 0x38 1), o.z.add (at_ 0x38 2)⟩)

/-- Visit a node and what lies under it, children in ascending order; `depth` nodes on a path mean that the walk does
not end. -/
def State.visit (s : State) (ag : Agent) (b : Bvh) (r : Ray) (anyHit : Bool) : Nat → Nat → Walk → Walk
  | 0, _, w => { w with q := .endless }
  | depth + 1, ix, w =>
    if b.nnodes ≤ ix then { w with q := .error }
    else s.readStep ag w (addrPlus b.nodes (128 * ix : Nat)) 128 fun w v =>
      let f (o n : Nat) : Nat := v / 2 ^ (8 * o) % 2 ^ (8 * n)
      if f 0x50 48 ≠ 0 then { w with q := .error }
      else (List.range 8).foldl (fun (w : Walk) c =>
        if w.over anyHit || f 0x0F 1 / 2 ^ c % 2 = 0 then w
        else
          let meta_ := f (0x18 + c) 1
          let leaf : Bool := 128 ≤ meta_
          let o := meta_ / 8 % 16
          if !leaf && meta_ % 8 ≠ 0 then { w with q := .error }
          else match childBox f c with
            | none => { w with q := .open_ }
            | some (lo, hi) =>
              if !r.hitsBox lo hi then w
              else if leaf then
                (List.range (meta_ % 8 + 1)).foldl (fun (w : Walk) j => if w.over anyHit then w else s.testTri ag b r (f 0x14 4 + o + j) w) w
              else s.visit ag b r anyHit depth (f 0x10 4 + o) w) w

/-- A lane's query: the header, then the walk from node 0. -/
def State.query (s : State) (ag : Agent) (o : RayOp) (r : Ray) : Walk :=
  s.readStep ag ⟨[], .best none⟩ o.header.toNat 64 fun w v =>
    let b := bvhOf v
    if b.rest ≠ 0 then { w with q := .error } else s.visit ag b r o.anyHit (b.nnodes + 1) 0 w

/-! ## Rays of a view (R435) -/

/-- A 4 × 4 matrix of exact numbers by row and column. -/
abbrev Mat := Nat → Nat → Frac

/-- The determinant of the 3 × 3 matrix without row `r` and column `c`. -/
def minor (m : Mat) (r c : Nat) : Frac :=
  let ix (k i : Nat) : Nat := if i < k then i else i + 1
  let e (i j : Nat) : Frac := m (ix r i) (ix c j)
  let two (i j k l : Nat) : Frac := ((e i j).mul (e k l)).sub ((e i l).mul (e k j))
  (((e 0 0).mul (two 1 1 2 2)).sub ((e 0 1).mul (two 1 0 2 2))).add ((e 0 2).mul (two 1 0 2 1))

/-- A cofactor. -/
def cofactor (m : Mat) (r c : Nat) : Frac := if (r + c) % 2 = 0 then minor m r c else (minor m r c).neg

def det4 (m : Mat) : Frac := Frac.sum ((List.range 4).map fun j => (m 0 j).mul (cofactor m 0 j))

/-- The point that M⁻¹ maps a point of the view's space to, for M that is not singular; nothing at infinity. -/
def unproject (m : Mat) (x y z : Frac) : Option V3 :=
  let v : List Frac := [x, y, z, Frac.ofInt 1]
  let at_ (i : Nat) : Frac := Frac.sum ((List.range 4).map fun j => (cofactor m j i).mul (v.getD j ⟨0, 1⟩))
  if (at_ 3).isZero then none else some ⟨(at_ 0).div (at_ 3), (at_ 1).div (at_ 3), (at_ 2).div (at_ 3)⟩

/-- The eight words of a ray, with a mark above them: 0 a ray, 1 a lane that misses, 2 values the manual does not
state. -/
def View.rayWords (w : View) (p : Warp) (u v tmin tmax : Nat) : Nat :=
  let m : Mat := fun i j => (decodeF f32 (w.m.getD (4 * i + j) 0).toNat).frac
  let x := (Frac.mk (p.x.pos u) (128 * w.wd)).sub (Frac.ofInt 1)
  let y := (Frac.ofInt 1).sub (Frac.mk (p.y.pos v) (128 * w.hd))
  if w.m.any notFinite then 2 * 2 ^ 256
  else if (det4 m).isZero then 2 ^ 256
  else match unproject m x y (Frac.ofInt 0), unproject m x y (Frac.ofInt 1) with
    | some o, some f =>
      let d := f.sub o
      valueOf ([o.x, o.y, o.z, d.x, d.y, d.z].map toF32) + tmin * 2 ^ 192 + tmax * 2 ^ 224
    | _, _ => 2 * 2 ^ 256

/-! ## Completion -/

/-- The key of a lane's free values. -/
def rayKey (oid lane : Nat) : Nat := 2 ^ 81 + (oid * 64 + lane) * 4

/-- The words of a lane's result, as one value. -/
def RayOp.words (o : RayOp) (l : Nat) (q : Query) : Nat :=
  let free (i : Nat) : Nat := (Config.freeBits 32 (rayKey o.oid l + i)).toNat
  let quad (a b c d : Nat) : Nat := a + b * 2 ^ 32 + c * 2 ^ 64 + d * 2 ^ 96
  match q with
  | .best none => if o.anyHit then 0 else quad f32.infCode (free 1) 0xFFFF (free 3)
  | .best (some h) => if o.anyHit then 1 else quad (toF32 h.t).toNat h.prim (h.shader + if h.front then 65536 else 0) h.ix
  | .error => if o.anyHit then free 0 else quad f32.nan 0xFFFFFFFF (free 2) 0xFFFFFFFF
  | _ => if o.anyHit then free 0 else quad (free 0) (free 1) (free 2) (free 3)

/-- A lane's query. -/
def State.laneQuery (s : State) (g : Group) (o : RayOp) (l : Nat) : Walk :=
  let a := o.args.getD l 0
  if a / 2 ^ 256 = 1 then ⟨[], .best none⟩
  else if a / 2 ^ 256 = 2 then ⟨[], .open_⟩
  else match rayOf a with
    | some r => s.query (s.engineAgent g) o r
    | none => ⟨[], .open_⟩

def State.putRayOp (s : State) (gid : Nat) (o : RayOp) : State :=
  match s.group? gid with
  | some g => s.putGroup { g with rayOps := put RayOp.n o g.rayOps }
  | none => s

/-- Whether an operation is under way for ever: its hierarchy never ends (R435). -/
def State.rayEndless (s : State) (g : Group) (o : RayOp) : Bool := (lanesOf o.mask).any fun l => (s.laneQuery g o l).q = .endless

/-- The contexts whose ray queries a core's ray unit could finish now. -/
def State.raysWaiting (s : State) (core : Nat) : List Nat :=
  ((s.engineGroups core).filter fun g => g.rayOps.any fun o => o.fault.isNone && !s.rayEndless g o).map s.ctxIdOf

/-! ## RAY and RAYQ -/

/-- Whether the ray-query context holds 32 operations (R436). -/
def State.rayFull (s : State) : Bool := s.frag?.any fun f => 32 ≤ f.g.rayOps.length

/-- The ray-query context accepts an operation. -/
def State.acceptRay (s : State) (f : Frag) (m : Marks) (d : Code) (anyHit view : Bool) (header : Nat) (args : List Nat) : Out :=
  let o : RayOp := ⟨f.g.ray.accepted + 1, s.ctl.nextId, anyHit, view, BitVec.ofNat 64 header, args, f.sl.mask, none, false⟩
  let s := s.putGroup { f.g with ray := f.g.ray.accept, rayOps := f.g.rayOps ++ [o] }
  let s := s.engineAccept (coreDie f.g.core) (rayUnit f.g.core) (s.ctxIdOf f.g) true (s.raysWaiting f.g.core)
  .next ((s.resultLater f d (if anyHit then 1 else 4) (perLane fun _ => 0) f.sl.mask 1 .engine).goOn f m)

/-- RAY and RAYQ. The `.view` form waits until the strip of every lane's handle has latched. -/
def rayOut (s : State) (i : Instr) (m : Marks) (d a b : Code) (view anyHit : Bool) : Out :=
  let n := if view then 4 else 8
  if s.rayFull then .next s
  else issue s i m
    (fun f => { role := f.g.role.vectors, srcs := [opnd a n], srcB := some (opnd b 2), dst := some (opnd d (if anyHit then 1 else 4)), late := true }) fun f =>
    let header := f.srcB b 2 f.low
    let ls := lanesOf f.sl.mask
    let word (l k : Nat) : Nat := f.src a n l / 2 ^ (32 * k) % 2 ^ 32
    let hs := s.goodHandles f.g (fun l => word l 0) ls
    if view && s.badHandles f.g (fun l => word l 0) ls ≠ [] then
      trapOut s f m ⟨0x02, 0, 0, maskOf (s.badHandles f.g (fun l => word l 0) ls)⟩
    else if view && hs.any (fun y => (s.warpOf y.2.1 y.2.2.view y.2.2.strip).isNone) then latchOut s f
    else if header % 64 ≠ 0 then trapOut s f m ⟨0x07, 0, header, maskOf [f.low]⟩
    else if apertureOf header ≠ 3 then trapOut s f m ⟨0x0A, 0, header, maskOf [f.low]⟩
    else
      let arg (l : Nat) : Nat :=
        if !view then f.src a n l
        else match hs.find? fun y => y.1 = l with
          | none => 0
          | some (_, fr, h) => match fr.views[h.view]?, s.warpOf fr h.view h.strip with
            | some w, some p => w.rayWords p (sampleU (word l 1)) (sampleV (word l 1)) (word l 2) (word l 3)
            | _, _ => 0
      if s.relBusy f.g then .next s else s.acceptRay f m d anyHit view header (perLane arg)

def execRay (m : Marks) (d a b : Code) (x : Bool) (s : State) : Out := rayOut s (.ray m d a b x) m d a b x false
def execRayq (m : Marks) (d a b : Code) (x : Bool) (s : State) : Out := rayOut s (.rayq m d a b x) m d a b x true

/-- The ray unit carries out an operation: its context has had its turn. -/
def State.startRay (s : State) (g : Group) (op : Nat) : State :=
  s.engineServe (coreDie g.core) (rayUnit g.core) (s.ctxIdOf g)
    ((s.groups.filter fun h => h.core = g.core && s.ctxIdOf h = s.ctxIdOf g).any fun h => h.rayOps.any fun o => !(h.gid = g.gid && o.n = op))

/-- RAY_OP_COMPLETE: every lane's walk has ended; errors are posted, results land, and the counter passes the operation. -/
def execRayOpComplete (gid op : Nat) (s : State) : Out :=
  match s.group? gid with
  | none => .next s
  | some g => match g.rayOps.find? fun o => o.n = op with
    | none => .next s
    | some o =>
      if !s.engineRuns g || o.fault.isSome || !s.engineTurn (coreDie g.core) (rayUnit g.core) (s.ctxIdOf g) (s.raysWaiting g.core) then .next s
      else
        let ws := (lanesOf o.mask).map fun l => (l, s.laneQuery g o l)
        match ws.findSome? fun w => match w.2.q with | .fault a => some a | _ => none with
        | some a => .next ((s.tryVa (s.engineAgent g) .rd a).putRayOp gid { o with fault := some a, repaired := false })
        | none =>
          if ws.any fun w => w.2.q = .endless then .next s
          else
            let s := (ws.flatMap fun w => w.2.reads).dedup.foldl (fun (s : State) r => s.texTouch g r.1 r.2) (s.startRay g op)
            let s := (ws.filter fun w => w.2.q = .error).foldl (fun (s : State) _ => s.engineError (coreDie g.core) (s.ctxIdOf g) 0 3) s
            let s := s.landEngine o.oid (perLane fun l => ((ws.find? fun w => w.1 = l).map fun w => o.words l w.2.q).getD 0)
            let s := match s.group? gid with
              | some g => s.putGroup { g with ray := g.ray.complete op, rayOps := g.rayOps.filter fun x => x.n ≠ op }
              | none => s
            .next (s.engineChoose (coreDie g.core) (rayUnit g.core) (s.raysWaiting g.core))

/-! ## RGRP (R437) -/

/-- An item: key and payload. -/
abbrev Item := Nat × List Word

/-- The empty item. -/
def Item.empty (n : Nat) : Item := (0x10000, List.replicate n 0)

/-- Insert behind the elements of the same key: sorting by it is stable. -/
def insertBy {α : Type} (key : α → Nat) (x : α) : List α → List α
  | [] => [x]
  | y :: ys => if key y ≤ key x then y :: insertBy key x ys else x :: y :: ys

/-- A list sorted stably by a key. -/
def sortBy {α : Type} (key : α → Nat) (xs : List α) : List α := xs.foldl (fun acc x => insertBy key x acc) []

/-- Items sorted stably by key. -/
def sortItems (xs : List Item) : List Item := sortBy (fun x => x.1) xs

/-- How a slot is parked in RGRP, if it is and is not stopped. -/
def Slot.inRgrp (sl : Slot) : Option (Bool × Nat × Nat × Nat) :=
  if sl.stop.isSome then none
  else match sl.park with
    | some (.rgrp ring n key len) => some (ring, n, key, len)
    | _ => none

/-- The slot of a group that is parked in RGRP. -/
def Group.rgrpSlot (g : Group) : Option (Nat × Slot × Bool × Nat × Nat × Nat) :=
  match g.slot0.bind fun sl => sl.inRgrp.map fun r => (0, sl, r) with
  | some x => some x
  | none => g.slot1.bind fun sl => sl.inRgrp.map fun r => (1, sl, r)

/-- The groups of a team in order of GRPID. -/
def State.inOrder (s : State) (tid : Nat) : List Group :=
  let gs := s.groupsOf tid
  (List.range gs.length).filterMap fun i => gs.find? fun g => g.grpId = i

/-- The items that a parked group offers. -/
def Group.items (g : Group) : List Item :=
  match g.rgrpSlot with
  | none => []
  | some (i, sl, _, n, key, _) =>
    let f : Frag := ⟨g, i, sl⟩
    (lanesOf sl.mask).map fun l => ((f.srcWord key l).toNat % 65536, (List.range n).map fun r => g.nLane r l)

/-- The slots of a group's slot set. -/
def Group.slotLanes (g : Group) : List Nat := match g.rgrpSlot with | some (_, sl, _) => lanesOf sl.mask | none => []

/-- Whether every group of a team has arrived, in this form. -/
def State.arrived (s : State) (tid : Nat) (ring : Bool) (n : Nat) : Bool :=
  (s.groupsOf tid).all fun g => match g.rgrpSlot with
    | some (_, _, r, k, _) => r = ring && k = n
    | none => false

/-- A team in the ring: the items it holds and its capacity. -/
structure RingTeam where
  items : List Item
  room : Nat
  deriving DecidableEq, Repr

def keyCount (xs : List Item) (k : Nat) : Nat := (xs.filter fun x => x.1 = k).length

/-- What a team sends to the next in a round: its keys in ascending order. -/
def ringSends (me next : RingTeam) : List Item :=
  (sortBy id (me.items.map (·.1)).dedup).foldl (fun (sent : List Item) k =>
    let mine := me.items.filter fun x => x.1 = k
    if mine.length < 32 && 0 < keyCount next.items k && next.items.length + sent.length + mine.length ≤ next.room then sent ++ mine else sent) []

/-- One round of the exchange: every team sends, then re-sorts with its own items first. -/
def ringRound (ts : List RingTeam) : List RingTeam × Bool :=
  let sends := ts.mapIdx fun i t => ringSends t (ts.getD ((i + 1) % ts.length) ⟨[], 0⟩)
  (ts.mapIdx fun i t =>
    let gone := ((sends.getD i []).map (·.1)).dedup
    let got := sends.getD ((i + ts.length - 1) % ts.length) []
    { t with items := sortItems (t.items.filter (fun x => !gone.contains x.1) ++ got) }, sends.any fun x => x ≠ [])

/-- Stage 2. -/
def ringExchange (ts : List RingTeam) : List RingTeam :=
  if ts.length ≤ 1 then ts
  else
    let (us, moved) := ringRound ts
    if moved then (ringRound us).1 else us

/-- Give a group the items of its slot set: payload in N0 onward, and the slot goes on. The key is the result, long-latency and
pushed only (R81): it issues as the rendezvous ends, and lands when it returns. -/
def State.regroup (s : State) (g : Group) (items : List Item) : State :=
  match g.rgrpSlot with
  | none => s
  | some (i, sl, _, n, _, len) =>
    let lanes := lanesOf sl.mask
    let item (l : Nat) : Item := ((lanes.zip items).find? fun p => p.1 = l).map (·.2) |>.getD (Item.empty n)
    let (oid, s) := s.fresh
    let g := (List.range n).foldl (fun (g : Group) r => g.setN r sl.mask fun l => (item l).2.getD r 0) g
    let g := g.expect i ⟨0, 1⟩ oid
    (s.putGroup { g.release i len with dissolved := true }).addOut
      ⟨oid, g.gid, i, 0, 1, sl.mask, perLane fun l => (item l).1, 0, .alu, sl.pc, false⟩

/-- Place a team's items in the slot sets in order of GRPID and lane; slots left take empty items. -/
def State.placeItems (s : State) (n : Nat) : List Group → List Item → State
  | [], _ => s
  | g :: gs, xs =>
    let k := g.slotLanes.length
    let mine := xs.take k
    (s.regroup g (mine ++ List.replicate (k - mine.length) (Item.empty n))).placeItems n gs (xs.drop k)

/-- The rendezvous is over, if every group that it awaits has arrived. -/
def State.regroupTeam (s : State) (tid : Nat) (ring : Bool) (n : Nat) : State :=
  match s.team? tid with
  | none => s
  | some t =>
    let teams := if ring then s.teams.filter fun u => u.lid = t.lid && u.clusterNo = t.clusterNo else [t]
    let teams := sortBy Team.rank teams
    if !teams.all fun u => s.arrived u.tid ring n then s
    else
      let start := teams.map fun u =>
        let items := sortItems ((s.inOrder u.tid).flatMap Group.items)
        (⟨items, items.length⟩ : RingTeam)
      let fin := if ring then ringExchange start else start
      (teams.zip fin).foldl (fun (s : State) p => s.placeItems n (s.inOrder p.1.tid) p.2.items) s

/-- RGRP: the fragment parks until every group of the team has issued it; the last arrival regroups. -/
def execRgrp (m : Marks) (ring : Bool) (a : Code) (x : BitVec 4) (s : State) : Out :=
  let n := x.toNat + 1
  issue s (.rgrp m ring a x) m
    (fun f => { role := f.g.role.vectors, late := true,
                legal := (Opnd.mk 16 n).inAllot f.g.allot && (f.g.slot? (1 - f.slot)).isNone,
                srcs := [opnd a 1, ⟨16, n⟩] }) fun f =>
    let cluster := (s.launchOf f.g).any fun l => l.clsize ≠ 0
    let clash := (s.groupsOf f.g.tid).any fun h => h.gid ≠ f.g.gid && match h.rgrpSlot with
      | some (_, _, r, k, _) => r ≠ ring || k ≠ n
      | none => false
    if (ring && !cluster) || clash then trapOut s f m ⟨0x02, 0, 0, f.sl.mask⟩
    else .next ((s.park f (.rgrp ring n a.toNat (unitLen m 0))).regroupTeam f.g.tid ring n)

end Sys2Proof.Machine
end

