-- ==== Sys2Proof/Machine/Dispatch.lean ====
section
/-! DEFINITION. The dispatch: one arm per operation or event, each a direct call of its meaning. -/

namespace Sys2Proof.Machine

def exec (i : Instr) (s : State) : Host.Outcome State Fault Refusal :=
  match i with
  | .nop x_m => Sys2Proof.Machine.execNop x_m s
  | .lit x_m x_literal => Sys2Proof.Machine.execLit x_m x_literal s
  | .setmImm x_m x_wm x_v => Sys2Proof.Machine.execSetmImm x_m x_wm x_v s
  | .setmReg x_m x_wm x_a => Sys2Proof.Machine.execSetmReg x_m x_wm x_a s
  | .getm x_m x_d => Sys2Proof.Machine.execGetm x_m x_d s
  | .mov x_m x_d x_a => Sys2Proof.Machine.execMov x_m x_d x_a s
  | .movi x_m x_d x_i => Sys2Proof.Machine.execMovi x_m x_d x_i s
  | .addi x_m x_d x_a x_i => Sys2Proof.Machine.execAddi x_m x_d x_a x_i s
  | .andi x_m x_d x_a x_i => Sys2Proof.Machine.execAndi x_m x_d x_a x_i s
  | .ori x_m x_d x_a x_i => Sys2Proof.Machine.execOri x_m x_d x_a x_i s
  | .xori x_m x_d x_a x_i => Sys2Proof.Machine.execXori x_m x_d x_a x_i s
  | .shli x_m x_d x_a x_i => Sys2Proof.Machine.execShli x_m x_d x_a x_i s
  | .shri x_m x_d x_a x_i => Sys2Proof.Machine.execShri x_m x_d x_a x_i s
  | .cmpi x_m x_c x_k x_a x_i => Sys2Proof.Machine.execCmpi x_m x_c x_k x_a x_i s
  | .add x_m x_d x_a x_b => Sys2Proof.Machine.execAdd x_m x_d x_a x_b s
  | .sub x_m x_d x_a x_b => Sys2Proof.Machine.execSub x_m x_d x_a x_b s
  | .mul x_m x_d x_a x_b => Sys2Proof.Machine.execMul x_m x_d x_a x_b s
  | .mulh x_m x_d x_a x_b => Sys2Proof.Machine.execMulh x_m x_d x_a x_b s
  | .mad x_m x_d x_a x_b x_c => Sys2Proof.Machine.execMad x_m x_d x_a x_b x_c s
  | .div x_m x_d x_a x_b => Sys2Proof.Machine.execDiv x_m x_d x_a x_b s
  | .rem x_m x_d x_a x_b => Sys2Proof.Machine.execRem x_m x_d x_a x_b s
  | .min x_m x_d x_a x_b => Sys2Proof.Machine.execMin x_m x_d x_a x_b s
  | .max x_m x_d x_a x_b => Sys2Proof.Machine.execMax x_m x_d x_a x_b s
  | .abs x_m x_d x_a => Sys2Proof.Machine.execAbs x_m x_d x_a s
  | .neg x_m x_d x_a => Sys2Proof.Machine.execNeg x_m x_d x_a s
  | .cmp x_m x_k x_a x_b x_c => Sys2Proof.Machine.execCmp x_m x_k x_a x_b x_c s
  | .sel x_m x_d x_a x_b x_n x_k => Sys2Proof.Machine.execSel x_m x_d x_a x_b x_n x_k s
  | .cvt x_m x_d x_a x_t => Sys2Proof.Machine.execCvt x_m x_d x_a x_t s
  | .sqrt x_m x_d x_a => Sys2Proof.Machine.execSqrt x_m x_d x_a s
  | .rcp x_m x_d x_a => Sys2Proof.Machine.execRcp x_m x_d x_a s
  | .rsq x_m x_d x_a => Sys2Proof.Machine.execRsq x_m x_d x_a s
  | .exp2 x_m x_d x_a => Sys2Proof.Machine.execExp2 x_m x_d x_a s
  | .log2 x_m x_d x_a => Sys2Proof.Machine.execLog2 x_m x_d x_a s
  | .sin x_m x_d x_a => Sys2Proof.Machine.execSin x_m x_d x_a s
  | .cos x_m x_d x_a => Sys2Proof.Machine.execCos x_m x_d x_a s
  | .flr x_m x_d x_a => Sys2Proof.Machine.execFlr x_m x_d x_a s
  | .cel x_m x_d x_a => Sys2Proof.Machine.execCel x_m x_d x_a s
  | .rnd x_m x_d x_a => Sys2Proof.Machine.execRnd x_m x_d x_a s
  | .frc x_m x_d x_a => Sys2Proof.Machine.execFrc x_m x_d x_a s
  | .classOp x_m x_d x_a => Sys2Proof.Machine.execClassOp x_m x_d x_a s
  | .lea x_m x_d x_a x_b x_x => Sys2Proof.Machine.execLea x_m x_d x_a x_b x_x s
  | .and x_m x_d x_a x_b => Sys2Proof.Machine.execAnd x_m x_d x_a x_b s
  | .andn x_m x_d x_a x_b => Sys2Proof.Machine.execAndn x_m x_d x_a x_b s
  | .or x_m x_d x_a x_b => Sys2Proof.Machine.execOr x_m x_d x_a x_b s
  | .xor x_m x_d x_a x_b => Sys2Proof.Machine.execXor x_m x_d x_a x_b s
  | .shl x_m x_d x_a x_b => Sys2Proof.Machine.execShl x_m x_d x_a x_b s
  | .shr x_m x_d x_a x_b => Sys2Proof.Machine.execShr x_m x_d x_a x_b s
  | .sar x_m x_d x_a x_b => Sys2Proof.Machine.execSar x_m x_d x_a x_b s
  | .rol x_m x_d x_a x_b => Sys2Proof.Machine.execRol x_m x_d x_a x_b s
  | .fnl x_m x_d x_a x_b x_c => Sys2Proof.Machine.execFnl x_m x_d x_a x_b x_c s
  | .fnr x_m x_d x_a x_b x_c => Sys2Proof.Machine.execFnr x_m x_d x_a x_b x_c s
  | .bfx x_m x_d x_a x_b => Sys2Proof.Machine.execBfx x_m x_d x_a x_b s
  | .bfxs x_m x_d x_a x_b => Sys2Proof.Machine.execBfxs x_m x_d x_a x_b s
  | .bfi x_m x_d x_a x_b x_c => Sys2Proof.Machine.execBfi x_m x_d x_a x_b x_c s
  | .bfis x_m x_d x_a x_b x_c => Sys2Proof.Machine.execBfis x_m x_d x_a x_b x_c s
  | .popc x_m x_d x_a => Sys2Proof.Machine.execPopc x_m x_d x_a s
  | .clz x_m x_d x_a => Sys2Proof.Machine.execClz x_m x_d x_a s
  | .ctz x_m x_d x_a => Sys2Proof.Machine.execCtz x_m x_d x_a s
  | .brev x_m x_d x_a => Sys2Proof.Machine.execBrev x_m x_d x_a s
  | .pack2 x_m x_d x_a x_b => Sys2Proof.Machine.execPack2 x_m x_d x_a x_b s
  | .unpk x_m x_d x_a x_x => Sys2Proof.Machine.execUnpk x_m x_d x_a x_x s
  | .kand x_m x_k x_a x_b => Sys2Proof.Machine.execKand x_m x_k x_a x_b s
  | .kor x_m x_k x_a x_b => Sys2Proof.Machine.execKor x_m x_k x_a x_b s
  | .kxor x_m x_k x_a x_b => Sys2Proof.Machine.execKxor x_m x_k x_a x_b s
  | .knot x_m x_k x_a => Sys2Proof.Machine.execKnot x_m x_k x_a s
  | .kmov x_m x_k x_a => Sys2Proof.Machine.execKmov x_m x_k x_a s
  | .vote x_m x_d x_a => Sys2Proof.Machine.execVote x_m x_d x_a s
  | .kany x_m x_k x_a => Sys2Proof.Machine.execKany x_m x_k x_a s
  | .kall x_m x_k x_a => Sys2Proof.Machine.execKall x_m x_k x_a s
  | .xrot x_m x_d x_a x_b => Sys2Proof.Machine.execXrot x_m x_d x_a x_b s
  | .xxor x_m x_d x_a x_b => Sys2Proof.Machine.execXxor x_m x_d x_a x_b s
  | .xbc x_m x_d x_a x_b => Sys2Proof.Machine.execXbc x_m x_d x_a x_b s
  | .xred x_m x_d x_a x_x => Sys2Proof.Machine.execXred x_m x_d x_a x_x s
  | .xscan x_m x_d x_a x_e x_x => Sys2Proof.Machine.execXscan x_m x_d x_a x_e x_x s
  | .qswpx x_m x_d x_a => Sys2Proof.Machine.execQswpx x_m x_d x_a s
  | .qswpy x_m x_d x_a => Sys2Proof.Machine.execQswpy x_m x_d x_a s
  | .qswpd x_m x_d x_a => Sys2Proof.Machine.execQswpd x_m x_d x_a s
  | .qbcst x_m x_d x_a x_x => Sys2Proof.Machine.execQbcst x_m x_d x_a x_x s
  | .ddx x_m x_d x_a x_x => Sys2Proof.Machine.execDdx x_m x_d x_a x_x s
  | .ddy x_m x_d x_a x_x => Sys2Proof.Machine.execDdy x_m x_d x_a x_x s
  | .bra x_m x_n x_k x_i => Sys2Proof.Machine.execBra x_m x_n x_k x_i s
  | .brk x_m x_n x_k x_i x_jw => Sys2Proof.Machine.execBrk x_m x_n x_k x_i x_jw s
  | .join x_m => Sys2Proof.Machine.execJoin x_m s
  | .call x_m x_n x_k x_i => Sys2Proof.Machine.execCall x_m x_n x_k x_i s
  | .ret x_m => Sys2Proof.Machine.execRet x_m s
  | .jmpi x_m x_a => Sys2Proof.Machine.execJmpi x_m x_a s
  | .yield x_m => Sys2Proof.Machine.execYield x_m s
  | .exit x_m => Sys2Proof.Machine.execExit x_m s
  | .grow x_m x_x => Sys2Proof.Machine.execGrow x_m x_x s
  | .trap x_m x_i => Sys2Proof.Machine.execTrap x_m x_i s
  | .mfs x_m x_d x_i => Sys2Proof.Machine.execMfs x_m x_d x_i s
  | .mts x_m x_a x_i => Sys2Proof.Machine.execMts x_m x_a x_i s
  | .eret x_m => Sys2Proof.Machine.execEret x_m s
  | .halt x_m => Sys2Proof.Machine.execHalt x_m s
  | .cinv x_m x_a x_b x_x => Sys2Proof.Machine.execCinv x_m x_a x_b x_x s
  | .cwb x_m x_a x_b x_x => Sys2Proof.Machine.execCwb x_m x_a x_b x_x s
  | .tlbi x_m x_a x_b x_x => Sys2Proof.Machine.execTlbi x_m x_a x_b x_x s
  | .rgrel x_m x_a => Sys2Proof.Machine.execRgrel x_m x_a s
  | .ld8 x_m x_d x_a x_i => Sys2Proof.Machine.execLd8 x_m x_d x_a x_i s
  | .ld8s x_m x_d x_a x_i => Sys2Proof.Machine.execLd8s x_m x_d x_a x_i s
  | .ld16 x_m x_d x_a x_i => Sys2Proof.Machine.execLd16 x_m x_d x_a x_i s
  | .ld16s x_m x_d x_a x_i => Sys2Proof.Machine.execLd16s x_m x_d x_a x_i s
  | .ld32 x_m x_d x_a x_i => Sys2Proof.Machine.execLd32 x_m x_d x_a x_i s
  | .ld64 x_m x_d x_a x_i => Sys2Proof.Machine.execLd64 x_m x_d x_a x_i s
  | .ld128 x_m x_d x_a x_i => Sys2Proof.Machine.execLd128 x_m x_d x_a x_i s
  | .st8 x_m x_d x_a x_i => Sys2Proof.Machine.execSt8 x_m x_d x_a x_i s
  | .st16 x_m x_d x_a x_i => Sys2Proof.Machine.execSt16 x_m x_d x_a x_i s
  | .st32 x_m x_d x_a x_i => Sys2Proof.Machine.execSt32 x_m x_d x_a x_i s
  | .st64 x_m x_d x_a x_i => Sys2Proof.Machine.execSt64 x_m x_d x_a x_i s
  | .st128 x_m x_d x_a x_i => Sys2Proof.Machine.execSt128 x_m x_d x_a x_i s
  | .ldacq x_m x_d x_a x_b x_x => Sys2Proof.Machine.execLdacq x_m x_d x_a x_b x_x s
  | .strel x_m x_d x_a x_b x_x => Sys2Proof.Machine.execStrel x_m x_d x_a x_b x_x s
  | .fence x_m x_b x_x => Sys2Proof.Machine.execFence x_m x_b x_x s
  | .acvt x_m x_d x_a x_x => Sys2Proof.Machine.execAcvt x_m x_d x_a x_x s
  | .atst x_m x_k x_a x_x => Sys2Proof.Machine.execAtst x_m x_k x_a x_x s
  | .aadd x_m x_d x_a x_b => Sys2Proof.Machine.execAadd x_m x_d x_a x_b s
  | .amin x_m x_d x_a x_b => Sys2Proof.Machine.execAmin x_m x_d x_a x_b s
  | .aminU x_m x_d x_a x_b => Sys2Proof.Machine.execAminU x_m x_d x_a x_b s
  | .amax x_m x_d x_a x_b => Sys2Proof.Machine.execAmax x_m x_d x_a x_b s
  | .amaxU x_m x_d x_a x_b => Sys2Proof.Machine.execAmaxU x_m x_d x_a x_b s
  | .aand x_m x_d x_a x_b => Sys2Proof.Machine.execAand x_m x_d x_a x_b s
  | .aor x_m x_d x_a x_b => Sys2Proof.Machine.execAor x_m x_d x_a x_b s
  | .axor x_m x_d x_a x_b => Sys2Proof.Machine.execAxor x_m x_d x_a x_b s
  | .axch x_m x_d x_a x_b => Sys2Proof.Machine.execAxch x_m x_d x_a x_b s
  | .amax64 x_m x_d x_a x_b => Sys2Proof.Machine.execAmax64 x_m x_d x_a x_b s
  | .acas x_m x_d x_a x_b x_c => Sys2Proof.Machine.execAcas x_m x_d x_a x_b x_c s
  | .bari x_m x_a x_i => Sys2Proof.Machine.execBari x_m x_a x_i s
  | .bara x_m x_i => Sys2Proof.Machine.execBara x_m x_i s
  | .barw x_m x_i => Sys2Proof.Machine.execBarw x_m x_i s
  | .barx x_m x_a x_i => Sys2Proof.Machine.execBarx x_m x_a x_i s
  | .srpost x_m x_a x_q => Sys2Proof.Machine.execSrpost x_m x_a x_q s
  | .srtake x_m x_d x_q => Sys2Proof.Machine.execSrtake x_m x_d x_q s
  | .srwait x_m x_q => Sys2Proof.Machine.execSrwait x_m x_q s
  | .waitc x_m x_a x_b x_c => Sys2Proof.Machine.execWaitc x_m x_a x_b x_c s
  | .tlwait x_m x_a x_b x_x => Sys2Proof.Machine.execTlwait x_m x_a x_b x_x s
  | .tlread x_m x_d x_b x_x => Sys2Proof.Machine.execTlread x_m x_d x_b x_x s
  | .madd x_m x_d x_a x_b x_n x_z => Sys2Proof.Machine.execMadd x_m x_d x_a x_b x_n x_z s
  | .mmin x_m x_d x_a x_b x_n x_u x_z => Sys2Proof.Machine.execMmin x_m x_d x_a x_b x_n x_u x_z s
  | .mmax x_m x_d x_a x_b x_n x_u x_z => Sys2Proof.Machine.execMmax x_m x_d x_a x_b x_n x_u x_z s
  | .mand x_m x_d x_a x_b x_n x_z => Sys2Proof.Machine.execMand x_m x_d x_a x_b x_n x_z s
  | .mor x_m x_d x_a x_b x_n x_z => Sys2Proof.Machine.execMor x_m x_d x_a x_b x_n x_z s
  | .mxor x_m x_d x_a x_b x_n x_z => Sys2Proof.Machine.execMxor x_m x_d x_a x_b x_n x_z s
  | .mxch x_m x_d x_a x_b x_n x_z => Sys2Proof.Machine.execMxch x_m x_d x_a x_b x_n x_z s
  | .mcas x_m x_d x_a x_b x_c => Sys2Proof.Machine.execMcas x_m x_d x_a x_b x_c s
  | .mfcs x_m x_d x_a => Sys2Proof.Machine.execMfcs x_m x_d x_a s
  | .mbim x_m x_d x_a x_b x_c => Sys2Proof.Machine.execMbim x_m x_d x_a x_b x_c s
  | .mpls x_m x_d x_a x_b x_c => Sys2Proof.Machine.execMpls x_m x_d x_a x_b x_c s
  | .mcas64 x_m x_d x_a x_b x_c => Sys2Proof.Machine.execMcas64 x_m x_d x_a x_b x_c s
  | .qenq x_m x_d x_a x_b => Sys2Proof.Machine.execQenq x_m x_d x_a x_b s
  | .qdeq x_m x_d x_a x_b => Sys2Proof.Machine.execQdeq x_m x_d x_a x_b s
  | .qpost x_m x_d x_a x_b x_f => Sys2Proof.Machine.execQpost x_m x_d x_a x_b x_f s
  | .tkget x_m x_d x_a x_b => Sys2Proof.Machine.execTkget x_m x_d x_a x_b s
  | .tkdone x_m x_d x_a => Sys2Proof.Machine.execTkdone x_m x_d x_a s
  | .tkarm x_m x_d x_a x_b x_x => Sys2Proof.Machine.execTkarm x_m x_d x_a x_b x_x s
  | .tkpost x_m x_d x_a x_n => Sys2Proof.Machine.execTkpost x_m x_d x_a x_n s
  | .cpy x_m x_d x_a x_x => Sys2Proof.Machine.execCpy x_m x_d x_a x_x s
  | .cpym x_m x_d x_a x_x => Sys2Proof.Machine.execCpym x_m x_d x_a x_x s
  | .cpys x_m x_d x_a x_x => Sys2Proof.Machine.execCpys x_m x_d x_a x_x s
  | .cpyt x_m x_d x_a x_x => Sys2Proof.Machine.execCpyt x_m x_d x_a x_x s
  | .cpyg x_m x_d x_a x_f x_x => Sys2Proof.Machine.execCpyg x_m x_d x_a x_f x_x s
  | .cpyx x_m x_d x_a x_f x_x => Sys2Proof.Machine.execCpyx x_m x_d x_a x_f x_x s
  | .cbmrd x_m x_d x_a => Sys2Proof.Machine.execCbmrd x_m x_d x_a s
  | .gang x_m x_a x_x => Sys2Proof.Machine.execGang x_m x_a x_x s
  | .mma x_m x_t x_a x_b x_x => Sys2Proof.Machine.execMma x_m x_t x_a x_b x_x s
  | .mmaz x_m x_t x_a x_b x_x => Sys2Proof.Machine.execMmaz x_m x_t x_a x_b x_x s
  | .accld x_m x_t x_a x_x => Sys2Proof.Machine.execAccld x_m x_t x_a x_x s
  | .accst x_m x_t x_a x_x => Sys2Proof.Machine.execAccst x_m x_t x_a x_x s
  | .accrd x_m x_d x_t x_w x_x => Sys2Proof.Machine.execAccrd x_m x_d x_t x_w x_x s
  | .mburst x_m x_x => Sys2Proof.Machine.execMburst x_m x_x s
  | .mfree x_m x_t => Sys2Proof.Machine.execMfree x_m x_t s
  | .fcvt x_m x_d x_a x_r x_x => Sys2Proof.Machine.execFcvt x_m x_d x_a x_r x_x s
  | .tex x_m x_d x_a x_b x_x => Sys2Proof.Machine.execTex x_m x_d x_a x_b x_x s
  | .texg x_m x_d x_a x_b x_x => Sys2Proof.Machine.execTexg x_m x_d x_a x_b x_x s
  | .emitv x_m x_a x_b x_x => Sys2Proof.Machine.execEmitv x_m x_a x_b x_x s
  | .emitp x_m x_a x_b => Sys2Proof.Machine.execEmitp x_m x_a x_b s
  | .fbrd x_m x_d x_a x_b x_x => Sys2Proof.Machine.execFbrd x_m x_d x_a x_b x_x s
  | .fbwr x_m x_d x_a x_b x_x => Sys2Proof.Machine.execFbwr x_m x_d x_a x_b x_x s
  | .tret x_m x_d x_a => Sys2Proof.Machine.execTret x_m x_d x_a s
  | .late x_m x_d x_a => Sys2Proof.Machine.execLate x_m x_d x_a s
  | .ray x_m x_d x_a x_b x_x => Sys2Proof.Machine.execRay x_m x_d x_a x_b x_x s
  | .rayq x_m x_d x_a x_b x_x => Sys2Proof.Machine.execRayq x_m x_d x_a x_b x_x s
  | .rgrp x_m x_f x_a x_x => Sys2Proof.Machine.execRgrp x_m x_f x_a x_x s
  | .egrs x_m x_d x_a x_b x_x => Sys2Proof.Machine.execEgrs x_m x_d x_a x_b x_x s
  | .longLatencyResultReturn x_oid => Sys2Proof.Machine.execLongLatencyResultReturn x_oid s
  | .farAtomicPerform x_rid => Sys2Proof.Machine.execFarAtomicPerform x_rid s
  | .requestCombine x_held x_entering => Sys2Proof.Machine.execRequestCombine x_held x_entering s
  | .combiningStageExit x_rid => Sys2Proof.Machine.execCombiningStageExit x_rid s
  | .replySplit x_wid => Sys2Proof.Machine.execReplySplit x_wid s
  | .homeFaultReplay x_rid => Sys2Proof.Machine.execHomeFaultReplay x_rid s
  | .pageWalkComplete x_unit x_asid x_va => Sys2Proof.Machine.execPageWalkComplete x_unit x_asid x_va s
  | .shootdownComplete x_sid => Sys2Proof.Machine.execShootdownComplete x_sid s
  | .waitcWatchFire x_gid x_slot => Sys2Proof.Machine.execWaitcWatchFire x_gid x_slot s
  | .waitcPoll x_gid x_slot => Sys2Proof.Machine.execWaitcPoll x_gid x_slot s
  | .growGrant x_gid => Sys2Proof.Machine.execGrowGrant x_gid s
  | .ldcapWindowEnd x_core => Sys2Proof.Machine.execLdcapWindowEnd x_core s
  | .preemptRequest x_tid => Sys2Proof.Machine.execPreemptRequest x_tid s
  | .teamSave x_tid => Sys2Proof.Machine.execTeamSave x_tid s
  | .preemptTimeout x_tid => Sys2Proof.Machine.execPreemptTimeout x_tid s
  | .teamResume x_tid => Sys2Proof.Machine.execTeamResume x_tid s
  | .harvestRevoke x_tid => Sys2Proof.Machine.execHarvestRevoke x_tid s
  | .harvestResume x_tid => Sys2Proof.Machine.execHarvestResume x_tid s
  | .firmwareTrapResume x_gid => Sys2Proof.Machine.execFirmwareTrapResume x_gid s
  | .groupRestart x_gid => Sys2Proof.Machine.execGroupRestart x_gid s
  | .taskFaultRepost x_gid => Sys2Proof.Machine.execTaskFaultRepost x_gid s
  | .accOwnerSpill x_gid => Sys2Proof.Machine.execAccOwnerSpill x_gid s
  | .wakeEvent x_die => Sys2Proof.Machine.execWakeEvent x_die s
  | .queueNotify x_qid => Sys2Proof.Machine.execQueueNotify x_qid s
  | .packetSlotWatch x_qid => Sys2Proof.Machine.execPacketSlotWatch x_qid s
  | .scannerRescan x_die => Sys2Proof.Machine.execScannerRescan x_die s
  | .nopPacket x_qid => Sys2Proof.Machine.execNopPacket x_qid s
  | .dispatch x_qid => Sys2Proof.Machine.execDispatch x_qid s
  | .frame x_qid => Sys2Proof.Machine.execFrame x_qid s
  | .barrierAnd x_qid => Sys2Proof.Machine.execBarrierAnd x_qid s
  | .barrierAndSatisfied x_qid => Sys2Proof.Machine.execBarrierAndSatisfied x_qid s
  | .indirect x_qid => Sys2Proof.Machine.execIndirect x_qid s
  | .timelineWait x_qid => Sys2Proof.Machine.execTimelineWait x_qid s
  | .timelineWaitSatisfied x_qid => Sys2Proof.Machine.execTimelineWaitSatisfied x_qid s
  | .taskPool x_qid => Sys2Proof.Machine.execTaskPool x_qid s
  | .gaze x_qid => Sys2Proof.Machine.execGaze x_qid s
  | .cacheClass x_qid => Sys2Proof.Machine.execCacheClass x_qid s
  | .teamPlace x_lid => Sys2Proof.Machine.execTeamPlace x_lid s
  | .launchComplete x_lid => Sys2Proof.Machine.execLaunchComplete x_lid s
  | .contextTeardown x_ctxid => Sys2Proof.Machine.execContextTeardown x_ctxid s
  | .tkgetWake x_gid x_slot => Sys2Proof.Machine.execTkgetWake x_gid x_slot s
  | .taskEnqueueRetry x_oid => Sys2Proof.Machine.execTaskEnqueueRetry x_oid s
  | .beaterBatch x_pad x_off => Sys2Proof.Machine.execBeaterBatch x_pad x_off s
  | .beaterAgeTimeout x_pad x_off => Sys2Proof.Machine.execBeaterAgeTimeout x_pad x_off s
  | .copyPieceDelivery x_gid x_op x_piece => Sys2Proof.Machine.execCopyPieceDelivery x_gid x_op x_piece s
  | .copyOpComplete x_gid x_op => Sys2Proof.Machine.execCopyOpComplete x_gid x_op s
  | .engineFault x_src => Sys2Proof.Machine.execEngineFault x_src s
  | .engineFaultResume x_src => Sys2Proof.Machine.execEngineFaultResume x_src s
  | .gangOpComplete x_gang x_op => Sys2Proof.Machine.execGangOpComplete x_gang x_op s
  | .arrayIdleRampdown x_cluster x_array => Sys2Proof.Machine.execArrayIdleRampdown x_cluster x_array s
  | .mburstHoldExpiry x_cluster x_array => Sys2Proof.Machine.execMburstHoldExpiry x_cluster x_array s
  | .stripLatch x_frame x_view x_strip => Sys2Proof.Machine.execStripLatch x_frame x_view x_strip s
  | .amplifierProject x_frame x_prim => Sys2Proof.Machine.execAmplifierProject x_frame x_prim s
  | .rasteriseTriangle x_frame x_tri x_strip x_tile => Sys2Proof.Machine.execRasteriseTriangle x_frame x_tri x_strip x_tile s
  | .stripEndEntries x_frame x_strip => Sys2Proof.Machine.execStripEndEntries x_frame x_strip s
  | .tileAreaOpen x_frame x_view x_tile => Sys2Proof.Machine.execTileAreaOpen x_frame x_view x_tile s
  | .fbwrRetire x_frame x_view x_tile => Sys2Proof.Machine.execFbwrRetire x_frame x_view x_tile s
  | .tretComplete x_oid => Sys2Proof.Machine.execTretComplete x_oid s
  | .samplerOpComplete x_gid x_op => Sys2Proof.Machine.execSamplerOpComplete x_gid x_op s
  | .rayOpComplete x_gid x_op => Sys2Proof.Machine.execRayOpComplete x_gid x_op s
  | .egressArrival x_ctxid x_stream x_op => Sys2Proof.Machine.execEgressArrival x_ctxid x_stream x_op s
  | .deadlineRule x_frame x_view x_strip => Sys2Proof.Machine.execDeadlineRule x_frame x_view x_strip s
  | .frameComplete x_frame => Sys2Proof.Machine.execFrameComplete x_frame s
  | .linkTrain x_port x_comb x_module x_reach => Sys2Proof.Machine.execLinkTrain x_port x_comb x_module x_reach s
  | .hostMemoryWrite x_pa x_bytes => Sys2Proof.Machine.execHostMemoryWrite x_pa x_bytes s
  | .hostMemoryRead x_pa x_n => Sys2Proof.Machine.execHostMemoryRead x_pa x_n s
  | .eqdropRead => Sys2Proof.Machine.execEqdropRead s
  | .hostRegisterWrite x_off x_val => Sys2Proof.Machine.execHostRegisterWrite x_off x_val s
  | .eventQueuedWrite => Sys2Proof.Machine.execEventQueuedWrite s
  | .eventTake x_die => Sys2Proof.Machine.execEventTake x_die s
  | .bootGo => Sys2Proof.Machine.execBootGo s
  | .bootFetchComplete x_die => Sys2Proof.Machine.execBootFetchComplete x_die s
  | .createContext => Sys2Proof.Machine.execCreateContext s
  | .destroyContext => Sys2Proof.Machine.execDestroyContext s
  | .createQueue => Sys2Proof.Machine.execCreateQueue s
  | .destroyQueue => Sys2Proof.Machine.execDestroyQueue s
  | .enableQueue => Sys2Proof.Machine.execEnableQueue s
  | .faultReply => Sys2Proof.Machine.execFaultReply s
  | .invalidate => Sys2Proof.Machine.execInvalidate s
  | .attest => Sys2Proof.Machine.execAttest s
  | .reset => Sys2Proof.Machine.execReset s
  | .powerWindowEnd x_milliwatts0 x_milliwatts1 x_moduleMilliwatts => Sys2Proof.Machine.execPowerWindowEnd x_milliwatts0 x_milliwatts1 x_moduleMilliwatts s
  | .thermalSample x_die x_decidegrees => Sys2Proof.Machine.execThermalSample x_die x_decidegrees s
  | .notAnInstruction x_w => Sys2Proof.Machine.execNotAnInstruction x_w s
  | .instructionFetchFault x_addr => Sys2Proof.Machine.execInstructionFetchFault x_addr s
  | .unknownPacketOpcode x_qid => Sys2Proof.Machine.execUnknownPacketOpcode x_qid s
  | .unknownMailboxOp => Sys2Proof.Machine.execUnknownMailboxOp s
  | .requestFromAnotherModule x_req => Sys2Proof.Machine.execRequestFromAnotherModule x_req s
  | .remoteHomeInvalidation x_module x_pa => Sys2Proof.Machine.execRemoteHomeInvalidation x_module x_pa s

end Sys2Proof.Machine
end

