-- ==== Sys2Proof/Machine/Due.lean ====
section
/-! DEFINITION. The events of the part that may be due: what the default turn tries where no fragment would issue (log 1). -/

namespace Sys2Proof.Machine

/-- Of a result under way. -/
def Outst.due (r : Outst) : List Instr := [.longLatencyResultReturn r.oid, .taskEnqueueRetry r.oid, .tretComplete r.oid]

/-- Of a request in the network. -/
def Req.due (r : Req) : List Instr := [.combiningStageExit r.rid, .farAtomicPerform r.rid, .homeFaultReplay r.rid]

/-- Of a group: its waits, its trap, its engine operations and what holds them. -/
def Group.due (g : Group) : List Instr :=
  [.waitcWatchFire g.gid 0, .waitcWatchFire g.gid 1, .tkgetWake g.gid 0, .tkgetWake g.gid 1, .growGrant g.gid, .firmwareTrapResume g.gid,
   .groupRestart g.gid, .taskFaultRepost g.gid, .accOwnerSpill g.gid] ++
  g.copyOps.flatMap (fun o => o.todo.map (Instr.copyPieceDelivery g.gid o.n) ++ [.copyOpComplete g.gid o.n]) ++
  g.sampOps.map (fun o => Instr.samplerOpComplete g.gid o.n) ++ g.rayOps.map (fun o => Instr.rayOpComplete g.gid o.n)

/-- The engine operations of a group, by which a fault and its repair are named. -/
def Group.sources (g : Group) : List EngineSource :=
  g.copyOps.map (fun o => EngineSource.copy g.gid o.n) ++ g.sampOps.map (fun o => EngineSource.sampler g.gid o.n) ++
  g.rayOps.map (fun o => EngineSource.ray g.gid o.n)

/-- Of a context's egress streams. -/
def Ctx.due (c : Ctx) : List Instr :=
  .contextTeardown c.ctxid :: (List.range c.streams.length).flatMap fun i => match c.streams[i]? with
    | some x => x.ops.map fun o => Instr.egressArrival c.ctxid i o.n
    | none => []

def Ctx.sources (c : Ctx) : List EngineSource :=
  (List.range c.streams.length).flatMap fun i => match c.streams[i]? with
    | some x => x.ops.map fun o => EngineSource.egress c.ctxid i o.n
    | none => []

/-- Of a queue. -/
def Queue.due (q : Queue) : List Instr :=
  [.queueNotify q.qid, .packetSlotWatch q.qid, .nopPacket q.qid, .dispatch q.qid, .frame q.qid, .barrierAnd q.qid, .barrierAndSatisfied q.qid,
   .indirect q.qid, .timelineWait q.qid, .timelineWaitSatisfied q.qid, .taskPool q.qid, .gaze q.qid, .cacheClass q.qid, .unknownPacketOpcode q.qid]

/-- Of a view of a frame: strips, tiles. -/
def View.due (w : View) (fid v : Nat) : List Instr :=
  (List.range w.nstrips).flatMap (fun k => [Instr.stripLatch fid v k, .deadlineRule fid v k]) ++
  (List.range w.tiles).flatMap fun t => [Instr.tileAreaOpen fid v t, .fbwrRetire fid v t]

/-- Of a triangle of a frame: a (strip, tile) of its view. -/
def Tri.due (t : Tri) (w : View) (fid : Nat) : List Instr :=
  (List.range w.nstrips).flatMap fun k => (List.range w.tiles).map fun i => Instr.rasteriseTriangle fid t.trid k i

/-- Of a frame. -/
def Frame.due (fr : Frame) : List Instr :=
  (List.range fr.views.length).flatMap (fun v => match fr.views[v]? with | some w => w.due fr.fid v | none => []) ++
  fr.prims.map (fun p => Instr.amplifierProject fr.fid p.pid) ++
  fr.tris.flatMap (fun t => match fr.views[t.view]? with | some w => t.due w fr.fid | none => []) ++
  (List.range 8).map (fun k => Instr.stripEndEntries fr.fid k) ++ [.frameComplete fr.fid]

/-- Of the host attachment. -/
def hostDue : List Instr :=
  [.eventTake 0, .eventTake 1, .eventQueuedWrite, .bootFetchComplete 0, .bootFetchComplete 1, .createContext, .destroyContext, .createQueue,
   .destroyQueue, .enableQueue, .faultReply, .invalidate, .attest, .unknownMailboxOp]

/-- What an engine's fault may hold. -/
def State.sources (s : State) : List EngineSource :=
  s.groups.flatMap Group.sources ++ s.contexts.flatMap Ctx.sources ++
  s.frames.flatMap (fun fr => EngineSource.raster fr.fid :: (List.range fr.views.length).map (EngineSource.selvedge fr.fid)) ++
  s.launches.map (fun l => EngineSource.launch l.lid) ++ s.queues.map (fun q => EngineSource.packet q.qid) ++
  s.clusters.flatMap fun c => c.shadows.map fun x => EngineSource.beater x.pad x.off

/-- Events of the part that may be due, in a fixed order. -/
def State.dueEvents (s : State) : List Instr :=
  s.outs.flatMap Outst.due ++ s.net.waits.map (fun w => Instr.replySplit w.wid) ++ s.net.requests.flatMap Req.due ++
  s.msys.shootdowns.map (fun d => Instr.shootdownComplete d.sid) ++ s.groups.flatMap Group.due ++
  s.gangs.flatMap (fun x => x.ops.map fun o => Instr.gangOpComplete x.gid o.k) ++ s.contexts.flatMap Ctx.due ++ s.queues.flatMap Queue.due ++
  s.teams.flatMap (fun t => [Instr.teamSave t.tid, .teamResume t.tid, .preemptRequest t.tid, .preemptTimeout t.tid, .harvestRevoke t.tid,
    .harvestResume t.tid]) ++
  s.launches.flatMap (fun l => [Instr.teamPlace l.lid, .launchComplete l.lid]) ++ s.frames.flatMap Frame.due ++
  s.sources.flatMap (fun x => [Instr.engineFault x, .engineFaultResume x]) ++
  s.clusters.flatMap (fun c => c.shadows.flatMap fun x => [Instr.beaterBatch x.pad x.off, .beaterAgeTimeout x.pad x.off]) ++
  (s.groups.map (·.core)).dedup.map Instr.ldcapWindowEnd ++
  (if s.host.bootgo then [.bootGo] else []) ++ hostDue

end Sys2Proof.Machine
end

