-- ==== Sys2Proof/Machine/Scheduler.lean ====
section
/-! DEFINITION. Turns (log 1): the instruction that a fragment's turn fetches and runs (R33, R39), whose turn an issue slot may give
(R84, R88, R90, R163), the passing of cycles (R4, R392, R429, R451), and the turn that is taken where the agenda names none. -/

namespace Sys2Proof.Machine

/-! ## Fetching and running (R33, R55) -/

/-- The turn is a slot's. -/
def State.at (s : State) (gid slot : Nat) : State := s.setCtl { s.ctl with gid := gid, slot := slot }

/-- The instruction at the PC of the fragment whose turn it is: a word that faults or decodes to nothing is the pseudo-instruction
that takes the trap. -/
def State.fetch (s : State) (f : Frag) : Instr :=
  let pc := f.sl.pc.toNat
  match s.fetchWord f.g pc with
  | .error _ => .instructionFetchFault f.sl.pc
  | .ok w =>
    if takesExt (opOf w) then
      match s.fetchWord f.g (pc + 4) with
      | .error _ => .instructionFetchFault (f.sl.pc + 4)
      | .ok x => match decodeWord w x with
        | .ok i => i
        | .error _ => .notAnInstruction w
    else match decodeWord w 0 with
      | .ok i => i
      | .error _ => .notAnInstruction w

/-- The fetch of the instruction at a fragment's PC, as the fabric sees it. -/
def State.touchCode (s : State) (f : Frag) : State :=
  let pc := f.sl.pc.toNat
  match s.fetchWord f.g pc with
  | .ok w => if takesExt (opOf w) then (s.touchWord f.g pc).touchWord f.g (pc + 4) else s.touchWord f.g pc
  | .error _ => s.touchWord f.g pc

/-- The state in which the fragment whose turn it is runs. -/
def State.fetched (s : State) : State :=
  match s.frag? with
  | none => s
  | some f => s.touchCode f

/-- Run the fragment whose turn it is; nothing happens where there is none. -/
def State.run (s : State) : Host.Outcome State Fault Refusal :=
  match s.frag? with
  | none => .next s
  | some f => exec (s.fetch f) s.fetched

/-! ## Who gets an issue opportunity (R84, R88, R90, R163) -/

/-- Whether a slot of a group would issue now: its turn would do more than fetch. -/
def State.readyAt (s : State) (gid slot : Nat) : Bool :=
  match (s.at gid slot).run with
  | .next t => t ≠ (s.at gid slot).fetched
  | _ => true

/-- Whether either slot of a group would issue now. -/
def State.readyGroup (s : State) (g : Group) : Bool := s.readyAt g.gid 0 || s.readyAt g.gid 1

/-- Whether a group's context has the compatibility policy (R90). -/
def State.compat (s : State) (g : Group) : Bool := (s.ctxOf g).any fun c => c.compat

/-- The groups of a group's issue slot whose team runs, itself among them. -/
def State.onSlot (s : State) (g : Group) : List Group :=
  s.groups.filter fun h => h.core = g.core && h.islot = g.islot && (h.gid = g.gid || s.mayIssue h)

/-- The other groups of its issue slot. -/
def State.mates (s : State) (g : Group) : List Group := (s.onSlot g).filter fun h => h.gid ≠ g.gid

/-- Whether a group that has yielded gives way now: another group of its issue slot is ready (R163). -/
def State.givesWay (s : State) (g : Group) : Bool := g.yielded && (s.mates g).any s.readyGroup

/-- Whether a group is ready at this opportunity. -/
def State.readyNow (s : State) (g : Group) : Bool := s.readyGroup g && !s.givesWay g

/-- The compatibility group whose position an issue slot's rotation stands at (R90). -/
def State.atPosition (s : State) (g : Group) : Option Group :=
  s.groups.find? fun h => h.core = g.core && h.islot = g.islot && s.compat h && s.occupies h && h.pos = (s.core g.core).rot.getD g.islot 0

/-- How far behind the group of its issue slot that issued last a group stands, by residency number (R88). -/
def State.rrRank (s : State) (g : Group) : Nat := (g.resid + 47 - (s.core g.core).rr.getD g.islot 47 % 48) % 48

/-- The groups that an opportunity of R88 may go to, in turn: owner and ordinary groups, or where none is ready, one of the compatibility
policy neither, harvest groups. A compatibility group issues at its own position alone (log 33). -/
def State.contenders (s : State) (g : Group) : List Group :=
  let ready := (s.onSlot g).filter s.readyNow
  let first := ready.filter fun h => !s.isHarvest h
  sortBy s.rrRank ((if first = [] then ready else first).filter fun h => !s.compat h)

/-- The group that the opportunity of a group's issue slot goes to; it may stay empty, as it does where every ready group has yielded to
another one (log 33). -/
def State.winner (s : State) (g : Group) : Option Group :=
  match s.atPosition g with
  | some h => if s.readyNow h then some h else none
  | none => (s.contenders g).head?

/-- Whether a slot is the one of its group that issues: a ready one, and where both are ready, not the one that issued last (R84). -/
def State.picks (s : State) (g : Group) (slot : Nat) : Bool := s.readyAt g.gid slot && !(g.turn = slot && s.readyAt g.gid (1 - slot))

/-- Whether a slot holds a fragment and has nothing to share its issue slot's opportunities with; it takes them, whether it is ready or
not (log 33). -/
def State.alone (s : State) (g : Group) (slot : Nat) : Bool :=
  (g.slot? slot).isSome && s.mates g = [] && (g.slot? (1 - slot)).isNone && !s.compat g && (s.atPosition g).isNone &&
    !(s.groups.any fun h => h.core = g.core && h.islot = g.islot && h.yielded)

/-- An opportunity of a group's issue slot passes: whoever gave way has done so, one that is parked by a trap too, and a rotation with compatibility groups goes to its
next position. -/
def State.passed (s : State) (g : Group) : State :=
  let s' := s.setGroups (s.groups.map fun h => if h.core = g.core && h.islot = g.islot && s.givesWay h then { h with yielded := false } else h)
  if s.groups.any fun h => h.core = g.core && h.islot = g.islot && s.compat h && s.occupies h
  then s'.modCore g.core fun c => { c with rot := c.rot.set g.islot ((c.rot.getD g.islot 0 + 1) % 12) }
  else s'

/-- The opportunity is a slot's of a group: it is the last that issued. The opportunities of compatibility groups are outside the round robin
of R88, which goes on behind them where it stood (R90). -/
def State.turned (s : State) (g : Group) (slot : Nat) : State :=
  ((s.putGroup { g with turn := slot }).modCore g.core fun c => if s.compat g then c else { c with rr := c.rr.set g.islot g.resid }).at g.gid slot

/-- A slot of a group is offered an issue opportunity of its issue slot: it runs if the opportunity is its own; one that nobody uses
passes; one that is another's is not taken. -/
def State.issueTurn (s : State) (gid slot : Nat) : Host.Outcome State Fault Refusal :=
  match s.group? gid with
  | none => .next s
  | some g =>
    if s.alone g slot then (s.turned g slot).run
    else match s.winner g with
      | none => .next (s.passed g)
      | some h => if h.gid = gid && s.picks g slot then ((s.passed g).turned g slot).run else .next s

/-! ## Time (R4, R451) -/

/-- The cycles of a die that time does not pass before what is due then has happened: a strip's latch (R392), the deadline rule
(R429), the end of an LDCAP window of a core that holds groups (R89). -/
def State.horizons (s : State) : List (Nat × Nat) :=
  (s.frames.flatMap fun fr =>
    let start := (fr.viewSetRegs s).start
    (List.range fr.views.length).flatMap fun v => match fr.views[v]? with
      | none => []
      | some w => (List.range w.nstrips).flatMap fun k =>
        if (s.latchOf fr v k).isNone then [(fr.die, start + w.startOf k)]
        else if (s.ctx? fr.ctx).any (fun c => c.cls = classRt) && w.frameNoDone && !fr.deadlines.contains (v, k) then
          match s.deadline fr v k with
          | .ok _ => [(fr.die, start + w.lateCycle k)]
          | .error _ => []
        else []) ++
  (s.groups.map (·.core)).dedup.map fun c => (coreDie c, (s.core c).ldWindow + 4096)

/-- How much a die at a clock step falls behind in a cycle of step 0, in tenths (R451). -/
def slowTenths (step : Nat) : Nat := [0, 1, 2, 4, 6].getD step 6

/-- The cycles of step 0 that may pass before a die's count goes beyond a cycle. -/
def State.untilCycle (s : State) (h : Nat × Nat) : Nat :=
  (10 * h.2 + 9 - (10 * s.ctl.cycle - (s.die h.1).lag)) / (10 - slowTenths (s.die h.1).clockStep)

/-- `n` cycles of step 0 pass, but none behind a horizon; a die at a lower step falls behind. -/
def State.passTime (s : State) (n : Nat) : State :=
  let n := (s.horizons.map s.untilCycle).foldl min n
  (s.setDies (s.dies.map fun d => { d with lag := d.lag + n * slowTenths d.clockStep })).setCtl { s.ctl with cycle := s.ctl.cycle + n }

/-! ## Turns -/

/-- Whether a turn may name this row of the table: an event, and not a word, which only a fragment's turn runs. -/
def isEvent : Instr → Bool
  | .notAnInstruction _ => false
  | .instructionFetchFault _ => false
  | i => (encodeFields i).isNone

/-- Take a turn. -/
def State.take (s : State) (t : Turn) : Host.Outcome State Fault Refusal :=
  match t with
  | .issue gid slot => s.issueTurn gid slot
  | .event i => if isEvent i then exec i s else .next s
  | .evict core line => .next ((s.msys.l1.filter fun l => l.core = core && l.vline = line).foldl State.evictLine s)
  | .idle n => .next (s.passTime n)

/-! ## The turn that is taken where the agenda names none -/

/-- Groups in turn, from the one after the last that issued. -/
def State.rotated (s : State) : List Group :=
  s.groups.filter (fun g => s.ctl.gid < g.gid) ++ s.groups.filter fun g => g.gid ≤ s.ctl.gid

/-- Whether a turn of a slot that is ready would have an effect. -/
def State.useful (s : State) (p : Nat × Nat) : Bool :=
  s.readyAt p.1 p.2 && match s.issueTurn p.1 p.2 with
    | .next t => t ≠ s
    | _ => true

/-- The turn by default: of a slot that is ready; an event that would have an effect; else a cycle passes. -/
def State.defaultTurn (s : State) : Turn :=
  match (s.rotated.flatMap fun g => [(g.gid, 0), (g.gid, 1)]).find? s.useful with
  | some p => .issue p.1 p.2
  | none => match s.dueEvents.find? fun i => match exec i s with | .next t => t ≠ s | _ => true with
    | some i => .event i
    | none => .idle 1

/-- The turn that the agenda names, or the default one. -/
def State.nextTurn (s : State) : Turn × State :=
  match s.ctl.agenda with
  | t :: ts => (t, s.setCtl { s.ctl with agenda := ts })
  | [] => (s.defaultTurn, s)

end Sys2Proof.Machine
end

