-- ==== Sys2Proof/Machine/Step.lean ====
section
/-! DEFINITION. One step of the machine: one turn. And the placing of an instruction where the next step fetches it. -/

namespace Sys2Proof.Machine

/-- One step: the turn that the agenda names, or the default one (log 1). -/
def step (s : State) : Host.Outcome State Fault Refusal := (s.nextTurn.2).take s.nextTurn.1

/-- The longest instruction: two words and a live mask word. -/
def longest : Nat := 12

/-- Where the next step fetches: the core and the physical address, if the agenda's next turn is of a fragment that may issue and
whose instruction lies in one page that it may fetch from. -/
def State.fetchPlace (s : State) : Option (Nat × Nat) :=
  match s.ctl.agenda with
  | .issue gid slot :: _ => match (s.at gid slot).frag? with
    | some f =>
      if !s.alone f.g slot then none
      else match s.checkPieces (s.agentOf f.g) .fetch (vaPieces f.sl.pc.toNat longest) with
        | .ok [b] => match b.spot with
          | .mem va t _ => some (f.g.core, t.pa va)
          | .pad _ _ => none
        | _ => none
    | none => none
  | _ => none

/-- Put bytes into memory where a core fetches them. -/
def State.place (s : State) (core pa : Nat) (bs : List Byte) : State :=
  let s := s.dropLines fun l => l.core = core && pa / 64 ≤ l.pline && l.pline ≤ (pa + bs.length) / 64
  s.setMem (Memory.write s.mem pa bs)

/-- The virtual and physical address at which a program of withFetchWord begins. -/
def programAt : Nat := 0x10000

/-- A context, launch, team and group of role ANY on a core that holds no group, whose next instruction lies at `programAt`, translated there, with the
next turn: what a DISPATCH of a loaded kernel sets up (log 27). -/
def State.withProgram (s : State) : State :=
  let id := s.ctl.nextId
  let core := lowestFree 0 (s.groups.map (·.core))
  let ctxid := lowestFree 1 (s.contexts.map (·.ctxid))
  let asid := lowestFree 0 (s.contexts.map (·.asid))
  let c : Ctx :=
    { ctxid := ctxid, cls := 1, asid := asid, root := 0, save := 0x20000, saveBytes := 0x100000, resv := [], lend := 0, nslot := 0, gimgBytes := 0,
      trapArith := false, compat := false, quota := 6, fpx := List.replicate 20 0, fpxThr := 0, fired := List.replicate 20 false,
      streams := List.replicate 16 ⟨Timeline.zero, []⟩, killed := false }
  let kd : KDesc :=
    { ngroups := 1, allot := 0, gflags := 0, classes := 15, roles := 3, scratch := 0, rings := 0, nbar := 0, code := programAt, entry := 0, restart := 0,
      slots := List.replicate 8 0 }
  let l : Launch :=
    { lid := id, kind := .grid, ctx := ctxid, qid := none, die := 0, kdAddr := 0, kd := kd, args := 0, gx := 1, gy := 1, gz := 1, tlimit := 0,
      clsize := 0, lflags := 0, lsize := 0, lslots := 0, lbase := 0, signal := 0, crec := 0, acq := 0, rel := 0, prio := 0, next := 1, exited := 0,
      replayed := false, killed := false, cores := [], held := none, repaired := false }
  let t : Team :=
    { tid := id + 1, lid := id, ctx := ctxid, linear := 0, ix := 0, iy := 0, iz := 0, rank := 0, clusterNo := 0, core := core, pad := 0, place := .running,
      admission := 0, harvest := false, rings := List.replicate 4 Ring.start, ringMask := 0, barriers := [], preempt := none, timedOut := false,
      recOff := teamOff 0 0, recLen := kd.recLen, stop := 0, revoked := 0, lost := [], evictedFor := none }
  let g := Group.start (id + 2) (id + 1) 0 .any core ⟨0, 0, 0⟩ (BitVec.ofNat 64 programAt) 0
  let s := ((((s.addCtx c).addLaunch l).addTeam t).addGroup g).setCtl { s.ctl with nextId := id + 3, agenda := .issue (id + 2) 0 :: s.ctl.agenda }
  s.setMsys { s.msys with tlb := ⟨coreCluster core, asid, programAt, 12, programAt, .rc, true, true, true⟩ :: s.msys.tlb }

/-- The state with the instruction of bits `w` where the next step fetches it; one is set up where none is about to be fetched. -/
def State.withFetchWord (s : State) (nbits w : Nat) : State :=
  let bs := bytesOf (w % 2 ^ nbits) longest
  match s.fetchPlace with
  | some p => s.place p.1 p.2 bs
  | none => s.withProgram.place (lowestFree 0 (s.groups.map (·.core))) programAt bs

end Sys2Proof.Machine
end

