-- ==== Sys2Proof/Safety.lean ====
section
/-! DEFINITION. The terms that claims use: what counts as a safe run, when an instruction of a fragment runs (R53 to R55), and
what it leaves behind, in the words of the manual: the words of a result (R42, R43, R45), pending results (R81),
predicates (R46) and the way the fragment goes on (R36, R91). -/

namespace Sys2Proof.Machine

/-! ## Safe runs -/

/-- Every memory that a state holds is in canonical form: the physical bytes and the scratchpads. -/
def State.memoryOk (s : State) : Prop := s.mem.wf = true ∧ ∀ p ∈ s.pads, p.bytes.wf = true

/-- A step goes on: it answers a next state. -/
def State.goesOn (s : State) : Prop := ∃ t, step s = .next t

/-- A run is safe for `n` steps: each step goes on, and each state's memories are in canonical form. -/
def State.safe : Nat → State → Prop
  | 0, s => s.memoryOk
  | n + 1, s => s.memoryOk ∧ ∃ t, step s = .next t ∧ State.safe n t

/-! ## An instruction that runs -/

/-- Fragment `f` has the turn, and its instruction `i` with needs `n` passes every check of R55. -/
def Runs (s : State) (f : Frag) (i : Instr) (m : Marks) (n : Need) : Prop := s.frag? = some f ∧ s.gate f i m n = .go

/-- No event of the lanes traps ARITH: none is raised, or the context does not trap them (R113); and the
instruction is not the one that firmware has resumed at. -/
def Quiet (s : State) (f : Frag) (evs : LaneEvents) : Prop :=
  f.slot ∉ f.g.arithSkip ∧ (unionEvents evs f.active = 0 ∨ s.trapsArith f.g = false)

/-- What a store of the value `v` to translated pieces puts at physical address `b`, if anything: pieces take the value's bytes in
order, and a later piece wins. -/
def pieceByte (b : Nat) : List Bit → List Byte → Option Byte
  | [], _ => none
  | p :: ps, v => match pieceByte b ps (v.drop p.len) with
    | some x => some x
    | none => match p.spot with
      | .mem va t _ => if t.pa va ≤ b ∧ b < t.pa va + p.len then some (v.getD (b - t.pa va) 0) else none
      | .pad _ _ => none

/-- What lanes that store in ascending order put at physical address `b`: the byte of the last one that stores there (R170). -/
def storedByte (b : Nat) (v : Nat → List Byte) (xs : List LaneAccess) : Option Byte :=
  xs.foldl (fun o x => match pieceByte b x.pieces (v x.lane) with | some y => some y | none => o) none

/-! ## What it leaves -/

/-- Whether a code is one of an operand's words. -/
def Opnd.names (o : Opnd) (c : Nat) : Bool := o.code ≤ c && c < o.code + o.words

/-- The result-queue entries of a value `v` (by lane) of `n` words: lowest word first, 0 in inactive lanes (R42, R43). -/
def entriesOf (n : Nat) (v : Nat → Nat) (active : LaneMask) (transient : Bool) : List QEntry :=
  (List.range n).map fun i => ⟨laneNums.map fun l => if active.getLsbD l then wordAt (v l) i else 0, none, false, transient⟩

/-- Group `h` is `g` with the value `v` (by lane) written to the destination `o` in the lanes of `active` (R41 to R45). -/
structure Written (g : Group) (slot : Nat) (o : Opnd) (v : Nat → Nat) (active : LaneMask) (h : Group) : Prop where
  /-- the new entries are shifted in, and the queue keeps 16 -/
  queue : h.queue slot = (entriesOf o.words v active (o.code = 1) ++ g.queue slot).take 16
  /-- an N register takes the value's word in the active lanes if the destination names it, and else keeps its own -/
  nRegs : ∀ r l, r < 40 → r < g.regs.n.length → l < (g.regs.n.getD r []).length →
    h.nLane r l = if o.names (16 + r) && active.getLsbD l then wordAt (v l) (16 + r - o.code) else g.nLane r l
  /-- a G register takes the word of the lowest active lane if the destination names it -/
  gRegs : ∀ r, r < g.regs.g.length →
    h.gReg r = if o.names (56 + r) then (match lowestLane active with
      | some l => wordAt (v l) (56 + r - o.code)
      | none => g.gReg r) else g.gReg r
  /-- no predicate changes, and no register becomes pending -/
  kRegs : h.regs.k = g.regs.k
  pend : h.regs.pend = g.regs.pend

/-- The slot of `f` after an instruction of `ext` words of its own that goes on: at the successor (R36), its unit over, one more
issued; it stops there only if the word has P and the team has a stop request (R91). -/
def Frag.onward (f : Frag) (s : State) (m : Marks) (ext : Nat) : Slot :=
  { f.sl with
    pc := f.sl.pc + BitVec.ofNat 64 (4 + 4 * ext + if m.p then 4 else 0)
    lit := none
    issued := f.sl.issued + 1
    park := none
    stop := if m.p && s.preempting f.g && !f.g.fw then some (s.maskWord f.g (f.sl.pc.toNat + 4 + 4 * ext)) else f.sl.stop }

/-- Group `h` is group `g` but for its registers, the slot `i` with its queue, and the marks that let one instruction run without ARITH. -/
structure OnlySlot (g : Group) (i : Nat) (h : Group) : Prop where
  rest : h = { g with regs := h.regs, slot0 := h.slot0, slot1 := h.slot1, q0 := h.q0, q1 := h.q1, arithSkip := h.arithSkip }
  slotBeside : h.slot? (otherSlot i) = g.slot? (otherSlot i)
  queueBeside : h.queue (otherSlot i) = g.queue (otherSlot i)
  skip : h.arithSkip = g.arithSkip.filter fun j => j ≠ i

/-- From `s`, fragment `f` has written `v` to `n` words at `d` in the lanes of `active` and gone on, and `t` is the state after:
nothing but the fragment's group has changed. -/
def Gives (s : State) (f : Frag) (m : Marks) (d : Code) (n : Nat) (active : LaneMask) (v : Nat → Nat) (t : State) : Prop :=
  ∃ h, t = s.putGroup h ∧ h.slot? f.slot = some (f.onward s m 0) ∧ OnlySlot f.g f.slot h ∧ Written f.g f.slot ⟨d.toNat, n⟩ v active h

/-- From `s`, fragment `f` has gone on with group `g` (its own, or that with a field changed) and nothing else: registers
and queues are as they were. -/
def Passes (s : State) (f : Frag) (m : Marks) (ext : Nat) (g : Group) (t : State) : Prop :=
  ∃ h, t = s.putGroup h ∧ h.slot? f.slot = some (f.onward s m ext) ∧ OnlySlot g f.slot h ∧ h.regs = g.regs ∧ h.q0 = g.q0 ∧ h.q1 = g.q1

/-- From `s`, fragment `f` has written predicate `k` (K0 ignores it) with `v` in its active lanes and gone on. -/
def Decides (s : State) (f : Frag) (m : Marks) (k : Nat) (v : Nat → Bool) (t : State) : Prop :=
  ∃ h, t = s.putGroup h ∧ h.slot? f.slot = some (f.onward s m 0) ∧ OnlySlot f.g f.slot h ∧
    h.regs.n = f.g.regs.n ∧ h.regs.g = f.g.regs.g ∧ h.regs.pend = f.g.regs.pend ∧ h.q0 = f.g.q0 ∧ h.q1 = f.g.q1 ∧
    ∀ j, j < f.g.regs.k.length → ∀ l, l < 64 →
      (h.kReg j).getLsbD l = if j = k && j ≠ 0 && f.active.getLsbD l then v l else (f.g.kReg j).getLsbD l

/-- From `s`, fragment `f` has a long-latency result under way and has gone on (R81): its entries and its registers
are pending, OSCOUNT has grown by one, and no register has changed yet. -/
def Awaits (s : State) (f : Frag) (m : Marks) (d : Code) (n : Nat) (active : LaneMask) (vals : List Nat) (left : Nat) (kind : OutKind) (t : State) : Prop :=
  let oid := s.ctl.nextId
  ∃ h, t = ((s.setCtl { s.ctl with nextId := oid + 1 }).putGroup h).addOut ⟨oid, f.g.gid, f.slot, d, n, active, vals, left, kind, f.sl.pc, false⟩ ∧
    h.slot? f.slot = some (f.onward s m 0) ∧ OnlySlot { f.g with oscount := f.g.oscount + 1 } f.slot h ∧
    h.regs.n = f.g.regs.n ∧ h.regs.g = f.g.regs.g ∧ h.regs.k = f.g.regs.k ∧
    h.regs.pend = f.g.regs.pend ++ (if d.toNat < 16 then [] else (List.range n).map fun i => d.toNat + i) ∧
    h.queue f.slot = (((List.range n).map fun i => QEntry.mk (List.replicate W 0) (some (oid, i)) true false) ++ f.g.queue f.slot).take 16

/-- The group of `f` parked by a trap, `t` the state after (R98, R99): the trap record is written, the fragment stays at the word, or
the LIT of its unit; registers, predicates and queues are as they were. -/
def TrapParked (f : Frag) (code aux addr : Nat) (lanes : LaneMask) (t : State) : Prop :=
  ∃ h, t.group? f.g.gid = some h ∧ h.phase = .notified ∧ h.trapSlot = f.slot ∧
    h.trap.code = code ∧ h.trap.aux = aux ∧ h.trap.pc = f.sl.unitPc ∧ h.trap.addr = BitVec.ofNat 64 addr ∧ h.trap.lanes = lanes ∧
    h.regs = f.g.regs ∧ h.q0 = f.g.q0 ∧ h.q1 = f.g.q1 ∧ h.mode = f.g.mode ∧ h.dstack = f.g.dstack ∧
    (h.slot? f.slot).map (·.pc) = some f.sl.unitPc ∧ (h.slot? f.slot).map (·.lit) = some none ∧
    h.gid ∈ (t.die (coreDie f.g.core)).notices

end Sys2Proof.Machine
end

