-- ==== Sys2Proof/Certificates/Slice0/Obligations.lean ====
section
/-! DEFINITION. The statements for the provers: what the numbered rules say that an instruction or the machine does. The terms are
those of Sys2Proof/Safety.lean. A statement of an instruction's effect answers a next state for every state and operands with which
the instruction passes the checks of R55, and says all that has changed. -/

open Sys2Proof Sys2Proof.Machine

/-! ## Class 000 and 010: moves, immediates, logic and bit fields -/

/-- R137, R138: AND, ANDN, OR, XOR, SHL, SHR, SAR and ROL on one word; the count of a shift is b[5:0], of ROL b[4:0];
and the word of each. -/
def Obligations.LogicComplete : Prop :=
  ∀ (s : State) (f : Frag) (m : Marks) (d a b : Code),
    let x (l : Nat) : Word := BitVec.ofNat 32 (f.src a 1 l)
    let y (l : Nat) : Word := BitVec.ofNat 32 (f.srcB b 1 l)
    (Runs s f (.and m d a b) m (needDAB d a b f) →
      ∃ t, exec (.and m d a b) s = .next t ∧ Gives s f m d 1 f.active (fun l => (x l &&& y l).toNat) t) ∧
    (Runs s f (.andn m d a b) m (needDAB d a b f) →
      ∃ t, exec (.andn m d a b) s = .next t ∧ Gives s f m d 1 f.active (fun l => (x l &&& ~~~(y l)).toNat) t) ∧
    (Runs s f (.or m d a b) m (needDAB d a b f) →
      ∃ t, exec (.or m d a b) s = .next t ∧ Gives s f m d 1 f.active (fun l => (x l ||| y l).toNat) t) ∧
    (Runs s f (.xor m d a b) m (needDAB d a b f) →
      ∃ t, exec (.xor m d a b) s = .next t ∧ Gives s f m d 1 f.active (fun l => (x l ^^^ y l).toNat) t) ∧
    (Runs s f (.shl m d a b) m (needDAB d a b f) →
      ∃ t, exec (.shl m d a b) s = .next t ∧ Gives s f m d 1 f.active (fun l => (x l <<< ((y l).toNat % 64)).toNat) t) ∧
    (Runs s f (.shr m d a b) m (needDAB d a b f) →
      ∃ t, exec (.shr m d a b) s = .next t ∧ Gives s f m d 1 f.active (fun l => (x l >>> ((y l).toNat % 64)).toNat) t) ∧
    (Runs s f (.sar m d a b) m (needDAB d a b f) →
      ∃ t, exec (.sar m d a b) s = .next t ∧ Gives s f m d 1 f.active (fun l => ((x l).sshiftRight ((y l).toNat % 64)).toNat) t) ∧
    (Runs s f (.rol m d a b) m (needDAB d a b f) →
      ∃ t, exec (.rol m d a b) s = .next t ∧ Gives s f m d 1 f.active (fun l => ((x l).rotateLeft ((y l).toNat % 32)).toNat) t) ∧
    (let word (op : Nat) : List Word :=
       [BitVec.ofNat 32 (m.s.toNat * 2 ^ 31 + m.p.toNat * 2 ^ 30 + op * 2 ^ 22 + d.toNat * 2 ^ 16 + a.toNat * 2 ^ 10 + b.toNat * 2 ^ 4)]
     encode (.and m d a b) = word 0x40 ∧ encode (.andn m d a b) = word 0x41 ∧ encode (.or m d a b) = word 0x42 ∧
     encode (.xor m d a b) = word 0x43 ∧ encode (.shl m d a b) = word 0x44 ∧ encode (.shr m d a b) = word 0x45 ∧
     encode (.sar m d a b) = word 0x46 ∧ encode (.rol m d a b) = word 0x47)

/-- R139, R140, R141, R142, R143: funnel shifts, bit-field extracts and inserts, counts, reversal, PACK2 and UNPK on one word. -/
def Obligations.BitFieldsComplete : Prop :=
  ∀ (s : State) (f : Frag) (m : Marks) (d a b : Code) (c : BitVec 4),
    let x (l : Nat) : Word := BitVec.ofNat 32 (f.src a 1 l)
    let y (l : Nat) : Word := BitVec.ofNat 32 (f.srcB b 1 l)
    let z (l : Nat) : Word := BitVec.ofNat 32 (f.src (cCode d c) 1 l)
    let off (l : Nat) : Nat := (y l).toNat % 32
    let width (l : Nat) : Nat := Nat.min ((y l).toNat / 256 % 64) (32 - off l)
    let field (l : Nat) : Nat := (x l).toNat / 2 ^ off l % 2 ^ width l
    (Runs s f (.fnl m d a b c) m (needDABC d a b c f) → ∃ t, exec (.fnl m d a b c) s = .next t ∧
      Gives s f m d 1 f.active (fun l => ((x l ++ y l) <<< ((z l).toNat % 32)).toNat / 2 ^ 32) t) ∧
    (Runs s f (.fnr m d a b c) m (needDABC d a b c f) → ∃ t, exec (.fnr m d a b c) s = .next t ∧
      Gives s f m d 1 f.active (fun l => ((x l ++ y l) >>> ((z l).toNat % 32)).toNat % 2 ^ 32) t) ∧
    (Runs s f (.bfx m d a b) m (needDAB d a b f) → ∃ t, exec (.bfx m d a b) s = .next t ∧
      Gives s f m d 1 f.active field t) ∧
    (Runs s f (.bfxs m d a b) m (needDAB d a b f) → ∃ t, exec (.bfxs m d a b) s = .next t ∧
      Gives s f m d 1 f.active (fun l => if width l = 0 then 0 else if field l < 2 ^ (width l - 1) then field l else field l + 2 ^ 32 - 2 ^ width l) t) ∧
    (Runs s f (.bfi m d a b c) m (needDABC d a b c f) → ∃ t, exec (.bfi m d a b c) s = .next t ∧
      ∃ v : Nat → Word, Gives s f m d 1 f.active (fun l => (v l).toNat) t ∧
        ∀ l k, k < 32 → (v l).getLsbD k = if off l ≤ k ∧ k < off l + width l then (x l).getLsbD (k - off l) else (z l).getLsbD k) ∧
    (Runs s f (.popc m d a) m (needDA d a f) → ∃ t, exec (.popc m d a) s = .next t ∧
      Gives s f m d 1 f.active (fun l => ((List.range 32).filter fun k => (x l).getLsbD k).length) t) ∧
    (Runs s f (.clz m d a) m (needDA d a f) → ∃ t, exec (.clz m d a) s = .next t ∧
      Gives s f m d 1 f.active (fun l => ((List.range 32).takeWhile fun k => !(x l).getLsbD (31 - k)).length) t) ∧
    (Runs s f (.ctz m d a) m (needDA d a f) → ∃ t, exec (.ctz m d a) s = .next t ∧
      Gives s f m d 1 f.active (fun l => ((List.range 32).takeWhile fun k => !(x l).getLsbD k).length) t) ∧
    (Runs s f (.brev m d a) m (needDA d a f) → ∃ t, exec (.brev m d a) s = .next t ∧
      Gives s f m d 1 f.active (fun l => (x l).reverse.toNat) t) ∧
    (Runs s f (.pack2 m d a b) m (needDAB d a b f) → ∃ t, exec (.pack2 m d a b) s = .next t ∧
      Gives s f m d 1 f.active (fun l => (y l).toNat % 2 ^ 16 * 2 ^ 16 + (x l).toNat % 2 ^ 16) t) ∧
    (Runs s f (.unpk m d a c) m (needDA d a f) → ∃ t, exec (.unpk m d a c) s = .next t ∧
      Gives s f m d 1 f.active (fun l => if c = 0 then (x l).toNat % 2 ^ 16 else (x l).toNat / 2 ^ 16) t)

/-- R116, R119, R120 to R123, R130, R135, R136: GETM in every lane of the slot's mask; MOVI, ANDI, ORI, XORI and SHLI write one word in
the active lanes; MOV, ADDI, SHRI, SEL, CLASS and LEA in the active lanes, in words of the MODE type. -/
def Obligations.MovesComplete : Prop :=
  ∀ (s : State) (f : Frag) (m : Marks) (d a b : Code) (i : BitVec 10) (j : BitVec 16) (n : Bool) (k : BitVec 3) (x : BitVec 4),
    let w := typeWords f.g.type
    let v (l : Nat) : Word := BitVec.ofNat 32 (f.src a 1 l)
    (Runs s f (.movi m d j) m (needD d f) →
      ∃ t, exec (.movi m d j) s = .next t ∧ Gives s f m d 1 f.active (fun _ => (j.signExtend 32).toNat) t) ∧
    (Runs s f (.andi m d a i) m (needDA d a f) →
      ∃ t, exec (.andi m d a i) s = .next t ∧ Gives s f m d 1 f.active (fun l => (v l &&& i.signExtend 32).toNat) t) ∧
    (Runs s f (.ori m d a i) m (needDA d a f) →
      ∃ t, exec (.ori m d a i) s = .next t ∧ Gives s f m d 1 f.active (fun l => (v l ||| i.signExtend 32).toNat) t) ∧
    (Runs s f (.xori m d a i) m (needDA d a f) →
      ∃ t, exec (.xori m d a i) s = .next t ∧ Gives s f m d 1 f.active (fun l => (v l ^^^ i.signExtend 32).toNat) t) ∧
    (Runs s f (.shli m d a i) m (needDA d a f) →
      ∃ t, exec (.shli m d a i) s = .next t ∧ Gives s f m d 1 f.active (fun l => f.src a 1 l * 2 ^ i.toNat % 2 ^ 32) t) ∧
    (Runs s f (.getm m d) m (needD d f) → ∃ t, exec (.getm m d) s = .next t ∧
      Gives s f m d 1 f.sl.mask (fun _ => f.g.mode.toNat) t) ∧
    (Runs s f (.mov m d a) m (typedDA anyType d a f) → ∃ t, exec (.mov m d a) s = .next t ∧
      Gives s f m d w f.active (fun l => f.src a w l) t) ∧
    (Runs s f (.addi m d a i) m (typedDA intType d a f) → ∃ t, exec (.addi m d a i) s = .next t ∧
      Gives s f m d w f.active (fun l => (byElem f.g.type (elemOp f.g.type f.g.sat (fun z => argZ z 0 + i.toInt) fun _ y => (arg y 0, 0)) [f.src a w l]).1) t) ∧
    (Runs s f (.shri m d a i) m (typedDA intType d a f) → ∃ t, exec (.shri m d a i) s = .next t ∧
      Gives s f m d w f.active (fun l => (byElem f.g.type (shrElem f.g.type i.toNat) [f.src a w l]).1) t) ∧
    (Runs s f (.sel m d a b n k) m (typedDAB anyType d a b f) → ∃ t, exec (.sel m d a b n k) s = .next t ∧
      Gives s f m d w f.active (fun l => if (f.g.kReg k.toNat).getLsbD l = n then f.srcB b w l else f.src a w l) t) ∧
    (Runs s f (.lea m d a b x) m (typedDAB wholeInt d a b f) → ∃ t, exec (.lea m d a b x) s = .next t ∧
      Gives s f m d w f.active (fun l => (f.src a w l + f.srcB b w l * 2 ^ x.toNat) % 2 ^ (32 * w)) t) ∧
    (Runs s f (.classOp m d a) m { typed := floatType f.g.type, srcs := [opnd a w], dst := some (opnd d 1) } → ∃ t, exec (.classOp m d a) s = .next t ∧
      Gives s f m d 1 f.active (fun l => classWord f.g.type (f.src a w l)) t)

/-- R48, R115, R117, R118, R163: NOP goes on; YIELD goes on with its group's mark set; SETM replaces the MODE fields that WM selects by
those of v; a LIT in front of a word that may read it holds its literal for that word, and nothing else changes. -/
def Obligations.ModeAndLiteralComplete : Prop :=
  ∀ (s : State) (f : Frag) (m : Marks) (a : Code) (wm : BitVec 4) (v : BitVec 12) (lit w : Word),
    let bits (sel : BitVec 4) (k : Nat) : Bool :=
      if k < 4 then sel.getLsbD 0 else if k < 7 then sel.getLsbD 1 else if k = 7 then sel.getLsbD 2 else if k < 12 then sel.getLsbD 3 else false
    let u := f.src a 1 f.low
    (Runs s f (.nop m) m {} → ∃ t, exec (.nop m) s = .next t ∧ Passes s f m 0 f.g t) ∧
    (Runs s f (.yield m) m {} → ∃ t, exec (.yield m) s = .next t ∧ Passes s f m 0 { f.g with yielded := true } t) ∧
    (Runs s f (.setmImm m wm v) m { legal := modeLegal wm v.toNat } → ∃ t mode, exec (.setmImm m wm v) s = .next t ∧
      Passes s f m 0 { f.g with mode := mode } t ∧ ∀ k, k < 32 → mode.getLsbD k = if bits wm k then v.getLsbD k else f.g.mode.getLsbD k) ∧
    (Runs s f (.setmReg m wm a) m { srcs := [opnd a 1] } → u < 2 ^ 12 → modeLegal wm u = true → ∃ t mode, exec (.setmReg m wm a) s = .next t ∧
        Passes s f m 0 { f.g with mode := mode } t ∧ ∀ k, k < 32 → mode.getLsbD k = if bits wm k then u.testBit k else f.g.mode.getLsbD k) ∧
    (s.fetchWord f.g (f.sl.pc.toNat + 8) = .ok w →
      Runs s f (.lit m lit) { m with s := m.s || w.getLsbD 31 } { legal := !litMisused f w } →
        exec (.lit m lit) s = .next (s.putGroup (f.g.setSlot f.slot (some { f.sl with pc := f.sl.pc + 8, lit := some ⟨f.sl.pc, lit, m.s⟩ }))))

/-! ## Class 001: typed arithmetic -/

/-- R125, R126, R128, R131, R134, R141: ADD, SUB, MUL, MULH, MAD, MIN, MAX, ABS, NEG, CVT, FLR, CEL, RND, FRC and BFIS write the
value of each element in the active lanes, and their events are counted. -/
def Obligations.ArithmeticComplete : Prop :=
  ∀ (s : State) (f : Frag) (m : Marks) (d a b : Code) (c x : BitVec 4),
    let ty := f.g.type
    let w := typeWords ty
    let gives (i : Instr) (n : Need) (words fmt : Nat) (v : Nat → Nat × List Nat) : Prop :=
      Runs s f i m n → Quiet s f (laneNums.map fun l => (v l).2) →
        ∃ t, exec i s = .next t ∧ Gives (s.countFp f fmt (laneNums.map fun l => (v l).2) f.active) f m d words f.active (fun l => (v l).1) t
    let ab (l : Nat) : List Nat := [f.src a w l, f.srcB b w l]
    let of2 (op : List Nat → Nat × Nat) (l : Nat) : Nat × List Nat := byElem ty op (ab l)
    let of1 (op : List Nat → Nat × Nat) (l : Nat) : Nat × List Nat := byElem ty op [f.src a w l]
    gives (.add m d a b) (typedDAB anyType d a b f) w (typeFmt ty) (of2 (addElem ty f.g.round f.g.sat)) ∧
    gives (.sub m d a b) (typedDAB anyType d a b f) w (typeFmt ty) (of2 (subElem ty f.g.round f.g.sat)) ∧
    gives (.mul m d a b) (typedDAB anyType d a b f) w (typeFmt ty) (of2 (mulElem ty f.g.round f.g.sat)) ∧
    gives (.mulh m d a b) (typedDAB intType d a b f) w (typeFmt ty) (of2 (mulhElem ty)) ∧
    gives (.mad m d a b c) (typedDABC anyType d a b c f) w (typeFmt ty)
      (fun l => byElem ty (madElem ty f.g.round f.g.sat) (ab l ++ [f.src (cCode d c) w l])) ∧
    gives (.min m d a b) (typedDAB anyType d a b f) w (typeFmt ty) (of2 (minMaxElem ty false)) ∧
    gives (.max m d a b) (typedDAB anyType d a b f) w (typeFmt ty) (of2 (minMaxElem ty true)) ∧
    gives (.abs m d a) (typedDA anyType d a f) w (typeFmt ty) (of1 (absElem ty f.g.sat)) ∧
    gives (.neg m d a) (typedDA anyType d a f) w (typeFmt ty) (of1 (negElem ty f.g.sat)) ∧
    gives (.flr m d a) (typedDA floatType d a f) w (typeFmt ty) (of1 (fltElem ty fun g v => fIntegral g 2 v)) ∧
    gives (.cel m d a) (typedDA floatType d a f) w (typeFmt ty) (of1 (fltElem ty fun g v => fIntegral g 3 v)) ∧
    gives (.rnd m d a) (typedDA floatType d a f) w (typeFmt ty) (of1 (fltElem ty fun g v => fIntegral g f.g.round v)) ∧
    gives (.frc m d a) (typedDA floatType d a f) w (typeFmt ty) (of1 (fltElem ty fFrac)) ∧
    gives (.cvt m d a x)
      { typed := cvtTyped ty x.toNat, srcs := [opnd a (cvtReads ty x.toNat)], dst := some (opnd d (cvtWrites ty x.toNat)) }
      (cvtWrites ty x.toNat) (cvtFmt ty x.toNat) (fun l => cvtValue ty x.toNat f.g.round f.g.sat (f.src a (cvtReads ty x.toNat) l)) ∧
    gives (.bfis m d a b c) (needDABC d a b c f) 1 0xFF (fun l =>
      let r := bfisWord (BitVec.ofNat 32 (f.src a 1 l)) (BitVec.ofNat 32 (f.srcB b 1 l)) (BitVec.ofNat 32 (f.src (cCode d c) 1 l))
      (r.1, [r.2]))

/-- R109, R125, R126, R128: under I32 and N32 the results of ADD, SUB, MUL, MAD, MIN, MAX and NEG are the exact integers, reduced modulo
2^32, or clamped to the type's range under SAT; they raise no event, so nothing but the fragment's group changes. -/
def Obligations.IntegerArithmeticExact : Prop :=
  ∀ (s : State) (f : Frag) (m : Marks) (d a b : Code) (c : BitVec 4),
    f.g.type = 0 ∨ f.g.type = 1 →
    let z (v : Nat) : Int := if f.g.type = 0 then (BitVec.ofNat 32 v).toInt else ((BitVec.ofNat 32 v).toNat : Int)
    let lo : Int := if f.g.type = 0 then -2 ^ 31 else 0
    let hi : Int := if f.g.type = 0 then 2 ^ 31 - 1 else 2 ^ 32 - 1
    let fit (y : Int) : Nat := (BitVec.ofInt 32 (if f.g.sat then (if y < lo then lo else if hi < y then hi else y) else y)).toNat
    let p (l : Nat) : Int := z (f.src a 1 l)
    let q (l : Nat) : Int := z (f.srcB b 1 l)
    let gives (i : Instr) (n : Need) (v : Nat → Nat) : Prop := Runs s f i m n → ∃ t, exec i s = .next t ∧ Gives s f m d 1 f.active v t
    gives (.add m d a b) (typedDAB anyType d a b f) (fun l => fit (p l + q l)) ∧
    gives (.sub m d a b) (typedDAB anyType d a b f) (fun l => fit (p l - q l)) ∧
    gives (.mul m d a b) (typedDAB anyType d a b f) (fun l => fit (p l * q l)) ∧
    gives (.mad m d a b c) (typedDABC anyType d a b c f) (fun l => fit (p l * q l + z (f.src (cCode d c) 1 l))) ∧
    gives (.min m d a b) (typedDAB anyType d a b f) (fun l => (BitVec.ofInt 32 (if p l < q l then p l else q l)).toNat) ∧
    gives (.max m d a b) (typedDAB anyType d a b f) (fun l => (BitVec.ofInt 32 (if p l < q l then q l else p l)).toNat) ∧
    gives (.neg m d a) (typedDA anyType d a f) (fun l => fit (-p l))

/-- R81, R127, R132, R133, R360, R361: DIV, REM, SQRT, RCP, RSQ, EXP2, LOG2, SIN, COS and FCVT are long-latency: their result is under
way, with the value of each element, and their events are counted; FCVT is not guarded, and its counts are made as its result is delivered. SQRT
rounds by MODE; the values of RCP, RSQ, EXP2, LOG2, SIN and COS in F32 and F64 are the model's choice within the bound (log 10). -/
def Obligations.LongArithmeticComplete : Prop :=
  ∀ (s : State) (f : Frag) (m : Marks) (d a b : Code) (dec : Bool) (x : BitVec 3),
    let ty := f.g.type
    let w := typeWords ty
    let awaits (i : Instr) (n : Need) (v : Nat → Nat × List Nat) : Prop :=
      Runs s f i m n → Quiet s f (laneNums.map fun l => (v l).2) →
        ∃ t, exec i s = .next t ∧ Awaits (s.countFp f (typeFmt ty) (laneNums.map fun l => (v l).2) f.active) f m d w f.active (laneNums.map fun l => (v l).1) 0 .alu t
    let of1 (fn : FFmt → Nat → Nat × Nat) (l : Nat) : Nat × List Nat := byElem ty (fltElem ty fn) [f.src a w l]
    awaits (.div m d a b) (lateDAB anyType d a b f) (fun l => byElem ty (divElem ty f.g.round f.g.sat) [f.src a w l, f.srcB b w l]) ∧
    awaits (.rem m d a b) (lateDAB anyType d a b f) (fun l => byElem ty (remElem ty) [f.src a w l, f.srcB b w l]) ∧
    awaits (.sqrt m d a) (lateDA floatType d a f) (of1 fun g v => fSqrt g f.g.round v) ∧
    awaits (.rcp m d a) (lateDA floatType d a f) (of1 fRcp) ∧
    awaits (.rsq m d a) (lateDA floatType d a f) (of1 fRsq) ∧
    awaits (.exp2 m d a) (lateDA floatType d a f) (of1 fExp2) ∧
    awaits (.log2 m d a) (lateDA floatType d a f) (of1 fLog2) ∧
    awaits (.sin m d a) (lateDA floatType d a f) (of1 fun g v => fTrig g false v) ∧
    awaits (.cos m d a) (lateDA floatType d a f) (of1 fun g v => fTrig g true v) ∧
    (let q := s.fslot f.g x.toNat
     let reads := if dec then q.words else w
     let writes := if dec then w else q.words
     let value (l : Nat) : Nat × List Nat := if dec then decodeLane q ty (f.src a reads l) else encodeLane q ty (f.src a reads l)
     let evs := laneNums.map fun l => (value l).2
     let typed := ty = 6 ∨ ty = 9 ∨ (ty = 0 ∧ (dec = false ∨ fmtKind q.afmt = 2)) ∨ (ty = 1 ∧ dec = false)
     Runs s f (.fcvt m d a dec x) m { typed := decide typed, srcs := [opnd a reads], dst := some (opnd d writes), late := true } →
       f.slot ∉ f.g.arithSkip → unionEvents evs f.sl.mask = 0 ∨ s.trapsArith f.g = false →
         ∃ t, exec (.fcvt m d a dec x) s = .next t ∧
           Awaits s f m d writes f.sl.mask (laneNums.map fun l => (value l).1) 0 (.narrow ((List.range 4).map (countEvent evs f.sl.mask))) t)

/-- R127: integer DIV truncates toward zero and REM keeps the sign of a; a zero divisor raises div0, and the results are
the type's greatest value for a ≥ 0 and its least for a < 0 (N: 2^w − 1), and a. -/
def Obligations.IntegerDivision : Prop :=
  ∀ (w a b : Nat) (sat : Bool), 0 < w → a < 2 ^ w → b < 2 ^ w →
    (b = 0 → intDiv false w sat a b = (2 ^ w - 1, evDiv0) ∧ intRem false w a b = (a, evDiv0) ∧ intRem true w a b = (a, evDiv0) ∧
      intDiv true w sat a b = (if a < 2 ^ (w - 1) then 2 ^ (w - 1) - 1 else 2 ^ (w - 1), evDiv0)) ∧
    (b ≠ 0 → intDiv false w sat a b = (a / b, 0) ∧ intRem false w a b = (a % b, 0) ∧
      let x := intValue true w a
      let y := intValue true w b
      ∃ q r : Int, x = q * y + r ∧ |r| < |y| ∧ (0 ≤ x → 0 ≤ r) ∧ (x ≤ 0 → r ≤ 0) ∧
        intRem true w a b = ((r % 2 ^ w).toNat, 0) ∧
        (sat = false ∨ q < 2 ^ (w - 1) → intDiv true w sat a b = ((q % 2 ^ w).toNat, 0)) ∧
        (sat = true → q = 2 ^ (w - 1) → intDiv true w sat a b = (2 ^ (w - 1) - 1, 0)))

/-! ## Class 011: predicates, lanes, quads -/

/-- R124, R129, R144, R146, R175: CMP, CMPI, KAND, KOR, KXOR, KNOT, KMOV, KANY, KALL and ATST write K[k] in the active lanes; a write to K0 is ignored. -/
def Obligations.PredicatesComplete : Prop :=
  ∀ (s : State) (f : Frag) (m : Marks) (k a b : Code) (c : BitVec 4) (cc kk : BitVec 3) (i : BitVec 10),
    let ty := f.g.type
    let w := typeWords ty
    let bit (n : Code) (l : Nat) : Bool := (f.g.kReg n.toNat).getLsbD l
    let decides (j : Instr) (v : Nat → Bool) : Prop := Runs s f j m {} → ∃ t, exec j s = .next t ∧ Decides s f m k.toNat v t
    let compares (j : Instr) (n : Need) (kn : Nat) (v : Nat → Bool × Nat) : Prop :=
      Runs s f j m n → Quiet s f (laneNums.map fun l => [(v l).2]) →
        ∃ t, exec j s = .next t ∧ Decides (s.countFp f (typeFmt ty) (laneNums.map fun l => [(v l).2]) f.active) f m kn (fun l => (v l).1) t
    compares (.cmp m k a b c) { typed := condTyped ty c.toNat, srcs := [opnd a w], srcB := some (opnd b w) } k.toNat
      (fun l => compare ty c.toNat (f.src a w l) (f.srcB b w l)) ∧
    compares (.cmpi m cc kk a i) { typed := condTyped ty cc.toNat, srcs := [opnd a w] } kk.toNat
      (fun l => compareImm ty cc.toNat (f.src a w l) i.toInt) ∧
    decides (.kand m k a b) (fun l => bit a l && bit b l) ∧
    decides (.kor m k a b) (fun l => bit a l || bit b l) ∧
    decides (.kxor m k a b) (fun l => bit a l ^^ bit b l) ∧
    decides (.knot m k a) (fun l => !bit a l) ∧
    decides (.kmov m k a) (fun l => bit a l) ∧
    decides (.kany m k a) (fun _ => (lanesOf f.active).any (bit a)) ∧
    decides (.kall m k a) (fun _ => (lanesOf f.active).all (bit a)) ∧
    (Runs s f (.atst m k a c) m { srcs := [opnd a 2] } → ∃ t, exec (.atst m k a c) s = .next t ∧
      Decides s f m k.toNat (fun l => ((s.decodeAddr (s.agentOf f.g) l (f.src a 2 l) 1).map (·.1)) = some c.toNat) t)

/-- R46, R129: a comparison of integers under I32 or I64 orders them as signed integers, under N32 or N64 as unsigned ones; EQ NE LT LE GT GE
are codes 0 to 5. -/
def Obligations.ConditionCodes : Prop :=
  (∀ a b : Word,
    (compare 0 0 a.toNat b.toNat).1 = (a == b) ∧ (compare 0 1 a.toNat b.toNat).1 = (a != b) ∧
    (compare 0 2 a.toNat b.toNat).1 = a.slt b ∧ (compare 0 3 a.toNat b.toNat).1 = a.sle b ∧
    (compare 0 4 a.toNat b.toNat).1 = b.slt a ∧ (compare 0 5 a.toNat b.toNat).1 = b.sle a ∧
    (compare 1 0 a.toNat b.toNat).1 = (a == b) ∧ (compare 1 1 a.toNat b.toNat).1 = (a != b) ∧
    (compare 1 2 a.toNat b.toNat).1 = a.ult b ∧ (compare 1 3 a.toNat b.toNat).1 = a.ule b ∧
    (compare 1 4 a.toNat b.toNat).1 = b.ult a ∧ (compare 1 5 a.toNat b.toNat).1 = b.ule a) ∧
  (∀ a b : BitVec 64,
    (compare 2 0 a.toNat b.toNat).1 = (a == b) ∧ (compare 2 1 a.toNat b.toNat).1 = (a != b) ∧
    (compare 2 2 a.toNat b.toNat).1 = a.slt b ∧ (compare 2 3 a.toNat b.toNat).1 = a.sle b ∧
    (compare 2 4 a.toNat b.toNat).1 = b.slt a ∧ (compare 2 5 a.toNat b.toNat).1 = b.sle a ∧
    (compare 3 0 a.toNat b.toNat).1 = (a == b) ∧ (compare 3 1 a.toNat b.toNat).1 = (a != b) ∧
    (compare 3 2 a.toNat b.toNat).1 = a.ult b ∧ (compare 3 3 a.toNat b.toNat).1 = a.ule b ∧
    (compare 3 4 a.toNat b.toNat).1 = b.ult a ∧ (compare 3 5 a.toNat b.toNat).1 = b.ule a)

/-- R145, R148, R150: VOTE gives the active lanes whose bit is set; XROT, XXOR and XBC take A of lane (l + b) mod 64, l xor b[5:0]
and b[5:0]; QSWPX, QSWPY, QSWPD and QBCST take A of a lane of the quad. -/
def Obligations.CrossLaneComplete : Prop :=
  ∀ (s : State) (f : Frag) (m : Marks) (d a b : Code) (x : BitVec 4),
    let w := typeWords f.g.type
    let n : Need := { srcs := [opnd a w], srcB := some (opnd b 1), dst := some (opnd d w) }
    let gives (i : Instr) (n : Need) (w : Nat) (v : Nat → Nat) : Prop := Runs s f i m n → ∃ t, exec i s = .next t ∧ Gives s f m d w f.active v t
    gives (.vote m d a) { dst := some (opnd d 2) } 2 (fun _ => (f.g.kReg a.toNat &&& f.active).toNat) ∧
    gives (.xrot m d a b) n w (fun l => f.src a w ((l + f.srcB b 1 l) % 64)) ∧
    gives (.xxor m d a b) n w (fun l => f.src a w (l ^^^ (f.srcB b 1 l % 64))) ∧
    gives (.xbc m d a b) n w (fun l => f.src a w (f.srcB b 1 l % 64)) ∧
    gives (.qswpx m d a) (typedDA anyType d a f) w (fun l => f.src a w (if l % 2 = 0 then l + 1 else l - 1)) ∧
    gives (.qswpy m d a) (typedDA anyType d a f) w (fun l => f.src a w (if l / 2 % 2 = 0 then l + 2 else l - 2)) ∧
    gives (.qswpd m d a) (typedDA anyType d a f) w (fun l => f.src a w (l / 4 * 4 + (3 - l % 4))) ∧
    gives (.qbcst m d a x) (typedDA anyType d a f) w (fun l => f.src a w (l / 4 * 4 + x.toNat))

/-- R149, R151, R152: XRED and XSCAN write the scan of the active lanes by six steps at distances 1 to 32; DDX and DDY write the difference of
a pair of the quad, and set QUADFAULT where an active lane has no complete pair, or the
group's quads are dissolved. Events are counted. That the scans count an event once for each lane and element (log 17) is the model's
choice. -/
def Obligations.ScansAndDerivativesComplete : Prop :=
  ∀ (s : State) (f : Frag) (m : Marks) (d a : Code) (x : BitVec 4) (op : BitVec 3) (e : Bool),
    let ty := f.g.type
    let w := typeWords ty
    let xs := scanAll ty f.g.round op.toNat (f.scanStart a)
    let scans (i : Instr) (v : Nat → Nat) : Prop :=
      Runs s f i m (typedDA (fun t => scanTyped t op.toNat) d a f) → Quiet s f (xs.map (·.evs)) →
        ∃ t, exec i s = .next t ∧ Gives (s.countFp f (typeFmt ty) (xs.map (·.evs)) (BitVec.allOnes 64)) f m d w f.active v t
    let derives (i : Instr) (axis : Nat) : Prop :=
      let rs (l : Nat) := f.deriv axis (x.toNat = 1) a l
      Runs s f i m (typedDA floatType d a f) → Quiet s f (laneNums.map fun l => (rs l).1.2) →
        exec i s = .next ((((s.countFp f (typeFmt ty) (laneNums.map fun l => (rs l).1.2) f.active).setQuadFault f
          (f.g.dissolved || (lanesOf f.active).any fun l => (rs l).2)).result f d w (laneNums.map fun l => (rs l).1.1) f.active).goOn f m)
    scans (.xred m d a op) (fun _ => (((xs[63]?).bind ScanLane.val)).getD 0) ∧
    scans (.xscan m d a e op) (fun l =>
      if e then (if l = 0 then identityOf ty op.toNat else (((xs[l - 1]?).bind ScanLane.val)).getD (identityOf ty op.toNat))
      else (((xs[l]?).bind ScanLane.val)).getD 0) ∧
    derives (.ddx m d a x) 0 ∧
    derives (.ddy m d a x) 1

/-! ## Control transfer -/

/-- R85, R156, R157, R158, R160: a branch in whose lanes the predicate holds nowhere goes on at its successor; one in all of them goes to
its target, CALL leaving the successor's address in G7:G6; a divergent BRA or CALL continues the taken lanes at the target, the others at the
successor in the other slot or on the stack; a divergent BRK also pushes a join record that expects the fragment's lanes.
The queue is emptied. The stack is the one that the group's record in the save area holds (R106). -/
def Obligations.BranchesComplete : Prop :=
  ∀ (s : State) (f : Frag) (m : Marks) (n : Bool) (k : BitVec 3) (i : BitVec 18) (jw : Word),
    let t := f.taken k n
    let target := branchTarget f.sl.pc i
    let jaddr := branchTarget f.sl.pc (jw.setWidth 18)
    let succ (ext : Nat) : Addr := f.sl.pc + BitVec.ofNat 64 (4 + 4 * ext + if m.p then 4 else 0)
    let full := if (f.g.slot? (otherSlot f.slot)).isSome then 1 else 0
    let q := s.stacked f
    let called := (q.g.setG 6 ((succ 0).setWidth 32)).setG 7 ((succ 0 >>> 32).setWidth 32)
    let g (link : Bool) : Group := if link then called else q.g
    let branches (j : Instr) (link : Bool) : Prop :=
      (t = 0 → exec j s = .next (s.jump q m 0 (succ 0))) ∧
      (t ≠ 0 → aligned4 target = true → (t = f.sl.mask → exec j s = .next (s.transfer q m 0 (g link) (f.sl.goTo target))) ∧
        (t ≠ f.sl.mask → q.g.dstack.length + full ≤ 64 → exec j s = .next (s.diverge q m 0 (g link) t target f.sl.join)))
    (Runs s f (.bra m n k i) m {} → branches (.bra m n k i) false) ∧
    (Runs s f (.call m n k i) m {} → f.g.regs.pend.contains 62 = false → f.g.regs.pend.contains 63 = false → branches (.call m n k i) true) ∧
    (Runs s f (.brk m n k i jw) m {} → aligned4 target = true → aligned4 jaddr = true →
      (t = f.sl.mask → exec (.brk m n k i jw) s = .next (s.jump q m 1 target)) ∧
      (t = 0 → t ≠ f.sl.mask → exec (.brk m n k i jw) s = .next (s.jump q m 1 (succ 1))) ∧
      (t ≠ 0 → t ≠ f.sl.mask → q.g.dstack.length + 1 + full ≤ 64 →
        exec (.brk m n k i jw) s = .next (s.diverge q m 1
          { q.g with dstack := q.g.dstack ++ [DEntry.record (freeJoin q.g.dstack) jaddr f.sl.mask 0 f.sl.join] } t target (some (freeJoin q.g.dstack)))))

/-- R87, R157: what a divergent transfer leaves in a group whose fragment has issued fewer than 64 instructions: the slot holds the taken
lanes at the target, the other lanes stand at the successor in the other slot, or pushed on the stack if that slot is taken; both keep the
join id, and the two masks partition the fragment's. -/
def Obligations.DivergenceSplitsLanes : Prop :=
  ∀ (s : State) (f : Frag) (m : Marks) (t : LaneMask) (target : Addr) (join : Option Nat),
    s.frag? = some f → f.sl.issued + 1 < 64 → m.p = false →
    let u := s.diverge f m 0 f.g t target join
    let rest := f.sl.mask &&& ~~~t
    let succ := f.sl.pc + 4
    ∃ h sl, u.group? f.g.gid = some h ∧ h.slot? f.slot = some sl ∧ sl.pc = target ∧ sl.mask = t ∧ sl.join = join ∧ h.queue f.slot = [] ∧
      h.regs = f.g.regs ∧ h.mode = f.g.mode ∧ (t &&& rest = 0) ∧ (t &&& f.sl.mask ||| rest = f.sl.mask) ∧
      (f.g.slot? (otherSlot f.slot) = none → h.dstack = f.g.dstack ∧ h.queue (otherSlot f.slot) = [] ∧
        ∃ o, h.slot? (otherSlot f.slot) = some o ∧ o.pc = succ ∧ o.mask = rest ∧ o.join = join) ∧
      (f.g.slot? (otherSlot f.slot) ≠ none → h.slot? (otherSlot f.slot) = f.g.slot? (otherSlot f.slot) ∧
        h.queue (otherSlot f.slot) = f.g.queue (otherSlot f.slot) ∧ h.dstack = f.g.dstack ++ [DEntry.frag succ rest join])

/-- R86, R159: a JOIN whose fragment has no record, or a record of another address, only empties the queue; the last arrival goes on behind the JOIN
with all the record's lanes and its parent, and the record is freed; an earlier arrival leaves its lanes in the record and frees the slot, which the
stack fills. -/
def Obligations.JoinCompletes : Prop :=
  ∀ (s : State) (x : Frag) (m : Marks), Runs s x (.join m) m {} →
    let f := s.stacked x
    (∀ id addr ex ar parent, f.sl.join.bind (findJoin f.g.dstack) = some (DEntry.record id addr ex ar parent) → addr = f.sl.pc →
      (ar ||| f.sl.mask = ex → exec (.join m) s = .next (s.transfer f m 0 { f.g with dstack := dropJoin f.g.dstack id }
        { f.sl.goTo (f.sl.succ m 0) with mask := ex, join := parent, issued := 0 })) ∧
      (ar ||| f.sl.mask ≠ ex → ∃ st, exec (.join m) s = .next (s.putDiverged ((({ f.g with dstack := st }.emptyQueue f.slot).issuedIn f.slot none).refill f.slot)) ∧
        findJoin st id = some (DEntry.record id addr ex (ar ||| f.sl.mask) parent) ∧ st.length = f.g.dstack.length)) ∧
    (∀ id addr ex ar parent, f.sl.join.bind (findJoin f.g.dstack) = some (DEntry.record id addr ex ar parent) → addr ≠ f.sl.pc →
      exec (.join m) s = .next (s.jump f m 0 (f.sl.succ m 0))) ∧
    (f.sl.join.bind (findJoin f.g.dstack) = none → exec (.join m) s = .next (s.jump f m 0 (f.sl.succ m 0)))

/-- R56, R161, R162, R164, R165, R166: RET goes to G7:G6 and JMPI to A of the lowest lane, where that is a multiple of 4; EXIT ends the
fragment's lanes; GROW parks until it is granted, and goes on where the growth is there already; TRAP takes the trap TRAP with its immediate
as AUX. A target that is no multiple of 4 traps MISALIGNED; that its record holds the target as ADDR and the fragment's mask as LANES is the
model's choice (log 25). -/
def Obligations.JumpsComplete : Prop :=
  ∀ (s : State) (f : Frag) (m : Marks) (a : Code) (i : BitVec 10) (x : BitVec 4),
    let dest := BitVec.ofNat 64 ((f.g.gReg 7).toNat * 2 ^ 32 + (f.g.gReg 6).toNat)
    let ja := BitVec.ofNat 64 (f.src a 2 f.low)
    let nGrow : Need := { legal := (s.launchOf f.g).any fun l => l.kd.allot = x.toNat }
    (Runs s f (.ret m) m { srcs := [⟨62, 2⟩] } →
      (dest.toNat % 4 = 0 → exec (.ret m) s = .next (s.transfer (s.stacked f) m 0 (s.stacked f).g (f.sl.goTo dest))) ∧
      (dest.toNat % 4 ≠ 0 → exec (.ret m) s = .next (s.takeTrap f (maskAt f.sl m 0) ⟨0x07, 0, dest.toNat, f.sl.mask⟩))) ∧
    (Runs s f (.jmpi m a) m { srcs := [opnd a 2] } →
      (ja.toNat % 4 = 0 → exec (.jmpi m a) s = .next (s.transfer (s.stacked f) m 0 (s.stacked f).g (f.sl.goTo ja))) ∧
      (ja.toNat % 4 ≠ 0 → exec (.jmpi m a) s = .next (s.takeTrap f (maskAt f.sl m 0) ⟨0x07, 0, ja.toNat, f.sl.mask⟩))) ∧
    (Runs s f (.exit m) m {} → exec (.exit m) s = .next (s.exitLanes f)) ∧
    (Runs s f (.grow m x) m nGrow →
      (f.g.grown = true → ∃ t, exec (.grow m x) s = .next t ∧ Passes s f m 0 f.g t) ∧
      (f.g.grown = false → exec (.grow m x) s = .next (s.park f (.grow (4 + if m.p then 4 else 0))))) ∧
    (Runs s f (.trap m i) m {} → exec (.trap m i) s = .next (s.takeTrap f (maskAt f.sl m 0) ⟨0x12, i.toNat, 0, f.sl.mask⟩))

/-! ## Memory -/

/-- R168, R169, R172, R232, R234: a load none of whose lanes traps and that no earlier access of the group holds has its result under way: LD
of every size and LDACQ, which first acquires at its lines. It is performed at issue, or on RC and UO pages, by a free choice, when its result
returns (the model's choice, log 18), but not where dirty bytes of its lines lie in the cluster (log 112). One that is held does nothing yet. -/
def Obligations.LoadsComplete : Prop :=
  ∀ (s : State) (f : Frag) (m : Marks) (d a b : Code) (i : BitVec 10) (x : BitVec 4),
    let loads (j : Instr) (size align : Nat) (acq : Option Nat) (addr : Nat → Nat) : Prop :=
      let w := sizeWords size
      let xs := s.checkLanes f.g .rd [0, 1, 2, 3] align (sizeBytes size) addr (lanesOf f.active)
      let lines := linesOfLanes xs
      let bs := xs.flatMap LaneAccess.pieces
      let kind : OutKind := .load ⟨d, w, size, xs.map fun y => (y.lane, BitVec.ofNat 64 y.addr), acq, f.slot, bitSpots bs⟩
      let after : Frag := { f with g := { f.g with lastRead := lines, readIn := none } }
      let c := if acq = none ∧ relaxedBits bs = true ∧ s.dirtyIn f.g lines = false then s.choose else (false, s)
      let u := c.2.noteRead f.g lines
      let walked := bs.foldl (fun (u : State) b => match b.spot with | .mem va t true => u.install (u.agentOf f.g) t va | _ => u) u
      let acquired := match acq with
        | some sc => lines.foldl (fun (u : State) ln => u.acquireLine f.g.core sc ln) u
        | none => u
      let r := acquired.performLoads f.g size xs
      Runs s f j m { srcs := [opnd a 2], dst := some (opnd d w), late := true, load := true } → lanesTrap 0 xs = none →
        (s.loadHeld f.g bs = true → exec j s = .next s) ∧
        (s.loadHeld f.g bs = false → ∃ t, exec j s = .next t ∧
          (c.1 = true → Awaits walked after m d w f.active (laneNums.map fun _ => 0) 3 kind t) ∧
          (c.1 = false → Awaits r.1 after m d w f.active r.2 0 kind t))
    let at_ (bytes l : Nat) : Nat := (BitVec.ofNat 64 (f.src a 2 l) + i.signExtend 64 * BitVec.ofNat 64 bytes).toNat
    loads (.ld8 m d a i) 0 1 none (at_ 1) ∧ loads (.ld8s m d a i) 1 1 none (at_ 1) ∧ loads (.ld16 m d a i) 2 1 none (at_ 2) ∧
    loads (.ld16s m d a i) 3 1 none (at_ 2) ∧ loads (.ld32 m d a i) 4 1 none (at_ 4) ∧ loads (.ld64 m d a i) 5 1 none (at_ 8) ∧
    loads (.ld128 m d a i) 6 1 none (at_ 16) ∧ loads (.ldacq m d a b x) x.toNat (sizeBytes x.toNat) (some b.toNat) (f.src a 2)

/-- R168, R169, R170, R172, R231, R232, R401: a store none of whose lanes traps and that no earlier access of the group holds is performed
in ascending lane order, helper lanes left out: ST of every size and STREL, which is performed at its home and recorded as a release at its
lines. One that is held does nothing yet. -/
def Obligations.StoresComplete : Prop :=
  ∀ (s : State) (f : Frag) (m : Marks) (d a b : Code) (i : BitVec 10) (x : BitVec 4),
    let stores (j : Instr) (size : Nat) : Prop :=
      let n := sizeBytes size
      let w := sizeWords size
      let addr (l : Nat) : Nat := (BitVec.ofNat 64 (f.src a 2 l) + i.signExtend 64 * BitVec.ofNat 64 n).toNat
      let xs := s.checkLanes f.g .wr [0, 1, 2, 3] 1 n addr (lanesOf f.writers)
      let held := s.writeHeld f.g (xs.flatMap LaneAccess.pieces)
      Runs s f j m { srcs := [opnd d w, opnd a 2] } → lanesTrap 1 xs = none →
        (held = true → exec j s = .next s) ∧
        (held = false → exec j s = .next (((s.performStores f.g n (f.src d w) xs).noteWrite f.g (linesOfLanes xs)).goOn f m))
    stores (.st8 m d a i) 0 ∧ stores (.st16 m d a i) 2 ∧ stores (.st32 m d a i) 4 ∧ stores (.st64 m d a i) 5 ∧ stores (.st128 m d a i) 6 ∧
    (let n := sizeBytes x.toNat
     let xs := s.checkLanes f.g .wr [0, 1, 2, 3] n n (f.src a 2) (lanesOf f.writers)
     Runs s f (.strel m d a b x) m { srcs := [opnd d (sizeWords x.toNat), opnd a 2] } → lanesTrap 1 xs = none →
      s.farPending f.g true (linesOfLanes xs) = false → s.relBusy f.g = false →
      s.lateAhead f.g (memLines (xs.flatMap LaneAccess.pieces)) = false →
        let at_ (u : State) (y : LaneAccess) : State :=
          (y.pieces.foldl (fun u b => u.bringBit (s.agentOf f.g) false b) u).homeBits (s.agentOf f.g) y.pieces (bytesOf (f.src d (sizeWords x.toNat) y.lane) n)
        let u := (linesOfLanes xs).foldl (fun u ln => u.recordRelease f.g.core (s.asidOf f.g) b.toNat ln) (xs.foldl at_ s)
        exec (.strel m d a b x) s = .next ((u.noteWrite f.g (linesOfLanes xs)).goOn f m))

/-- R10, R170, R200, R203, R204: ST to SCRATCH. Each byte of the team's allotment holds the byte of the highest-numbered active lane, no
helper, that stores to it, little-endian, or is as before; no other scratchpad, no byte of memory and no register changes. The stored address of a lane
is the one that the meaning computes. -/
def Obligations.ScratchStoreFrame : Prop :=
  ∀ (s : State) (f : Frag) (m : Marks) (d a : Code) (i : BitVec 10) (p : Pad),
    s.memoryOk → (s.teamOf f.g).bind (fun t => s.pad? t.pad) = some p → f.g.relScope = none → s.net.origs = [] → s.loadsOpen f.g = false →
    let stores (j : Instr) (size : Nat) : Prop :=
      let n := sizeBytes size
      let w := sizeWords size
      Runs s f j m { srcs := [opnd d w, opnd a 2] } →
      (∀ l ∈ lanesOf f.writers, scratchBase ≤ f.memAddr a i n l ∧ f.memAddr a i n l + n ≤ scratchBase + p.len) → p.len ≤ 2 ^ 48 →
        ∃ t q pads mons, exec j s = .next t ∧
          let u := (s.setPads pads).setMsys { s.msys with monitors := mons }
          Passes u f m 0 f.g t ∧ u.pad? p.pid = some q ∧ (∀ k, k ≠ p.pid → u.pad? k = s.pad? k) ∧
          ∀ o, q.bytes.byte o =
            match (lanesOf f.writers).reverse.find? fun l => f.memAddr a i n l ≤ scratchBase + o && scratchBase + o < f.memAddr a i n l + n with
            | some l => (bytesOf (f.src d w l) n).getD (scratchBase + o - f.memAddr a i n l) 0
            | none => p.bytes.byte o
    stores (.st8 m d a i) 0 ∧ stores (.st16 m d a i) 2 ∧ stores (.st32 m d a i) 4 ∧ stores (.st64 m d a i) 5 ∧ stores (.st128 m d a i) 6

/-- R173, R174, R238: FENCE acts at its scope and goes on once the group's earlier accesses are performed, and an acquire's once a WAITC that is
its last read instruction has ended; it waits before; ACVT's result is under way, with
each lane's address converted to the aperture. -/
def Obligations.FenceAndConvertComplete : Prop :=
  ∀ (s : State) (f : Frag) (m : Marks) (d a b : Code) (x : BitVec 4),
    let ap (l : Nat) : Option Nat := (s.decodeAddr (s.agentOf f.g) l (f.src a 2 l) 1).map (·.1)
    (Runs s f (.fence m b x) m {} → exec (.fence m b x) s = .next (if s.relBusy f.g ∨ (x ≠ 2 ∧ f.g.reading = true) then s else (s.fence f.g b.toNat x.toNat).goOn f m)) ∧
    (Runs s f (.acvt m d a x) m { srcs := [opnd a 2], dst := some (opnd d 2), late := true } → (∀ l ∈ lanesOf f.active, (ap l).isSome = true) →
      ∃ t, exec (.acvt m d a x) s = .next t ∧
        Awaits s f m d 2 f.active (laneNums.map fun l => s.convertAddr f.g l (f.src a 2 l) ((ap l).getD 0) x.toNat) 0 .alu t)

/-! ## Local atomics, barriers, rings, monitors -/

/-- R176, R177, R178, R179: the local atomics and ACAS perform their lanes in ascending order at the banks, and each active lane's old value
is under way, a helper lane's value free (log 92). The new value of a word o under operand v is o + v, the signed or unsigned lesser or greater, o and v, o or v, o xor v, or v.
-/
def Obligations.LocalAtomicsComplete : Prop :=
  ∀ (s : State) (f : Frag) (m : Marks) (d a b : Code) (c : BitVec 4),
    let completes (j : Instr) (w : Nat) (n : Need) (new : Nat → Nat → Nat) : Prop :=
      let xs := s.checkLanes f.g .wr [1, 2] (4 * w) (4 * w) (f.src a 2) (lanesOf f.writers)
      let r := s.localAtomics f.g (4 * w) new xs
      let u := ((r.1.noteRead f.g (linesOfLanes xs)).noteWrite f.g (linesOfLanes xs)).writerVals f (laneValues r.2)
      Runs s f j m n → lanesTrap 1 xs = none → s.loadsOpen f.g = false → s.farBusy f.g = false →
        (f.active &&& f.g.helper = 0 → u.2 = laneValues r.2) ∧ exec j s = .next ((u.1.resultLater f d w u.2 f.active 0 .alu).goOn f m)
    let n1 (w : Nat) : Need := { srcs := [opnd a 2], srcB := some (opnd b w), dst := some (opnd d w), late := true }
    let v (l : Nat) : Nat := f.srcB b 1 l
    let less (o l : Nat) : Bool := (BitVec.ofNat 32 o).slt (BitVec.ofNat 32 (v l))
    let more (o l : Nat) : Bool := (BitVec.ofNat 32 (v l)).slt (BitVec.ofNat 32 o)
    completes (.aadd m d a b) 1 (n1 1) (fun l o => (o + v l) % 2 ^ 32) ∧
    completes (.amin m d a b) 1 (n1 1) (fun l o => if more o l then v l else o) ∧
    completes (.aminU m d a b) 1 (n1 1) (fun l o => min o (v l)) ∧
    completes (.amax m d a b) 1 (n1 1) (fun l o => if less o l then v l else o) ∧
    completes (.amaxU m d a b) 1 (n1 1) (fun l o => max o (v l)) ∧
    completes (.aand m d a b) 1 (n1 1) (fun l o => o &&& v l) ∧
    completes (.aor m d a b) 1 (n1 1) (fun l o => o ||| v l) ∧
    completes (.axor m d a b) 1 (n1 1) (fun l o => o ^^^ v l) ∧
    completes (.axch m d a b) 1 (n1 1) (fun l _ => v l) ∧
    completes (.amax64 m d a b) 2 (n1 2) (fun l o => max o (f.srcB b 2 l)) ∧
    completes (.acas m d a b c) 1
      { srcs := [opnd a 2], srcB := some (opnd b 1), srcC := some (opnd (cCode d c) 1), dst := some (opnd d 1), late := true }
      (fun l o => if o = f.src (cCode d c) 1 l then v l else o)

/-- R180, R181, R182: BARI sets EXPECT from 1 to 32; BARA and BARW arrive, BARW parking for the phase unless it completes it; BARX posts a
byte count. -/
def Obligations.BarriersComplete : Prop :=
  ∀ (s : State) (f : Frag) (m : Marks) (a : Code) (i : BitVec 10) (b : Barrier),
    s.barrier? f.g i.toNat = some b →
    let v := f.src a 1 f.low
    let n := i.toNat
    let more := { b with arrived := b.arrived + 1 }
    (Runs s f (.bari m a i) m { srcs := [opnd a 1] } → 1 ≤ v → v ≤ 32 →
      exec (.bari m a i) s = .next ((s.putBarrier f.g.tid n { b with expect := v }).goOn f m)) ∧
    (Runs s f (.bara m i) m {} → b.arrived < b.expect → s.relBusy f.g = false →
      exec (.bara m i) s = .next ((s.putBarrier f.g.tid n more).goOn f m)) ∧
    (Runs s f (.barw m i) m {} → b.arrived < b.expect → s.relBusy f.g = false →
      exec (.barw m i) s = .next (if b.expect ≤ b.arrived + 1 ∧ b.balance = 0 then (s.putBarrier f.g.tid n more).goOn f m
        else (s.putBarrier f.g.tid n more).park f (.barw n b.phase (4 + if m.p then 4 else 0)))) ∧
    (Runs s f (.barx m a i) m { srcs := [opnd a 1] } → v < 2 ^ 31 → b.balance + v < 2 ^ 31 →
      exec (.barx m a i) s = .next ((s.putBarrier f.g.tid n { b with balance := b.balance + v, posted := true }).goOn f m))

/-- R180, R182: a barrier whose arrivals have reached EXPECT with a balance of 0 flips its phase, starts again at no arrivals, and lets every slot, 0 and 1, of
every group of the team that is parked for the old phase and not stopped go on behind its BARW; any other barrier only keeps its new numbers. -/
def Obligations.BarrierPhase : Prop :=
  ∀ (s : State) (t : Team) (n : Nat) (b : Barrier), s.team? t.tid = some t → n < t.barriers.length →
    let u := s.putBarrier t.tid n b
    let done := b.expect ≤ b.arrived ∧ b.balance = 0
    let pass (sl : Slot) : Slot := match sl.park with
      | some (.barw k p len) => if k = n ∧ p = b.phase ∧ sl.stop = none
          then { sl with pc := sl.pc + BitVec.ofNat 64 len, lit := none, issued := sl.issued + 1, park := none } else sl
      | _ => sl
    (¬done → u = s.putTeam { t with barriers := t.barriers.set n b }) ∧
    (done → ∃ t', u.team? t.tid = some t' ∧ t'.barriers[n]? = some { b with phase := !b.phase, arrived := 0, posted := false } ∧
      (∀ k, k ≠ n → t'.barriers[k]? = t.barriers[k]?) ∧ u.mem = s.mem ∧ u.pads = s.pads ∧
      u.groups = s.groups.map fun g => if g.tid = t.tid then { g with slot0 := g.slot0.map pass, slot1 := g.slot1.map pass } else g)

/-- R24, R81, R183, R184, R185, R186: SRPOST posts the words of lanes 0 to 15 to a ring with room; SRTAKE takes the head slot of a ring that has one,
lane l its word l mod 16; a ring takes the instructions of one cycle in the order of their issue slots; SRWAIT goes on at an empty ring; each parks otherwise, and its turn comes again. SRTAKE's registers are pending at
once. -/
def Obligations.StageRingsComplete : Prop :=
  ∀ (s : State) (f : Frag) (m : Marks) (d a : Code) (q : BitVec 2) (r : Ring),
    s.ring? f.g q.toNat = some r →
    let words := (List.range 16).map fun l => BitVec.ofNat 32 (f.src a 1 l)
    let slot := (r.head + r.count) % 8
    let now := s.clock (coreDie f.g.core)
    let posted : Ring :=
      { r with slots := r.slots.set slot words, phases := r.phases.modify slot (!·), count := r.count + 1, mark := some (now, f.g.islot) }
    let word (op fields : Nat) : List Word := [BitVec.ofNat 32 (m.s.toNat * 2 ^ 31 + m.p.toNat * 2 ^ 30 + op * 2 ^ 22 + fields + q.toNat)]
    let taken : Ring := { r with head := (r.head + 1) % 8, count := r.count - 1, mark := some (now, f.g.islot) }
    let inTurn := ∀ c i, r.mark = some (c, i) → c = now → i ≤ f.g.islot
    let seen : State := s.putRing f.g.tid q.toNat { r with mark := some (now, f.g.islot) }
    (Runs s f (.srpost m a q) m { srcs := [opnd a 1] } →
      (r.count ≠ 8 → s.relBusy f.g = false → inTurn → exec (.srpost m a q) s = .next ((s.putRing f.g.tid q.toNat posted).goOn f m)) ∧
      (r.count = 8 → inTurn → exec (.srpost m a q) s = .next (s.park f .srpost)) ∧
      (¬inTurn → exec (.srpost m a q) s = .next s)) ∧
    (Runs s f (.srtake m d q) m { dst := some (opnd d 1), late := true } →
      (r.count ≠ 0 → inTurn → ∃ t, exec (.srtake m d q) s = .next t ∧
        Awaits (s.putRing f.g.tid q.toNat taken) f m d 1 f.sl.mask (laneNums.map fun l => ((r.slots.getD r.head []).getD (l % 16) 0).toNat) 0 .alu t) ∧
      (r.count = 0 → inTurn → exec (.srtake m d q) s = .next (s.park f .srtake)) ∧
      (¬inTurn → exec (.srtake m d q) s = .next s)) ∧
    (Runs s f (.srwait m q) m {} →
      (r.count = 0 → inTurn → ∃ t, exec (.srwait m q) s = .next t ∧ Passes seen f m 0 f.g t) ∧
      (r.count ≠ 0 → inTurn → exec (.srwait m q) s = .next (s.park f .srwait)) ∧
      (¬inTurn → exec (.srwait m q) s = .next s)) ∧
    encode (.srpost m a q) = word 0xB8 (a.toNat * 2 ^ 10) ∧ encode (.srtake m d q) = word 0xB9 (d.toNat * 2 ^ 16) ∧ encode (.srwait m q) = word 0xBA 0

/-- R28, R187, R189: WAITC reads every active lane's location and goes on if each meets the condition, and else parks with its watches; TLWAIT goes on
once the counter has reached n; TLREAD's result is the counter. -/
def Obligations.MonitorsComplete : Prop :=
  ∀ (s : State) (f : Frag) (m : Marks) (d a b : Code) (c x : BitVec 4) (tl : Timeline),
    let w : WaitFor := ⟨c.toNat, typeWords f.g.type, f.g.type % 2 = 0, (lanesOf f.active).map fun l => ⟨l, f.src a 2 l, f.srcB b (typeWords f.g.type) l⟩⟩
    let xs := s.waitAccesses f.g w
    let r := (s.noteRead f.g (linesOfLanes xs)).waitRead f.g w xs
    let sb := if x = 4 then f.srcB b 1 f.low else 0
    let nb : Option Opnd := if x = 4 then some (opnd b 1) else none
    (Runs s f (.waitc m a b c) m { typed := f.g.type < 4, srcs := [opnd a 2], srcB := some (opnd b (typeWords f.g.type)) } →
      lanesTrap 0 xs = none → s.loadHeld f.g (xs.flatMap LaneAccess.pieces) = false →
        (r.2.left = [] → exec (.waitc m a b c) s = .next (r.1.goOn f m)) ∧
        (r.2.left ≠ [] → exec (.waitc m a b c) s =
          .next (((r.1.noteWaiting f.g f.slot).addMonitors (watchesOf f.g.gid f.slot r.2 xs)).park f (.waitc r.2 (4 + if m.p then 4 else 0))))) ∧
    (s.timeline? f.g x.toNat sb = some tl →
      (Runs s f (.tlwait m a b x) m { srcs := [opnd a 2], srcB := nb } → x = 4 ∨ f.src a 2 f.low ≤ tl.accepted →
        (f.src a 2 f.low ≤ tl.counter → ∃ t, exec (.tlwait m a b x) s = .next t ∧ Passes s f m 0 f.g t) ∧
        (tl.counter < f.src a 2 f.low → exec (.tlwait m a b x) s = .next (s.park f .tlwait))) ∧
      (Runs s f (.tlread m d b x) m { srcB := nb, dst := some (opnd d 2), late := true } →
        ∃ t, exec (.tlread m d b x) s = .next t ∧ Awaits s f m d 2 f.sl.mask (laneNums.map fun _ => tl.counter) 0 .alu t))

/-- R27: a context's timelines start at 0 and accept operation 1 first; each further operation has the next number; the counter is the greatest
number up to which every operation has completed, in whatever order they have, and never decreases. What a completion needs of a timeline it keeps. -/
def Obligations.TimelineCounts : Prop :=
  (∀ (gid tid n core args : Nat) (role : Role) (seat : Seat) (pc : Addr),
    let g := Group.start gid tid n role core seat pc args
    ∀ t ∈ [g.copy, g.samp, g.ray, g.gangTl], t.counter = 0 ∧ t.accept.accepted = 1 ∧ t.done = []) ∧
  ∀ (t : Timeline) (n : Nat), (∀ k ∈ t.done, t.counter < k) → t.done.Nodup → t.counter < n →
    let u := t.complete n
    let finished (k : Nat) : Prop := k ≤ t.counter ∨ k ∈ t.done ∨ k = n
    t.accept.accepted = t.accepted + 1 ∧ t.accept.counter = t.counter ∧ t.accept.done = t.done ∧
    (∀ k, k ≤ u.counter → finished k) ∧ ¬finished (u.counter + 1) ∧ t.counter ≤ u.counter ∧ u.accepted = t.accepted ∧
    u.done.Nodup ∧ (∀ k, k ∈ u.done ↔ u.counter < k ∧ finished k)

/-! ## System registers and system instructions -/

/-- R190, R191, R196, R197, R198, R199: MFS writes the register in every lane of the slot's mask; MTS writes what the lowest lane holds;
ERET goes on at an FWEPC that is a multiple of 4; HALT takes a held wake event or parks; CINV and CWB translate each lane's address and act on
its line or span; TLBI
starts a broadcast that holds the group; RGREL releases its region. That CINV drops the issuing core's L1 copies alone (log 88), and that RGREL
does nothing for an address of another module (log 89), is the model's choice. -/
def Obligations.SystemComplete : Prop :=
  ∀ (s : State) (f : Frag) (m : Marks) (d a b : Code) (i : BitVec 10) (x : BitVec 4),
    let die := coreDie f.g.core
    let hits (inv : Bool) : State :=
      ((lanesOf f.sl.mask).filterMap (s.mappedPa f a)).foldl (fun u pa => u.cacheOp f.g.core b.toNat (x.toNat = 1) inv pa)
        ((lanesOf f.sl.mask).foldl (fun u l => u.mapLane f a l) s)
    let walked := s.mapLane f a f.low
    let cast : Shootdown := ⟨s.ctl.nextId, x.toNat, f.srcB b 1 f.low % 65536, f.src a 2 f.low, some (f.g.gid, f.slot)⟩
    let held := s.setCtl { s.ctl with nextId := s.ctl.nextId + 1 }
    (Runs s f (.mfs m d i) m { priv := firmwareReg i.toNat, dst := some (opnd d 1) } → ∃ t, exec (.mfs m d i) s = .next t ∧
      Gives s f m d 1 f.sl.mask (fun l => s.sysReg f.g i.toNat l) t) ∧
    (Runs s f (.mts m a i) m { priv := firmwareReg i.toNat, srcs := [opnd a 1] } →
      exec (.mts m a i) s = .next ((s.writeSysReg f.g i.toNat (f.src a 1 f.low)).goOn f m)) ∧
    (Runs s f (.eret m) m { priv := true } → (s.die die).fwepc.toNat % 4 = 0 → exec (.eret m) s = .next (s.returnFirmware f)) ∧
    (Runs s f (.halt m) m { priv := true } →
      ((s.die die).wakeHeld = true → ∃ t, exec (.halt m) s = .next t ∧ Passes (s.modDie die fun y => { y with wakeHeld := false }) f m 0 f.g t) ∧
      ((s.die die).wakeHeld = false → exec (.halt m) s = .next (s.park f (.halt (4 + if m.p then 4 else 0))))) ∧
    (Runs s f (.cinv m a b x) m { srcs := [opnd a 2] } → exec (.cinv m a b x) s = .next ((hits true).goOn f m)) ∧
    (Runs s f (.cwb m a b x) m { srcs := [opnd a 2] } → exec (.cwb m a b x) s = .next ((hits false).goOn f m)) ∧
    (Runs s f (.tlbi m a b x) m { priv := true, srcs := [opnd a 2], srcB := some (opnd b 1) } → ∃ t, exec (.tlbi m a b x) s = .next t ∧
      Passes (held.setMsys { s.msys with shootdowns := s.msys.shootdowns ++ [cast] }) f m 0 f.g t) ∧
    (Runs s f (.rgrel m a) m { srcs := [opnd a 2] } → f.src a 2 f.low < 2 ^ 56 → ∀ pa, s.mappedPa f a f.low = some pa →
      exec (.rgrel m a) s = .next ((if pa < 2 ^ 46 ∧ (walked.msys.region.any fun r => r.1 = regionOf pa) = true
        then walked.releaseRegion (regionOf pa) else walked).goOn f m))

/-- R153, R154, R190, R191, R192, R193, R194, R195: reading a system register. GWIDTH is 64, LANEID the lane, GRPID the group's index, TEAMID
the team's place in its grid, CLID its rank above its cluster, COREID the core in the cluster, DIEID the module above the die, OSCOUNT the
outstanding results, TRAPREC AUX above CODE, LDCAP the core's, QUADFAULT and SPANLOST the group's; ASID, CTXID, CLASS, FPXCNT and FPXTHR the
context's; GZX, GZY and CLS_AREA those of the frame's view set, 0 without a frame; FWVEC, FWEPC and FWCAUSE the die's, low word first. MTS to
a read-only register leaves the state as it is; what MTS writes to FPXCNT, FPXTHR, GZX, GZY, FWVEC and FWEPC reads back, FWVEC with bits 1:0 as
zero, CLS_AREA as its low half, and FPXCNT and FPXTHR re-arm the thresholds that are not reached; ones written to QUADFAULT and SPANLOST clear
bits; a view-set register without a frame ignores a write. -/
def Obligations.SystemRegisters : Prop :=
  ∀ (s : State) (g : Group) (l v : Nat), v < 2 ^ 32 → coreDie g.core < s.dies.length →
    let d := s.die (coreDie g.core)
    s.sysReg g 0x000 l = 64 ∧ s.sysReg g 0x001 l = l ∧ s.sysReg g 0x002 l = g.grpId ∧ s.sysReg g 0x010 l = g.oscount ∧
    (∀ t, s.teamOf g = some t → s.sysReg g 0x003 l = t.ix ∧ s.sysReg g 0x004 l = t.iy ∧ s.sysReg g 0x005 l = t.iz ∧
      s.sysReg g 0x006 l = t.rank * 2 ^ 8 + coreCluster g.core % 48) ∧
    s.sysReg g 0x007 l = g.core % 4 ∧ s.sysReg g 0x008 l = s.net.moduleNo * 2 ^ 16 + coreDie g.core ∧
    s.sysReg g 0x013 l = g.quadFault.toNat ∧ (∀ k, k < 3 → s.sysReg g (0x014 + k) l = (g.spanLost.getD k 0).toNat) ∧
    (∀ c, s.ctxOf g = some c → s.sysReg g 0x020 l = c.asid ∧ s.sysReg g 0x021 l = c.ctxid ∧ s.sysReg g 0x022 l = c.cls ∧
      s.sysReg g 0x054 l = c.fpxThr ∧ ∀ i, i < 20 → s.sysReg g (0x040 + i) l = c.fpx.getD i 0) ∧
    (∀ c, s.ctxOf g = some c → ∀ i, i < 20 → c.fpx.length = 20 → c.fired.length = 20 →
      ((s.writeSysReg g (0x040 + i) v).sysReg g (0x040 + i) l = v ∧
        ∃ x, (s.writeSysReg g (0x040 + i) v).ctxOf g = some x ∧ x.fpx = c.fpx.set i v ∧ x.fpxThr = c.fpxThr ∧
          ∀ e, e < 20 → x.fired.getD e false = (c.fired.getD e false && decide (c.fpxThr ≤ x.fpx.getD e 0))) ∧
      ((s.writeSysReg g 0x054 v).sysReg g 0x054 l = v ∧
        ∃ x, (s.writeSysReg g 0x054 v).ctxOf g = some x ∧ x.fpx = c.fpx ∧
          ∀ e, e < 20 → x.fired.getD e false = (c.fired.getD e false && decide (v ≤ c.fpx.getD e 0)))) ∧
    (∀ fr, s.frameOf g = some fr → fr.die < s.dies.length → fr.vset < (s.die fr.die).viewSets.length →
      let w := fr.viewSetRegs s
      s.sysReg g 0x060 l = (w.gzx.getD 0 0).toNat ∧ s.sysReg g 0x061 l = (w.gzy.getD 0 0).toNat ∧ s.sysReg g 0x062 l = w.clsArea ∧
      (w.gzx ≠ [] → (s.writeSysReg g 0x060 v).sysReg g 0x060 l = v) ∧ (w.gzy ≠ [] → (s.writeSysReg g 0x061 v).sysReg g 0x061 l = v) ∧
      (s.writeSysReg g 0x062 v).sysReg g 0x062 l = v % 2 ^ 16) ∧
    (s.frameOf g = none → ∀ r, 0x060 ≤ r → r ≤ 0x062 → s.sysReg g r l = 0 ∧ s.writeSysReg g r v = s) ∧
    s.sysReg g 0x011 l = g.trap.aux * 65536 + g.trap.code ∧ s.sysReg g 0x012 l = (s.core g.core).ldcap ∧
    s.sysReg g 0x100 l + 2 ^ 32 * s.sysReg g 0x101 l = d.fwvec.toNat ∧ s.sysReg g 0x102 l + 2 ^ 32 * s.sysReg g 0x103 l = d.fwepc.toNat ∧
    s.sysReg g 0x104 l = d.fwcause.toNat ∧
    (∀ r, r ≤ 0x012 ∨ (0x020 ≤ r ∧ r ≤ 0x022) ∨ r = 0x104 → s.writeSysReg g r v = s) ∧
    (s.writeSysReg g 0x100 v).sysReg g 0x100 l = v - v % 4 ∧ (s.writeSysReg g 0x100 v).sysReg g 0x101 l = s.sysReg g 0x101 l ∧
    (s.writeSysReg g 0x101 v).sysReg g 0x101 l = v ∧ (s.writeSysReg g 0x101 v).sysReg g 0x100 l = s.sysReg g 0x100 l ∧
    (s.writeSysReg g 0x102 v).sysReg g 0x102 l = v ∧ (s.writeSysReg g 0x103 v).sysReg g 0x103 l = v ∧
    (∀ x, s.group? g.gid = some x → ∃ h, (s.writeSysReg g 0x013 v).group? g.gid = some h ∧ h = { g with quadFault := g.quadFault && v % 2 = 0 }) ∧
    (∀ x k, s.group? g.gid = some x → k < 3 → ∃ h, (s.writeSysReg g (0x014 + k) v).group? g.gid = some h ∧
      h = { g with spanLost := g.spanLost.modify k fun w => w &&& ~~~(BitVec.ofNat 32 v) })

/-! ## Far atomics, global queues, tasks -/

/-- R231, R232, R233, R250, R251, R252, R253, R254, R255, R256, R257: a far atomic none of whose lanes traps, behind the group's loads, its
far atomics to other lines and the context's loads of its lines, sends one request for each active lane that is no helper; a form with a result has it under way until
every lane's reply is back, `.nr` has none; the instruction goes on, and a pending FENCE.rel has become the requests' release. -/
def Obligations.FarAtomicsComplete : Prop :=
  ∀ (s : State) (f : Frag) (m : Marks) (d a b : Code) (n u : Bool) (z : BitVec 2) (c : BitVec 4),
    let sends (j : Instr) (need : Need) (op : Nat) (unsigned : Bool) (size w : Nat) (nr : Bool) (v c : Nat → Nat) : Prop :=
      let xs := s.checkLanes f.g .far [3] size size (f.src a 2) (lanesOf f.writers)
      let s0 := s.writerVals f (laneNums.map fun _ => 0)
      let s1 := if nr then s0.1 else s0.1.resultLater f d w s0.2 f.active xs.length .far
      let s2 := xs.foldl (fun (y : State) x => match x.pieces with
        | p :: _ => y.sendFar (y.agentOf f.g) f.g.gid f.slot x.lane f.sl.pc op unsigned size p (v x.lane) (c x.lane) f.g.relScope
            (if nr then .silent else .lane s.ctl.nextId x.lane)
        | [] => y) s1
      let s3 := if nr then s2 else s2.noteRead f.g (linesOfLanes xs)
      Runs s f j m need → lanesTrap 1 xs = none → s.loadsOpen f.g = false →
        s.farAcross f.g (linesOfLanes xs) = false → s.lateAhead f.g (memLines (xs.flatMap LaneAccess.pieces)) = false →
        ∃ g, s3.group? f.g.gid = some g ∧ exec j s = .next ((s3.putGroup { g with relScope := if xs.isEmpty then g.relScope else none }).goOn f m)
    let w := if z = 0 then 1 else 2
    let two (nr : Bool) : Need := { srcs := [opnd a 2], srcB := some (opnd b w), dst := if nr then none else some (opnd d w), late := !nr }
    let three (w : Nat) : Need :=
      { srcs := [opnd a 2], srcB := some (opnd b w), srcC := some (opnd (cCode d c) w), dst := some (opnd d w), late := true }
    sends (.madd m d a b n z) (two n) 0xC0 false (4 * w) w n (f.srcB b w) (fun _ => 0) ∧
    sends (.mmin m d a b n u z) (two n) 0xC1 u (4 * w) w n (f.srcB b w) (fun _ => 0) ∧
    sends (.mmax m d a b n u z) (two n) 0xC2 u (4 * w) w n (f.srcB b w) (fun _ => 0) ∧
    sends (.mand m d a b n z) (two n) 0xC3 false (4 * w) w n (f.srcB b w) (fun _ => 0) ∧
    sends (.mor m d a b n z) (two n) 0xC4 false (4 * w) w n (f.srcB b w) (fun _ => 0) ∧
    sends (.mxor m d a b n z) (two n) 0xC5 false (4 * w) w n (f.srcB b w) (fun _ => 0) ∧
    sends (.mxch m d a b n z) (two n) 0xC6 false (4 * w) w n (f.srcB b w) (fun _ => 0) ∧
    sends (.mcas m d a b c) (three 1) 0xC7 false 4 1 false (f.srcB b 1) (f.src (cCode d c) 1) ∧
    sends (.mfcs m d a) { srcs := [opnd a 2], dst := some (opnd d 1), late := true } 0xC8 false 8 1 false (fun _ => 0) (fun _ => 0) ∧
    sends (.mbim m d a b c) (three 1) 0xC9 false 4 1 false (f.srcB b 1) (f.src (cCode d c) 1) ∧
    sends (.mpls m d a b c) (three 1) 0xCA false 4 1 false (f.srcB b 1) (f.src (cCode d c) 1) ∧
    sends (.mcas64 m d a b c) (three 2) 0xCB false 8 2 false (f.srcB b 2) (f.src (cCode d c) 2)

/-- R253, R254, R255, R256, R257, R259: what each far atomic writes and answers for the old value, the operand and the third operand: MADD to MXCH on 4
and on 8 bytes, MCAS, MBIM and MPLS on 4, MFCS and MCAS.64 on 8; and combining two requests serves them as if one after the other: for every combinable operation, applying the combination of
operands a and b to a location is applying a and then b. -/
def Obligations.FarAtomicOperators : Prop :=
  ∀ (o v c : Word) (x y z : BitVec 64),
    let ap (op : Nat) (u : Bool) : Nat × Nat := farApply op u 4 o.toNat v.toNat c.toNat
    let ap8 (op : Nat) (u : Bool) : Nat × Nat := farApply op u 8 x.toNat y.toNat z.toNat
    ap 0xC0 false = ((o + v).toNat, o.toNat) ∧
    ap 0xC1 false = ((if v.slt o then v else o).toNat, o.toNat) ∧ ap 0xC1 true = ((if v.ult o then v else o).toNat, o.toNat) ∧
    ap 0xC2 false = ((if o.slt v then v else o).toNat, o.toNat) ∧ ap 0xC2 true = ((if o.ult v then v else o).toNat, o.toNat) ∧
    ap 0xC3 false = ((o &&& v).toNat, o.toNat) ∧ ap 0xC4 false = ((o ||| v).toNat, o.toNat) ∧
    ap 0xC5 false = ((o ^^^ v).toNat, o.toNat) ∧ ap 0xC6 false = (v.toNat, o.toNat) ∧
    ap 0xC7 false = ((if o = c then v else o).toNat, o.toNat) ∧
    ap 0xC9 false = (((o &&& ~~~c) ||| (v &&& c)).toNat, o.toNat) ∧
    ap 0xCA false = ((if ((List.range 32).filter fun i => (o ||| v).getLsbD i).length ≤ min (c.toNat % 64) 32 then o ||| v else o).toNat, o.toNat) ∧
    ap8 0xC0 false = ((x + y).toNat, x.toNat) ∧
    ap8 0xC1 false = ((if y.slt x then y else x).toNat, x.toNat) ∧ ap8 0xC1 true = ((if y.ult x then y else x).toNat, x.toNat) ∧
    ap8 0xC2 false = ((if x.slt y then y else x).toNat, x.toNat) ∧ ap8 0xC2 true = ((if x.ult y then y else x).toNat, x.toNat) ∧
    ap8 0xC3 false = ((x &&& y).toNat, x.toNat) ∧ ap8 0xC4 false = ((x ||| y).toNat, x.toNat) ∧
    ap8 0xC5 false = ((x ^^^ y).toNat, x.toNat) ∧ ap8 0xC6 false = (y.toNat, x.toNat) ∧
    ap8 0xCB false = ((if x = z then y else x).toNat, x.toNat) ∧
    (x = BitVec.allOnes 64 → farApply 0xC8 false 8 x.toNat 0 0 = (x.toNat, 0xFFFFFFFF)) ∧
    (x ≠ BitVec.allOnes 64 → ∃ i, i < 64 ∧ x.getLsbD i = false ∧ (∀ j, j < i → x.getLsbD j = true) ∧
      farApply 0xC8 false 8 x.toNat 0 0 = ((x ||| (1#64 <<< i)).toNat, i)) ∧
    (∀ (op w p a b : Nat) (u : Bool), 0xC0 ≤ op → op ≤ 0xC6 → 0 < w → p < 2 ^ w → a < 2 ^ w → b < 2 ^ w →
      farOp op u w p (farOp op u w a b) = farOp op u w (farOp op u w p a) b)

/-- R238, R252, R265, R266, R267, R270: QENQ and QDEQ, behind the group's earlier accesses, have a result under way for which each active
lane that is no helper takes an index at its descriptor, lower lanes first, and goes on to its slot as far as the slot's stamp lets it; QPOST
posts the lanes' entries to their shadows. The writes of each carry the release of a FENCE.rel before it. -/
def Obligations.QueuesComplete : Prop :=
  ∀ (s : State) (f : Frag) (m : Marks) (d a b : Code) (flush : Bool),
    let ls := lanesOf f.writers
    let queues (j : Instr) (enq : Bool) : Prop :=
      let xs := s.checkLanes f.g .wr [3] 64 64 (f.src a 2) ls
      let ys := s.checkLanes f.g (if enq then .rd else .wr) [1, 2, 3] 8 32 (f.srcB b 2) ls
      let ws : List StampWait := ls.map fun l => ⟨l, enq, 0, 0, 0, 0, BitVec.ofNat 64 (f.srcB b 2 l), some (f.src a 2 l), false, f.g.relScope⟩
      let u := s.writerVals f (laneNums.map fun _ => 0)
      let v := if enq then u.1 else u.1.noteRead f.g (linesOfLanes xs)
      let after : Frag := { f with g := if enq then f.g else { f.g with lastRead := linesOfLanes xs, readIn := none } }
      Runs s f j m { srcs := [opnd a 2], srcB := some (opnd b 2), dst := some (opnd d 2), late := true } →
        pairTrap 1 (if enq then 0 else 1) xs ys = none → s.relBusy f.g = false → s.out? s.ctl.nextId = none →
          ∃ t r g, Awaits v after m d 2 f.active u.2 0 (.queue ws) t ∧ t.out? s.ctl.nextId = some r ∧ r.kind = .queue ws ∧
            t.group? f.g.gid = some g ∧
            (let run := t.stampSteps g ws
             let h := if run.ws ≠ [] || run.res.any (fun p => p.2 < queueBad) then { g with relScope := none } else g
             exec j s = .next ((t.putGroup h).runStamps r h ws))
    let xs := s.checkLanes f.g .wr [1, 2] 64 64 (f.src a 2) ls
    let ys := s.checkLanes f.g .rd [1, 2, 3] 8 32 (f.srcB b 2) ls
    let posts := s.postLanes f.g flush (xs.zip ys)
    let noted := posts.1.noteWrite f.g ((xs.zip posts.2).flatMap fun p => posts.1.postLines p.1 p.2.2)
    let u := noted.writerVals f (laneValues posts.2)
    queues (.qenq m d a b) true ∧ queues (.qdeq m d a b) false ∧
    (Runs s f (.qpost m d a b flush) m { srcs := [opnd a 2], srcB := some (opnd b 2), dst := some (opnd d 1), late := true } →
      pairTrap 1 0 xs ys = none → s.relBusy f.g = false →
        exec (.qpost m d a b flush) s = .next ((u.1.resultLater f d 1 u.2 f.active 0 .alu).goOn f m))

/-- R266, R267: taking an index of a queue whose descriptor is read and whose counter can be written: an enqueue into a queue that is not
full takes TAIL and advances it, a dequeue of one that is not empty takes HEAD and advances it; full, empty and bad queues are answered 2^64
− 1 and 2^64 − 2, and nothing is written. -/
def Obligations.QueueIndexes : Prop :=
  ∀ (s u : State) (ag : Agent) (desc v : Nat), s.peekVa ag desc 64 = .ok (u, v) →
    let head := v % 2 ^ 64
    let tail := v / 2 ^ 64 % 2 ^ 64
    let log2n := v / 2 ^ 256 % 256
    let good := v / 2 ^ 264 = 0 ∧ 4 ≤ log2n ∧ log2n ≤ 20
    (¬good → ∀ enq, s.reserve ag desc enq = .ok (u, qdescOf v, 2 ^ 64 - 2)) ∧
    (good → 2 ^ log2n ≤ tail - head → s.reserve ag desc true = .ok (u, qdescOf v, 2 ^ 64 - 1)) ∧
    (good → tail ≤ head → s.reserve ag desc false = .ok (u, qdescOf v, 2 ^ 64 - 1)) ∧
    (good → tail - head < 2 ^ log2n → ∀ t, u.pokeVa ag (desc + 8) (bytesOf (tail + 1) 8) = .ok t → s.reserve ag desc true = .ok (t, qdescOf v, tail)) ∧
    (good → head < tail → ∀ t, u.pokeVa ag desc (bytesOf (head + 1) 8) = .ok t → s.reserve ag desc false = .ok (t, qdescOf v, head))

/-- R309, R310, R311, R312, R313: TKARM, TKGET, TKDONE and TKPOST with a TCB or pool that the task unit can read and write. TKARM refuses
a task that is neither unarmed nor done and a count of predecessors above 65,535, else it writes DEP, STATE and X and enqueues a task that is
ready; TKPOST enqueues a task that is unarmed, done or kept; TKDONE ends the task that the
group holds and works off its successors; TKGET takes an index of the pool's queue, answers 0 for an empty pool with nothing live, and parks
for one with something live; behind task work of the group that is not finished it parks too (the model's choice, log 93). -/
def Obligations.TasksComplete : Prop :=
  ∀ (s : State) (f : Frag) (m : Marks) (d a b : Code) (n : Bool) (x : BitVec 4),
    let tcb := f.src a 2 f.low
    let ag := s.taskAgent (s.ctxIdOf f.g) f.g.core
    let u := s.releaseAt ag tcb
    let clear (align : Nat) : Prop :=
      lanesTrap 1 (s.taskCheck f align tcb) = none ∧ s.relBusy f.g = false ∧ s.taskBusy f = false
    let preds := f.srcB b 1 f.low
    let dep := preds + x.toNat
    let rel := f.g.relScope
    let give (u : State) (w v : Nat) : State := (u.resultLater f d w (laneNums.map fun _ => v) f.sl.mask 0 .alu).goOn f m
    let noTask (u : State) (v : Nat) : State := (u.resultLater f d 2 (laneNums.map fun _ => v) f.sl.mask 0 .noTask).goOn f m
    (Runs s f (.tkarm m d a b x) m { srcs := [opnd a 2], srcB := some (opnd b 1), dst := some (opnd d 1), late := true } → clear 64 →
      ∀ z st, u.peekVa ag (tcb + 4) 1 = .ok (z, st) →
        (st ≠ 0 ∧ st ≠ 4 → exec (.tkarm m d a b x) s = .next (give z 1 0xFFFFFFFF)) ∧
        (st = 0 ∨ st = 4 → 65535 < preds → exec (.tkarm m d a b x) s = .next (give z 1 0xFFFFFFFE)) ∧
        (st = 0 ∨ st = 4 → preds ≤ 65535 → ∀ t, z.pokeVa ag tcb (bytesOf dep 4 ++ [if dep = 0 then 2 else 1, BitVec.ofNat 8 x.toNat]) = .ok t →
          let v := (t.relLine ag rel tcb).dropRel f.g
          exec (.tkarm m d a b x) s =
            .next (if dep = 0 then (v.beginWork f d 1 .arm { ag.work tcb 1 rel with blocked := some tcb }).goOn f m else give v 1 0))) ∧
    (Runs s f (.tkpost m d a n) m { srcs := [opnd a 2], dst := some (opnd d 2), late := true } → clear 64 →
      ∀ y z st pool t, u.peekVa ag (tcb + 4) 1 = .ok (y, st) → y.peekVa ag (tcb + 0x18) 8 = .ok (z, pool) →
        (st ≠ 0 ∧ st ≠ 4 ∧ st ≠ 5 → exec (.tkpost m d a n) s = .next (give z 2 (2 ^ 64 - 3))) ∧
        (st = 0 ∨ st = 4 ∨ st = 5 → (if n then (z.addVa ag (pool + 0x40) 8 1).map (fun y => y.1.relLine ag rel (pool + 0x40)) else .ok z) = .ok t →
          exec (.tkpost m d a n) s = .next (((t.dropRel f.g).beginWork f d 2 .post { ag.work tcb 0 rel with blocked := some tcb }).goOn f m))) ∧
    (Runs s f (.tkdone m d a) m { srcs := [opnd a 2], dst := some (opnd d 1), late := true } → f.g.task = some tcb → clear 64 →
      ∀ y y1 y2 t list k pool g, u.putVa ag (tcb + 4) 1 4 = .ok y → (y.relLine ag rel tcb).peekVa ag (tcb + 8) 8 = .ok (y1, list) →
        y1.peekVa ag (tcb + 0x10) 2 = .ok (y2, k) → y2.peekVa ag (tcb + 0x18) 8 = .ok (t, pool) → t.group? f.g.gid = some g →
          exec (.tkdone m d a) s = .next ((((t.putGroup { g with task := none }).dropRel f.g).beginWork f d 1 .done
            { ag.work tcb 0 rel with succs := (List.range k).map fun j => list + 8 * j, pool := pool }).goOn f m)) ∧
    (Runs s f (.tkget m d a b) m { srcs := [opnd a 2], srcB := some (opnd b 2), dst := some (opnd d 2), late := true } → s.holdsTask f = false →
      let dst := f.srcB b 2 f.low
      let xs := s.taskCheck f 128 tcb
      let ys := s.checkLanes f.g .wr [1, 2, 3] 8 32 (fun _ => dst) [f.low]
      pairTrap 1 1 xs ys = none → s.relBusy f.g = false →
        (s.taskBusy f = true → exec (.tkget m d a b) s = .next (s.park f (.tkget (4 + if m.p then 4 else 0) true false))) ∧
        let w := s.dropMonitors (Monitor.isTkget f.g.gid f.slot)
        ∀ t q r, s.taskBusy f = false → w.reserve ag tcb false = .ok (t, q, r) →
          (r < queueBad → exec (.tkget m d a b) s = .next ((((t.relLine ag rel tcb).dropRel f.g).resultLater f d 2 (laneNums.map fun _ => 0) f.sl.mask 1
            (.tkget ⟨f.low, false, r, q.ring, q.stamps, q.log2n, BitVec.ofNat 64 dst, none, false, rel⟩)).goOn f m)) ∧
          (r = queueBad → exec (.tkget m d a b) s = .next (noTask t r)) ∧
          (∀ z live, t.peekVa ag (tcb + 0x40) 8 = .ok (z, live) → r = queueFull → live = 0 ∨ 2 ^ 63 ≤ live → exec (.tkget m d a b) s = .next (noTask z 0)) ∧
          (∀ z live, t.peekVa ag (tcb + 0x40) 8 = .ok (z, live) → r = queueFull → 0 < live → live < 2 ^ 63 →
            exec (.tkget m d a b) s = .next ((z.tkgetWatch ag f.g.gid f.slot tcb).park f (.tkget (4 + if m.p then 4 else 0) false false))))

/-! ## Copies and the matrix engine -/

/-- R30, R246, R323, R324, R325, R330, R331, R332, R333: a copy command whose descriptor can be read and is legal, behind the group's earlier
accesses, is accepted where the context holds fewer than 32 operations: it stands last in the group's copy context with the next number, which
is its result, and the engine knows of the context's work; CBMRD reads a bitmap. -/
def Obligations.CopiesComplete : Prop :=
  ∀ (s : State) (f : Frag) (m : Marks) (d a : Code) (b nf : Bool) (x : BitVec 4),
    let need : Need := { role := f.g.role.copies, srcs := [opnd a 2], dst := some (opnd d 2), late := true }
    let accepts (j : Instr) (op x : Nat) : Prop :=
      let xs := s.checkLanes f.g .rd [1, 2, 3] (copyDescSize op) (copyDescSize op) (fun _ => f.src a 2 f.low) [f.low]
      let bits := xs.flatMap LaneAccess.pieces
      let u := bits.foldl (fun (u : State) b => u.bringBit (u.agentOf f.g) true b) s
      let o : CopyOp := ⟨f.g.copy.accepted + 1, op, u.readBits f.g.core bits, x, [], [], none, false⟩
      let v := u.putGroup { f.g with copy := { f.g.copy with accepted := f.g.copy.accepted + 1 }, copyOps := f.g.copyOps ++ [o] }
      Runs s f j m need → f.g.copyOps.length < 32 → lanesTrap 0 xs = none → s.relBusy f.g = false →
        u.copyLegal f.g { o with n := 0 } = true → u.copyAperture f.g { o with n := 0 } = none →
          exec j s = .next (((v.engineAccept (coreDie f.g.core) (copyEngine f.g.core) (v.ctxIdOf f.g) true (v.copiesWaiting f.g.core)).resultLater
            f d 2 (laneNums.map fun _ => f.g.copy.accepted + 1) f.sl.mask 0 .engine).goOn f m)
    let ys := s.checkLanes f.g .rd [1, 2, 3] 8 8 (fun _ => f.src a 2 f.low) [f.low]
    let r := s.engineReads (s.agentOf f.g) (ys.flatMap LaneAccess.pieces)
    accepts (.cpy m d a b) 0xD8 b.toNat ∧ accepts (.cpym m d a x) 0xD9 x.toNat ∧ accepts (.cpys m d a b) 0xDA b.toNat ∧
    accepts (.cpyt m d a b) 0xDB b.toNat ∧ accepts (.cpyg m d a nf b) 0xDC (b.toNat + 2 * nf.toNat) ∧ accepts (.cpyx m d a nf b) 0xDD (b.toNat + 2 * nf.toNat) ∧
    (Runs s f (.cbmrd m d a) m need → f.g.copyOps.length < 32 → lanesTrap 0 ys = none → s.loadHeld f.g (ys.flatMap LaneAccess.pieces) = false →
      exec (.cbmrd m d a) s = .next (((r.1.noteRead f.g (linesOfLanes ys)).resultLater f d 2 (laneNums.map fun _ => ofBytes r.2) f.sl.mask 0 .alu).goOn f m))

/-- R30, R363, R364, R365, R367, R369, R371, R374, R375, R376, R377: GANG joins a gang; MMA, MMAZ, ACCLD, ACCST and MFREE are issued to the gang, whose held
operation of this number takes the member's part, and the cluster's engine knows of the context's work, or whose number has already been discarded
(log 57); ACCRD's result is two rows of a tile or tile pair; MBURST holds the arrays warm. -/
def Obligations.MatrixComplete : Prop :=
  ∀ (s : State) (f : Frag) (m : Marks) (a b d t w : Code) (x : BitVec 4) (y : BitVec 3) (tm : Team) (gang : Gang),
    s.teamOf f.g = some tm →
    let role := f.g.role.matrices
    let ctx := s.ctxIdOf f.g
    let cl := coreCluster f.g.core
    let word := f.src a 1 f.low
    let q := s.fslot f.g y.toNat
    let nb := s.bRegs f.g q
    let addr := f.src a 2 f.low
    let issued (i : GangInsn) (o' : GangOp) : State :=
      let k := f.g.gangTl.accepted + 1
      let held := gang.ops.find? fun o => o.k = k
      let u := ((s.claimTiles gang.cluster tm.ctx i.tiles).putGang { gang with
        ops := if held.isSome then put GangOp.k o' gang.ops else gang.ops ++ [o'] }).putGroup { f.g with gangTl := { f.g.gangTl with accepted := k } }
      (u.engineAccept (gang.cluster / 48) (matrixEngine gang.cluster) gang.ctx (gang.eligible o') (u.gangsWaiting gang.cluster)).goOn f m
    let joins (j : Instr) (need : Need) (i : GangInsn) (addr b n : Nat) : Prop :=
      let me := gang.memberOf f.g.gid
      let k := f.g.gangTl.accepted + 1
      let held := gang.ops.find? fun o => o.k = k
      let block := s.checkAccess (s.agentOf f.g) .wr [1, 2] 64 0 addr (i.touchLen gang.size me)
      let pad : Option Nat := match block with
        | .ok (⟨.pad p _, _⟩ :: _) => some p
        | _ => none
      ∀ scale, Runs s f j m need → s.gangFull = false → s.relBusy f.g = false → s.gangOf f.g = some gang →
        (i.hasBlock = true → ∃ bs, block = .ok bs) → ¬(i.hasBlock = true ∧ i.q.wide = true ∧ i.t % 2 = 1) →
        (if i.op = 0xE1 ∧ 2 ≤ i.q.scale then s.scaleVector gang tm i.q else some []) = some scale →
        s.mayOwn gang.cluster tm.ctx i.tiles = true → (∀ o, held = some o → o.op = i.op ∧ o.t = i.t ∧ o.x = i.x) →
          (f.g.gangOver k = false → ∃ o', o' = (held.getD ⟨k, firstWord j, i.op, i.t, i.x, [], [], [], [], []⟩).add me (BitVec.ofNat 64 (if i.hasBlock then addr else 0))
              (if i.hasBlock then pad else none) (f.partBytes b n) scale ∧
            exec j s = .next (issued i o')) ∧
          (f.g.gangOver k = true → exec j s =
            .next (((s.claimTiles gang.cluster tm.ctx i.tiles).putGroup { f.g with gangTl := { f.g.gangTl with accepted := k } }).goOn f m))
    (Runs s f (.gang m a x) m { role := role, srcs := [opnd a 1] } → s.gangHeld f.g = false → s.gangLegal f.g word x.toNat = true →
      (∀ g ∈ s.gangsAwaiting f.g, g.word.toNat = word) → exec (.gang m a x) s = .next ((s.runGang f tm (BitVec.ofNat 32 word) x.toNat).goOn f m)) ∧
    joins (.mma m t a b y) { role := role, srcs := [opnd a 2] ++ if nb = 0 then [] else [opnd b nb] } ⟨0xE1, t.toNat, y.toNat, q⟩ addr b.toNat nb ∧
    joins (.mmaz m t a b y) { role := role, srcs := [opnd a 2] ++ if nb = 0 then [] else [opnd b nb] } ⟨0xE1, t.toNat, y.toNat + 8, q⟩ addr b.toNat nb ∧
    joins (.accld m t a y) { role := role, srcs := [opnd a 2] } ⟨0xE2, t.toNat, y.toNat, q⟩ addr 0 0 ∧
    joins (.accst m t a y) { role := role, srcs := [opnd a 2] } ⟨0xE3, t.toNat, y.toNat, q⟩ addr 0 0 ∧
    joins (.mfree m t) { role := role } ⟨0xE6, t.toNat, 0, fslotOf 0⟩ 0 0 0 ∧
    (let n := w.toNat + 1
     let ts := if w.toNat = 1 then [t.toNat, t.toNat + 1] else [t.toNat]
     let c := (s.claimTiles cl ctx ts).cluster cl
     Runs s f (.accrd m d t w x) m { role := role, dst := some (opnd d n), late := true } → s.mayOwn cl ctx ts = true →
      ∃ u, exec (.accrd m d t w x) s = .next u ∧ Awaits (s.claimTiles cl ctx ts) f m d n f.sl.mask
        (laneNums.map fun l => c.acc (w.toNat = 1) t.toNat (2 * x.toNat + l / 32) (l % 32)) 0 .alu u) ∧
    (let cores := match s.gangOf f.g with | some z => s.gangCores z | none => [f.g.core]
     Runs s f (.mburst m x) m { role := role } → ∃ u, exec (.mburst m x) s = .next u ∧
      Passes (s.modCluster cl fun c =>
        { c with arrays := cores.foldl (fun as k => as.modify (k % 4) fun r => r.burst (s.clock (coreDie f.g.core)) x.toNat) c.arrays }) f m 0 f.g u)

/-! ## Graphics -/

/-- R393, R394, R395: EMITV writes the staging slots of the fragment's lanes, and the group, emitting from then on, no longer stops for a request; EMITP with no reserved bit set stages its primitives. -/
def Obligations.EmitsComplete : Prop :=
  ∀ (s : State) (f : Frag) (m : Marks) (a b : Code) (x : BitVec 4),
    let n := 4 * x.toNat
    let attr (l : Nat) : Nat := if n = 0 then 0 else f.src b n l
    let old := if f.g.vslots = [] then List.replicate 64 VSlot.empty else f.g.vslots
    let views := ((s.frameOf f.g).map fun fr => fr.views.length).getD 0
    (Runs s f (.emitv m a b x) m
        { role := f.g.role.vectors, legal := f.sl.lit.isNone && f.g.meshlet?.isSome, srcs := [opnd a 4], srcB := (if n = 0 then none else some (opnd b n)) } →
      ∃ t vs, exec (.emitv m a b x) s = .next t ∧ Passes s { f with g := { f.g with vslots := vs } } m 0 { f.g with vslots := vs } t ∧ vs.length = old.length ∧
        ∀ l, vs[l]? = (old[l]?).map fun v =>
          if f.sl.mask.getLsbD l then ⟨true, wordsOf (f.src a 4 l) 4, wordsOf (attr l) 16⟩ else v) ∧
    (Runs s f (.emitp m a b) m { role := f.g.role.vectors, legal := f.g.meshlet?.isSome, srcs := [opnd a 1], srcB := some (opnd b 1) } →
      (∀ l ∈ lanesOf f.sl.mask, emitReserved (f.src a 1 l) (f.srcB b 1 l) = false) →
        exec (.emitp m a b) s = .next ((s.putGroup ((lanesOf f.sl.mask).foldl (fun g l => g.emitPrim (f.src a 1 l) (f.srcB b 1 l) views) f.g)).goOn f m))

/-- R231, R232, R238, R405, R415, R416: FBRD's result is each lane's tile word, or, with X = 2, the area's address; FBWR writes each lane's sample,
behind the group's far atomics and loads where it is performed at once, and carries the release of a FENCE.rel before it. Both need
handles of the group's own frame and, to touch samples, tiles of its own core. -/
def Obligations.FramebufferComplete : Prop :=
  ∀ (s : State) (f : Frag) (m : Marks) (d a b : Code) (x : BitVec 4),
    let n := if x = 0 then 1 else 2
    let smp (l : Nat) : Nat := f.srcB b 1 l
    let ls := lanesOf f.sl.mask
    let hs := s.goodHandles f.g (f.src a 1) ls
    let word (l : Nat) : Nat := match hs.find? fun y => y.1 = l with
      | some (_, fr, h) => if x = 2 then s.areaAddress f.g fr h else s.tileWord fr h (x = 1) (smp l)
      | none => 0
    let ws := lanesOf (f.sl.mask &&& ~~~f.g.helper)
    let live := (s.goodHandles f.g (f.src a 1) ws).filter fun y => !s.deadSample y.2.1 y.2.2 (sampleU (smp y.1)) (sampleV (smp y.1))
    let mine (y : Nat × Frame × Handle) : Prop :=
      y.2.1.inTile y.2.2 (sampleU (smp y.1)) (sampleV (smp y.1)) = true ∧ y.2.1.owner y.2.2.view y.2.2.tile = f.g.core
    (Runs s f (.fbrd m d a b x) m { role := f.g.role.vectors, srcs := [opnd a 1], srcB := (if x = 2 then none else some (opnd b 1)), dst := some (opnd d n), late := true } →
      s.badHandles f.g (f.src a 1) ls = [] → (x = 2 ∨ ∀ y ∈ hs, mine y) →
        ∃ t, exec (.fbrd m d a b x) s = .next t ∧ Awaits s f m d n f.sl.mask (laneNums.map word) 0 .alu t) ∧
    (Runs s f (.fbwr m d a b x) m { role := f.g.role.vectors, srcs := [opnd d 1, opnd a 1], srcB := some (opnd b 1) } →
      s.badHandles f.g (f.src a 1) ws = [] → (∀ y ∈ live, mine y) →
      f.g.batch?.isSome = true ∨ (s.farBusy f.g = false ∧ s.loadsOpen f.g = false) →
        exec (.fbwr m d a b x) s =
          let u := live.foldl (fun t y => t.writeSample f.g y.2.1.fid y.2.2 x.toNat (smp y.1) (f.src d 1 y.1)) s
          .next ((if s.anyWrites f.g live smp then u.dropRel f.g else u).goOn f m))

/-- R414, R417, R427, R432: TRET, LATE and EGRS name a live tile by a handle. TRET of a closed tile answers at once, and else once its tile
is complete; LATE answers the cycles to the strip's deadline, saturated, for a real-time context, and 7FFFFFFF for another; EGRS enters its
stream with the next number. TRET and EGRS park where the strip has not latched. -/
def Obligations.TilesComplete : Prop :=
  ∀ (s : State) (f : Frag) (m : Marks) (d a b : Code) (x : BitVec 4) (fr : Frame) (h : Handle),
    s.handleOf f.g (f.src a 1 f.low) = some (fr, h) →
    let tret : Need := { role := f.g.role.vectors, srcs := [opnd a 1], dst := some (opnd d 1), late := true }
    let egrs : Need := { role := f.g.role.vectors, srcs := [opnd a 1], srcB := some (opnd b 2), dst := some (opnd d 2), late := true }
    let deadline := ((fr.views[h.view]?).map fun w => w.deadlineOf h.strip).getD 0
    let slack := if s.clsOf f.g = 0 then satS32 ((deadline : Int) - s.viewClock fr) else 0x7FFFFFFF
    (Runs s f (.tret m d a) m tret → s.warpOf fr h.view h.strip = none → exec (.tret m d a) s = .next (s.park f .latch)) ∧
    (∀ p, Runs s f (.tret m d a) m tret → s.warpOf fr h.view h.strip = some p → p.tileLive h.tile = true → fr.owner h.view h.tile = f.g.core →
      (s.tretClosed fr (fr.area h.view h.tile) h.strip = true →
        exec (.tret m d a) s = .next (((s.resultLater f d 1 (laneNums.map fun _ => tretNone) f.sl.mask 0 .alu).retireArea fr.fid h).goOn f m)) ∧
      (s.tretClosed fr (fr.area h.view h.tile) h.strip = false → ∃ t, exec (.tret m d a) s = .next t ∧
        Awaits s f m d 1 f.sl.mask (laneNums.map fun _ => 0) 1 (.tret fr.fid h.view h.strip h.tile) t)) ∧
    (Runs s f (.late m d a) m tret → ∃ t, exec (.late m d a) s = .next t ∧ Awaits s f m d 1 f.sl.mask (laneNums.map fun _ => slack) 0 .alu t) ∧
    (Runs s f (.egrs m d a b x) m egrs → s.warpOf fr h.view h.strip = none → exec (.egrs m d a b x) s = .next (s.park f .latch)) ∧
    (∀ p pid off y, Runs s f (.egrs m d a b x) m egrs → s.warpOf fr h.view h.strip = some p → p.tileLive h.tile = true → fr.owner h.view h.tile = f.g.core →
      let src := f.srcB b 2 f.low
      let bytes := 4 * (p.display h.tile).2.2.1 * (p.display h.tile).2.2.2
      s.imagePlace f.g src bytes = some (pid, off) → src % 4 = 0 → (s.ctx? (s.ctxIdOf f.g)).bind (fun c => c.streams[x.toNat]?) = some y →
        let k := y.tl.accepted + 1
        let o : EgrOp := ⟨k, fr.fid, h.view, h.strip, h.tile, f.g.core, pid, off, fr.egressTaken h, none, false, none⟩
        let t := s.resultLater f d 2 (laneNums.map fun _ => k) f.sl.mask 0 .engine
        let t := if fr.egressTaken h then t else t.putFrame { fr with claimed := fr.claimed ++ [(h.view, h.strip, h.tile)] }
        let t := t.modStream (s.ctxIdOf f.g) x.toNat fun z => ⟨{ z.tl with accepted := z.tl.accepted + 1 }, z.ops ++ [o]⟩
        s.relBusy f.g = false → bytes ≠ 0 → exec (.egrs m d a b x) s = .next ((t.engineAccept fr.die selvedge (s.ctxIdOf f.g) true (t.egressWaiting fr.die)).goOn f m))

/-- R30, R419, R420, R421, R435, R436, R437: behind the group's earlier accesses, TEX, TEXG, RAY and RAYQ are accepted by the group's sampler
queue and ray-query context with the next number, their results under way, and the unit knows of the context's work; RGRP enters the rendezvous of its team. -/
def Obligations.SamplingComplete : Prop :=
  ∀ (s : State) (f : Frag) (m : Marks) (d a b : Code) (x : BitVec 2) (v : Bool) (y : BitVec 4),
    let samples (j : Instr) (gather : Bool) : Prop :=
      let xs := s.checkLanes f.g .rd [1, 2, 3] 64 64 (fun _ => f.srcB b 2 f.low) [f.low]
      let bits := xs.flatMap LaneAccess.pieces
      let u := bits.foldl (fun (u : State) b => u.bringBit (u.agentOf f.g) true b) s
      let r := u.readBits f.g.core bits
      let q := samplerOf r
      let n := samplerArgWords q gather x.toNat
      let o : SampOp := ⟨f.g.samp.accepted + 1, u.ctl.nextId, gather, x.toNat, r, laneNums.map (f.src a n), f.sl.mask, f.g.dissolved, none, false⟩
      Runs s f j m { role := f.g.role.vectors, srcs := [opnd a 2], srcB := some (opnd b 2), dst := some (opnd d 4), late := true } →
        f.g.sampOps.length < 32 → lanesTrap 0 xs = none → s.relBusy f.g = false →
        q.ok r gather = true → (opnd a n).inAllot f.g.allot = true → q.badAperture = none → f.readTrap [opnd a n] = none →
          let v := u.putGroup { f.g with
            samp := { f.g.samp with accepted := f.g.samp.accepted + 1 }, sampOps := f.g.sampOps ++ [o], quadFault := f.g.quadFault || quadMissing o q }
          exec j s = .next (((v.engineAccept (coreDie f.g.core) (textureUnit f.g.core) (v.ctxIdOf f.g) true (v.samplersWaiting f.g.core)).resultLater f d 4 (laneNums.map fun _ => 0) f.sl.mask 1 .engine).goOn f m)
    let traces (j : Instr) (anyHit : Bool) : Prop :=
      let n := if v then 4 else 8
      let w := if anyHit then 1 else 4
      let header := f.srcB b 2 f.low
      let word (l k : Nat) : Nat := f.src a n l / 2 ^ (32 * k) % 2 ^ 32
      let hs := s.goodHandles f.g (fun l => word l 0) (lanesOf f.sl.mask)
      let arg (l : Nat) : Nat :=
        if !v then f.src a n l
        else match hs.find? fun z => z.1 = l with
          | none => 0
          | some (_, fr, h) => match fr.views[h.view]?, s.warpOf fr h.view h.strip with
            | some w, some p => w.rayWords p (sampleU (word l 1)) (sampleV (word l 1)) (word l 2) (word l 3)
            | _, _ => 0
      let o : RayOp := ⟨f.g.ray.accepted + 1, s.ctl.nextId, anyHit, v, BitVec.ofNat 64 header, laneNums.map arg, f.sl.mask, none, false⟩
      Runs s f j m { role := f.g.role.vectors, srcs := [opnd a n], srcB := some (opnd b 2), dst := some (opnd d w), late := true } →
        f.g.rayOps.length < 32 →
        (v = true → s.badHandles f.g (fun l => word l 0) (lanesOf f.sl.mask) = [] ∧ ∀ z ∈ hs, (s.warpOf z.2.1 z.2.2.view z.2.2.strip).isSome = true) →
        header % 64 = 0 → header < 2 ^ 56 → s.relBusy f.g = false →
          let u := s.putGroup { f.g with ray := { f.g.ray with accepted := f.g.ray.accepted + 1 }, rayOps := f.g.rayOps ++ [o] }
          exec j s = .next (((u.engineAccept (coreDie f.g.core) (rayUnit f.g.core) (u.ctxIdOf f.g) true (u.raysWaiting f.g.core)).resultLater
              f d w (laneNums.map fun _ => 0) f.sl.mask 1 .engine).goOn f m)
    let k := y.toNat + 1
    samples (.tex m d a b x) false ∧ samples (.texg m d a b x) true ∧ traces (.ray m d a b v) false ∧ traces (.rayq m d a b v) true ∧
    (Runs s f (.rgrp m v a y) m
        { role := f.g.role.vectors, late := true, legal := (Opnd.mk 16 k).inAllot f.g.allot && (f.g.slot? (1 - f.slot)).isNone, srcs := [opnd a 1, ⟨16, k⟩] } →
      (v = true → ∃ l, s.launchOf f.g = some l ∧ l.clsize ≠ 0) →
      (∀ h ∈ s.groupsOf f.g.tid, h.gid ≠ f.g.gid → ∀ i sl r c key len, h.rgrpSlot = some (i, sl, r, c, key, len) → r = v ∧ c = k) →
        exec (.rgrp m v a y) s = .next ((s.park f (.rgrp v k a.toNat (4 + if m.p then 4 else 0))).regroupTeam f.g.tid v k))

/-! ## Events of the core and the fabric -/

/-- R42, R43, R81, R360: a result of a long-latency, far atomic or engine instruction that is there lands: its registers take the value's
words in its lanes, its queue entries are filled and no longer pending, its registers are no longer pending and OSCOUNT falls by one. The
events of a conversion to a narrow format are counted as its result is delivered. -/
def Obligations.ResultLands : Prop :=
  ∀ (s : State) (r : Outst) (g : Group), s.out? r.oid = some r → s.group? r.gid = some g → g.ended = false → r.left = 0 →
    r.kind = .alu ∨ r.kind = .far ∨ r.kind = .engine ∨ (∃ counts, r.kind = .narrow counts) →
    let o : Opnd := ⟨r.dst.toNat, r.words⟩
    let counted : State := match r.kind with
      | .narrow counts => s.countEvents (s.ctxIdOf g) (coreCluster g.core) 4 counts
      | _ => s
    ∃ h, exec (.longLatencyResultReturn r.oid) s = .next ((counted.putGroup h).dropOut r.oid) ∧
      h.oscount = g.oscount - 1 ∧ h.regs.k = g.regs.k ∧ h.slot0 = g.slot0 ∧ h.slot1 = g.slot1 ∧ h.mode = g.mode ∧ h.dstack = g.dstack ∧
      (∀ c, c ∈ h.regs.pend ↔ c ∈ g.regs.pend ∧ ¬(16 ≤ r.dst.toNat ∧ o.names c = true)) ∧
      (∀ q l, q < 40 → q < g.regs.n.length → l < (g.regs.n.getD q []).length →
        h.nLane q l = if o.names (16 + q) && r.mask.getLsbD l then wordAt (r.vals.getD l 0) (16 + q - r.dst.toNat) else g.nLane q l) ∧
      (∀ q, q < g.regs.g.length → h.gReg q = if o.names (56 + q) then (match lowestLane r.mask with
        | some l => wordAt (r.vals.getD l 0) (56 + q - r.dst.toNat)
        | none => g.gReg q) else g.gReg q) ∧
      (∀ (i k : Nat) (e : QEntry), (g.queue i)[k]? = some e → ∃ e' : QEntry, (h.queue i)[k]? = some e' ∧
        ((∀ j, e.src ≠ some (r.oid, j)) → e' = e) ∧
        ∀ j, e.src = some (r.oid, j) → e'.pend = false ∧
          ∀ l v, r.vals[l]? = some v → e'.vals[l]? = some (if r.mask.getLsbD l then wordAt v j else 0))

/-- R77, R89, R208, R213: growth that is next in order and has room gives the declared allotment, the registers gained reading 0; the end of
a window of 4,096 cycles halves LDCAP at 64 or more re-misses, and else raises it by one; a page walk installs its translation, and no other
unit loses one; a shootdown removes every
translation and L1 line that it names, and the group that waits for it no longer does. -/
def Obligations.FabricEventsComplete : Prop :=
  ∀ (s : State) (gid core unit va : Nat),
    (∀ g, s.group? gid = some g → s.growDue g = true → s.growRoom g = true → ∃ h, exec (.growGrant gid) s = .next (s.putGroup h) ∧
      h.allot = s.fullAllot g ∧ h.grown = true ∧
      ∀ q l, q < g.regs.n.length → h.nLane q l = if g.allot ≤ q ∧ q < s.fullAllot g then 0 else g.nLane q l) ∧
    (core < s.cores.length → (s.core core).ldWindow + 4096 ≤ s.clock (coreDie core) → ∃ u, exec (.ldcapWindowEnd core) s = .next u ∧ (∀ k, k ≠ core → u.core k = s.core k) ∧
      (u.core core).ldcap = (if 64 ≤ (s.core core).remiss then max 2 ((s.core core).ldcap / 2) else min 48 ((s.core core).ldcap + 1)) ∧
      (u.core core).remiss = 0 ∧ (u.core core).ldWindow = (s.core core).ldWindow + 4096 ∧ (u.core core).ldPtr = ((s.core core).ldPtr + (u.core core).ldcap) % 48) ∧
    (∀ c asid t, (s.contexts.find? fun c => c.asid = asid && !c.killed) = some c → s.tlbHit (c.agent 1000 unit) va = none → s.walk (c.agent 1000 unit) va = some t →
      ∃ u, exec (.pageWalkComplete unit asid va) s = .next u ∧ t ∈ u.msys.tlb ∧ (∀ x ∈ s.msys.tlb, x.unit ≠ t.unit → x ∈ u.msys.tlb) ∧
        ((s.msys.tlb.filter fun x => x.unit = t.unit).length < 4096 → u.msys.tlb = s.msys.tlb ++ [t])) ∧
    (∀ d, (s.msys.shootdowns.find? fun x => x.sid = d.sid) = some d → s.shootdownBusy d = false → ∃ u, exec (.shootdownComplete d.sid) s = .next u ∧
      u.groups = s.groups ∧ (∀ t, t ∈ u.msys.tlb ↔ t ∈ s.msys.tlb ∧ d.hits t.asid t.vbase t.bits = false) ∧
      (∀ l ∈ u.msys.l1, d.hitsLine l = false) ∧ ∀ x, x ∈ u.msys.shootdowns ↔ x ∈ s.msys.shootdowns ∧ x.sid ≠ d.sid)

/-- R221, R251, R252, R258, R259, R260, R261, R263, R264: a request at its home is performed there, once its class has its turn: RT first, three of SV to
one of BK, HV where no other is ready; two that match at one point join, the lower port first; a request goes on to its next point, and past a port whose partner does not combine only alone; a reply is split over a pair's members; a
faulted request is replayed, behind what its agent has sent before it, and traps its group ACCESS if it faults again. -/
def Obligations.NetworkEventsComplete : Prop :=
  ∀ (s : State) (r : Req), (s.net.requests.find? fun q => q.rid = r.rid) = some r →
    let parts := s.net.parts r
    let s1 := (parts.foldl (fun (u : State) o => u.flushLine o.core (o.pa / 64)) s).request (coreCluster r.core) r.pa r.cls (s.ctxOfAsid r.asid) false
    let new := farApply r.op r.unsigned r.size (s1.field r.pa r.size) r.v r.c
    let s2 := s1.writeHome r.pa (bytesOf new.1 r.size)
    let gone (n : Net) : Net := { n with requests := n.requests.filter (fun q => q.rid ≠ r.rid), origs := n.origs.filter fun o => !r.origs.contains o.rid }
    let lost := (s.setNet { s.net with
      requests := s.net.requests.filter (fun q => q.rid ≠ r.rid), origs := s.net.origs.filter fun o => o.rid ≠ r.rid }).replyLost r.member r.va
    let passes := s.net.isFirst r = true ∧ s.classTurn r = true
    (r.route = [] → r.faulted = false → passes → s.homeFaults r.pa = false → exec (.farAtomicPerform r.rid) s = .next ((s.countTurn r).performFar r)) ∧
    (r.route = [] → r.faulted = false → passes → s.homeFaults r.pa = true → exec (.farAtomicPerform r.rid) s = .next ((s.countTurn r).faultFar r)) ∧
    (s.classTurn r = true ↔ r.cls = 0 ∨ (s.classReady (s.outputOf r) 0 = false ∧
      ((r.cls = 1 ∧ (s.net.turnOf (s.outputOf r) < 3 ∨ s.classReady (s.outputOf r) 2 = false)) ∨
        (r.cls = 2 ∧ (3 ≤ s.net.turnOf (s.outputOf r) ∨ s.classReady (s.outputOf r) 1 = false)) ∨
        (3 ≤ r.cls ∧ s.classReady (s.outputOf r) 1 = false ∧ s.classReady (s.outputOf r) 2 = false)))) ∧
    (devicePa r.pa = false → (∀ o ∈ parts, o.release = none) → s.performFar r = (s2.setNet (gone s2.net)).reply r.member new.2) ∧
    (∀ h rest, r.route = h :: rest → passes → exec (.combiningStageExit r.rid) s = .next ((s.countTurn r).setNet { (s.countTurn r).net with
      requests := (s.net.requests.filter fun q => q.rid ≠ r.rid) ++ [{ r with route := rest, entry := s.clock (pointDie (rest.head?.getD h).point), noCombine := r.noCombine || (500 ≤ h.point && !(s.net.links[h.point - 500]?).any fun l => l.comb) }] })) ∧
    (r.faulted = true → s.net.clear r = true → s.homeFaults r.pa = false → exec (.homeFaultReplay r.rid) s = .next (s.performFar r)) ∧
    (∀ g, r.faulted = true → s.net.clear r = true → s.homeFaults r.pa = true → s.group? r.gid = some g → g.ended = false → g.phase = .none →
      exec (.homeFaultReplay r.rid) s = .next (lost.trapLate g r.slot r.pc 1 r.va (1#64 <<< r.lane))) ∧
    (∀ y hx hy rest ry, (s.net.requests.find? fun q => q.rid = y.rid) = some y → r.route = hx :: rest → y.route = hy :: ry → hx.point = hy.point →
      r.rid ≠ y.rid → r.matches y = true → s.clock (pointDie hx.point) ≤ r.entry + 4 → s.net.mayJoin r y = true →
      let p := if hy.port < hx.port then y else r
      let q := if hy.port < hx.port then r else y
      s.net.before q p = false →
      let silent := r.member = .silent ∧ y.member = .silent
      silent ∨ (s.net.waits.filter fun w => (waitPool w.point).1 = (waitPool hx.point).1).length < (waitPool hx.point).2 →
        ∃ u z, exec (.requestCombine r.rid y.rid) s = .next u ∧ z ∈ u.net.requests ∧ z.rid = r.rid ∧ z.pa = r.pa ∧ z.op = r.op ∧
          z.v = farOp r.op r.unsigned (8 * r.size) p.v q.v ∧ z.origs = r.origs ++ y.origs ∧ z.entry = p.entry ∧ (∀ x ∈ u.net.requests, x.rid ≠ y.rid) ∧
          (silent → z.member = .silent ∧ u.net.waits = s.net.waits) ∧
          (¬silent → ∃ wid, z.member = .wait wid ∧ u.net.waits = s.net.waits ++ [⟨wid, p.member, q.member, p.v, p.op, p.unsigned, p.size, hx.point, none⟩])) ∧
    (∀ w v, (s.net.waits.find? fun x => x.wid = w.wid) = some w → w.reply = some v → exec (.replySplit w.wid) s =
      .next (((s.setNet { s.net with waits := s.net.waits.filter fun x => x.wid ≠ w.wid }).reply w.first v).reply w.second
        (farOp w.op w.unsigned (8 * w.size) v w.a)))

/-- R187, R271, R289, R311, R312: a parked WAITC reads again, by its watch or its poll, and goes on once no lane is left; a parked TKGET issues
again behind a write to its pool, or where it does not hold both its watches; the task unit tries an enqueue again; for a shadow's entries the
Beater asks the queue for a batch of indexes, and forwards them as it holds them; they are due 128 cycles after the oldest. That a WAITC may look again at any turn (log 19), and that a TKGET without both its watches may issue again
at any turn (log 38), is the model's choice. -/
def Obligations.WaitEventsComplete : Prop :=
  ∀ (s : State) (gid slot pid off : Nat) (g : Group) (sl : Slot), s.group? gid = some g → g.slot? slot = some sl → sl.stop = none →
    (∀ w len, sl.park = some (.waitc w len) → s.mayIssue g = true →
      let xs := s.waitAccesses g w
      let left := ((s.dropMonitors (Monitor.isWaitc gid slot)).waitRead g w xs).2
      lanesTrap 0 xs = none → ∃ u h, exec (.waitcPoll gid slot) s = .next u ∧ u.group? gid = some h ∧ h.regs = g.regs ∧
        (left.left = [] → h.slot? slot = some (sl.goTo (sl.pc + BitVec.ofNat 64 len))) ∧
        (left.left ≠ [] → h.slot? slot = some { sl with park := some (.waitc left len) })) ∧
    ((s.msys.monitors.any fun m => m.isWaitc gid slot && m.fired) = true → exec (.waitcWatchFire gid slot) s = .next (s.waitAgain gid slot)) ∧
    (∀ n turn again, sl.park = some (.tkget n turn again) →
      (s.msys.monitors.any fun m => m.isTkget gid slot && m.fired) = true ∨ (s.msys.monitors.filter fun m => m.isTkget gid slot).length < 2 →
      exec (.tkgetWake gid slot) s = .next (s.putGroup (g.setSlot slot (some { sl with park := some (.tkget n turn true) })))) ∧
    (∀ r k w, s.out? r.oid = some r → r.kind.work? = some (k, w) → r.left ≠ 0 → exec (.taskEnqueueRetry r.oid) s = .next (s.runWork r k w)) ∧
    (∀ cl x, s.shadow? pid off = some (cl, x) →
      (x.fault = none → x.asked = none →
        (∀ r j k, x.batch = some (r, j, k) → exec (.beaterBatch pid off) s = .next (s.runBatch cl x r j k)) ∧
        (x.batch = none → s.shadowDue x = true →
          (∀ y ∈ (s.cluster cl).shadows, s.shadowDue y = false ∨ y.batch.isSome = true ∨ y.asked.isSome = true ∨ y.fault.isSome = true ∨ x.oldest ≤ y.oldest) →
            exec (.beaterBatch pid off) s = .next (s.askBatch cl x))) ∧
      (x.posted ≠ [] → x.oldest + 128 ≤ s.clock (cl / 48) → exec (.beaterAgeTimeout pid off) s = .next (s.putShadow cl { x with due := true })))

/-- R30, R335, R341, R371, R372, R420, R434: engines serve classes in strict order, and round robin within a class, but for a context that
an engine has chosen already, which later work does not displace (the model's choice of when an engine chooses, log 94); a piece of a copy is
delivered; a copy, sampler or ray operation completes, leaves its context, and
its counter passes it; a gang operation that all members have issued is performed behind the earlier ones on its tiles; warm arrays ramp
down, holds expire; an engine fault is reported as a page fault, or kills its context, and its operation goes on once the page is mapped. -/
def Obligations.EngineEventsComplete : Prop :=
  ∀ (s : State) (gid n piece cl k : Nat) (src : EngineSource),
    let turn (g : Group) (unit : Nat) (waiting : List Nat) : Prop := s.engineTurn (coreDie g.core) unit (s.ctxIdOf g) waiting = true
    (∀ g, s.group? gid = some g → s.engineRuns g = true →
      (∀ o, (g.copyOps.find? fun o => o.n = n) = some o → o.fault = none →
        (piece ∈ o.todo → s.partReady g o piece = true →
          (o.started = true → exec (.copyPieceDelivery gid n piece) s = .next (s.runPart g o piece)) ∧
          (o.started = false → turn g (copyEngine g.core) (s.copiesWaiting g.core) →
            let u := (s.startCopy g n).runPart g o piece
            exec (.copyPieceDelivery gid n piece) s = .next (u.engineChoose (coreDie g.core) (copyEngine g.core) (u.copiesWaiting g.core)))) ∧
        (o.todo = [] → (o.parts ≠ [] ∨ ∀ p ∈ g.copyOps, ¬p.n < o.n) → o.tcb = 0 → ∃ h, exec (.copyOpComplete gid n) s = .next (s.putGroup h) ∧
          h = { g with copy := g.copy.complete n, copyOps := g.copyOps.filter fun p => p.n ≠ n }) ∧
        (o.todo = [] → (o.parts ≠ [] ∨ ∀ p ∈ g.copyOps, ¬p.n < o.n) → o.tcb ≠ 0 → ∀ u h, s.reportResidency g o.tcb = .ok u → u.group? gid = some h →
          exec (.copyOpComplete gid n) s = .next (u.putGroup { h with copy := h.copy.complete n, copyOps := h.copyOps.filter fun p => p.n ≠ n }))) ∧
      (∀ o rs vs, (g.sampOps.find? fun o => o.n = n) = some o → o.fault = none →
        turn g (textureUnit g.core) (s.samplersWaiting g.core) → s.samplerReads g o (samplerOf o.record) = .ok rs →
        s.sample g o (samplerOf o.record) = .ok vs → ∃ u h, exec (.samplerOpComplete gid n) s = .next u ∧ u.group? gid = some h ∧
          h.samp = g.samp.complete n ∧ h.sampOps = g.sampOps.filter fun x => x.n ≠ n) ∧
      (∀ o, (g.rayOps.find? fun o => o.n = n) = some o → o.fault = none → turn g (rayUnit g.core) (s.raysWaiting g.core) →
        (∀ l ∈ lanesOf o.mask, (s.laneQuery g o l).q ≠ .endless ∧ ∀ a, (s.laneQuery g o l).q ≠ .fault a) →
        ∃ u h, exec (.rayOpComplete gid n) s = .next u ∧ u.group? gid = some h ∧ h.ray = g.ray.complete n ∧ h.rayOps = g.rayOps.filter fun x => x.n ≠ n)) ∧
    (∀ x o, s.gang? gid = some x → (x.ops.find? fun o => o.k = n) = some o → x.eligible o = true → s.tileBehind x o = false → x.arraysBehind o = false →
      s.engineTurn (x.cluster / 48) (matrixEngine x.cluster) x.ctx (s.gangsWaiting x.cluster) = true →
      let u := s.engineServe (x.cluster / 48) (matrixEngine x.cluster) x.ctx
        (s.gangs.any fun y => y.cluster = x.cluster && y.ctx = x.ctx && y.ops.any fun p => !(y.gid = gid && p.k = n))
      let t := ((u.performGang x o).gangDone x n).freeGang gid
      exec (.gangOpComplete gid n) s = .next (t.engineChoose (x.cluster / 48) (matrixEngine x.cluster) (t.gangsWaiting x.cluster))) ∧
    (∀ die e ctx waiting, waiting.contains ctx = true →
      let arb := (s.die die).arbOf e
      (∀ c, arb.chosen = some c → waiting.contains c = true → (s.engineTurn die e ctx waiting = true ↔ c = ctx)) ∧
      ((∀ c, arb.chosen = some c → waiting.contains c = false) → (s.engineTurn die e ctx waiting = true ↔
        (∀ c ∈ waiting, ((s.ctx? ctx).map (·.cls)).getD 1 ≤ ((s.ctx? c).map (·.cls)).getD 1) ∧
          ∀ c ∈ waiting, ((s.ctx? c).map (·.cls)).getD 1 = ((s.ctx? ctx).map (·.cls)).getD 1 → c ≠ ctx →
            ((arb.order ++ waiting).takeWhile fun x => x ≠ c).contains ctx = true))) ∧
    (∀ a, (s.cluster cl).arrays[k]? = some a →
      let now := s.clock (cl / 48)
      (∀ c, a.ramp = .up c → c + 64 ≤ now → a.lastMma + 256 ≤ now → a.hold ≤ now → exec (.arrayIdleRampdown cl k) s =
        .next (s.modCluster cl fun x => { x with arrays := x.arrays.modify k fun b => { b with ramp := .down now, hold := 0 } })) ∧
      (a.hold ≠ 0 → a.hold ≤ now → exec (.mburstHoldExpiry cl k) s =
        .next (s.modCluster cl fun x => { x with arrays := x.arrays.modify k fun b => { b with hold := 0 } }))) ∧
    (∀ h, s.heldFault src = some h →
      (h.repaired = false → (∀ w ∈ s.events.waiting, w.src ≠ some src) →
        ((s.faultKind h).2 = false → exec (.engineFault src) s = .next (s.killContext h.die h.ag.ctx (s.faultKind h).1 h.crec)) ∧
        ((s.faultKind h).2 = true → ∃ u, exec (.engineFault src) s = .next u ∧
          u.events.waiting = s.events.waiting ++ [⟨h.ag.ctx, h.addr, some src, 0⟩] ∧
          (h.die < s.dies.length → (u.die h.die).raised = (s.die h.die).raised ++
            [⟨2, h.die, h.ag.ctx, h.addr, (s.faultKind h).1 + if h.write then 65536 else 0⟩]))) ∧
      (h.repaired = true → (∀ fid v, src ≠ .selvedge fid v) → (∀ lid, src ≠ .launch lid) → (∀ qid, src ≠ .packet qid) →
        exec (.engineFaultResume src) s = .next (s.setRepair src true false)))

/-! ## Events of the graphics path -/

/-- R392, R396, R399, R403, R406, R407, R411, R417, R428, R429, R408: a strip latches the gaze of its view, or of view 0, once its time has
come; a primitive is projected in order into its record, or counted without one; a triangle is delivered to a tile of a strip; a strip whose
triangles are delivered ends; an area opens with its handle and live count and reads 0 elsewhere; a held blend retires; a TRET of a complete
tile gives its covered words; an arrival and the deadline rule hand tiles over; a frame whose parts are over completes. That
the amplifier stands still while an entry waits for room (log 54), and that a primitive without a record counts in EMITTED (log 47), is the
model's choice. -/
def Obligations.GraphicsEventsComplete : Prop :=
  ∀ (s : State) (fr : Frame) (v k t : Nat), s.frame? fr.fid = some fr →
    (∀ w, fr.views[v]? = some w → k < w.nstrips → s.latchOf fr v k = none → w.startOf k ≤ s.viewClock fr →
      let r := fr.viewSetRegs s
      let v0 := if w.follow0 then 0 else v
      exec (.stripLatch fr.fid v k) s = .next (s.modViewSet fr fun x => { x with
        latched := x.latched ++ [(v, k)],
        latches := (x.latches.filter fun y => !(y.view = v && y.strip = k)) ++ [⟨v, k, r.gzx.getD v0 0, r.gzy.getD v0 0, r.clsArea⟩] })) ∧
    (∀ p, (fr.prims.find? fun p => p.pid = t) = some p → p.projected = false → fr.fault = none → fr.queued = [] → s.meshletOpen fr p = false →
      (∀ q ∈ fr.prims, q.pid / 128 = p.pid / 128 → q.pid < p.pid → q.projected = true) →
      (fr.primSlots ≤ fr.recordsUsed → exec (.amplifierProject fr.fid t) s = .next (s.putFrame { fr.projected p none with errPrim := (fr.projected p none).errPrim + 1 })) ∧
      (∀ u, fr.recordsUsed < fr.primSlots → s.pokeVa (s.rasterAgent fr) (fr.primRing + 256 * fr.recordsUsed) p.bytes = .ok u →
        exec (.amplifierProject fr.fid t) s = .next (u.putFrame ((fr.viewsOf p.mask).foldl (fun (x : Frame) v => x.amplify p v)
          (fr.projected p (some (fr.primRing + 256 * fr.recordsUsed))))))) ∧
    (∀ x, fr.queued ≠ [] → exec (.rasteriseTriangle fr.fid x k t) s = .next s) ∧
    (∀ x w p l, (fr.tris.find? fun y => y.trid = x.trid) = some x → fr.fault = none → fr.queued = [] → (k, t) ∉ x.delivered →
      (fr.area x.view t).strip = some k → (fr.area x.view t).over k = false → fr.views[x.view]? = some w → s.warpOf fr x.view k = some p → s.latchOf fr x.view k = some l →
      let cluster := coreCluster (fr.area x.view t).core
      s.engineTurn fr.die (rasterEngine cluster) fr.ctx (s.rasterWaiting cluster) = true →
      let u := s.engineServe fr.die (rasterEngine cluster) fr.ctx true
      (x.reaches p t = false → exec (.rasteriseTriangle fr.fid x.trid k t) s = .next (u.markDelivered fr.fid x.trid k t)) ∧
      (x.reaches p t = true → x.small p t l.area = true →
        (∀ y, (u.deliverSmall fr x k t).frame? fr.fid = some y → y.fault = none) →
        exec (.rasteriseTriangle fr.fid x.trid k t) s = .next ((u.deliverSmall fr x k t).markDelivered fr.fid x.trid k t)) ∧
      (x.reaches p t = true → x.small p t l.area = false → w.shade = false →
        exec (.rasteriseTriangle fr.fid x.trid k t) s = .next ((u.writeVis fr (fr.area x.view t) w p x).markDelivered fr.fid x.trid k t)) ∧
      (x.reaches p t = true → x.small p t l.area = false → w.shade = true →
        exec (.rasteriseTriangle fr.fid x.trid k t) s = .next ((u.launchBatches fr.fid (fr.area x.view t) k p x).markDelivered fr.fid x.trid k t))) ∧
    (fr.fault = none → fr.queued = [] → k ∉ fr.ends → (fr.views.any fun w => k < w.nstrips) = true → s.stripDelivered fr k = true →
      exec (.stripEndEntries fr.fid k) s = .next ((s.putFrame { fr with ends := fr.ends ++ [k], queued := [] }).flushQueued fr.fid
        ((List.range fr.cores.length).map fun j => (j, smallEntry 0 k 0xFFFFFFFF)))) ∧
    (fr.fault = none → fr.queued ≠ [] → exec (.stripEndEntries fr.fid k) s = .next ((s.putFrame { fr with queued := [] }).flushQueued fr.fid fr.queued)) ∧
    (∀ w pid p, fr.views[v]? = some w → t < w.tiles → s.nextStrip fr (fr.area v t) (List.range w.nstrips) = some k → fr.pool (fr.area v t).core = some pid →
      (fr.area v t).strip ≠ some k → s.warpOf fr v k = some p →
      let a := fr.area v t
      exec (.tileAreaOpen fr.fid v t) s = .next ((((s.writePad pid a.off (List.replicate 4096 0)).writePad pid (a.off + handleAt)
        (bytesOf (Handle.word ⟨v, k, t⟩) 4)).writePad pid (a.off + liveAt) (bytesOf (p.liveSamples t).length 4)).putFrame (fr.putArea { a with strip := some k }))) ∧
    (∀ b, (fr.blends.find? fun b => b.view = v && b.tile = t && s.mayRetire fr b) = some b →
      exec (.fbwrRetire fr.fid v t) s = .next ((s.performBlend fr b).putFrame { fr with blends := fr.blends.filter fun c => c ≠ b })) ∧
    (∀ r p g, s.out? r.oid = some r → r.kind = .tret fr.fid v k t → (fr.area v t).strip = some k → s.warpOf fr v k = some p → s.tileComplete fr ⟨v, k, t⟩ = true →
      s.group? r.gid = some g → s.farBusy g = false →
        ∃ u q, exec (.tretComplete r.oid) s = .next u ∧ u.out? r.oid = some q ∧ q.left = 0 ∧ q.kind = .alu ∧
          ∀ l, l < 64 → q.vals[l]? = some (s.coveredWords fr (fr.area v t) p).length) ∧
    (∀ ctx i o x, (s.ctx? ctx).bind (fun c => c.streams[i]?) = some x → (x.ops.find? fun y => y.n = o.n) = some o → o.frame = fr.fid → o.fault = none →
      s.egressReady o = true →
      let u := s.engineServe fr.die selvedge ctx ((s.ctx? ctx).any fun c => 2 ≤ (c.streams.map fun x => (x.ops.filter (·.arrived.isNone)).length).sum)
      let goes (a : State) : State := if o.discarded then a.discardEgress ctx i o
        else (a.modStream ctx i fun x => { x with ops := put EgrOp.n (a.landImage o) x.ops }).arrive ctx i (a.landImage o)
      (o.arrived.isSome = true → exec (.egressArrival ctx i o.n) s = .next (goes s)) ∧
      (o.arrived = none → s.engineTurn fr.die selvedge ctx (s.egressWaiting fr.die) = true →
        exec (.egressArrival ctx i o.n) s = .next ((goes u).engineChoose fr.die selvedge ((goes u).egressWaiting fr.die))) ∧
      (o.arrived = none → (u.landImage o).arrived = some (s.viewClock fr, s.imageOf o))) ∧
    (∀ u, s.deadline fr v k = .ok (some u) → exec (.deadlineRule fr.fid v k) s = .next u) ∧
    (∀ l, s.launch? fr.lid = some l → fr.meshDone = true → (∀ m ∈ s.launches, m.lid = l.lid ∨ m.kind.frame? ≠ some fr.fid) → l.held = none → fr.fault = none →
      (∀ c ∈ s.contexts, ∀ x ∈ c.streams, ∀ o ∈ x.ops, o.frame ≠ fr.fid) → (∀ w ∈ fr.views, ∀ j, j < w.nstrips → j ∈ fr.ends) → fr.queued = [] →
      (fr.prims.all (·.projected)) = true → (fr.views.mapIdx fun v w => s.viewOver fr v w).all id = true →
        exec (.frameComplete fr.fid) s = .next (s.completeLaunch l 0))

/-! ## Events of placement, pre-emption and firmware -/

/-- R91, R93, R94, R96, R283, R291, R292, R293, R296, R301, R303, R383: a launch's next unit is placed where a site has room, in its turn; the unit that
starved launches ask for is asked to stop; a unit that has stopped and drained is saved; one that outlasts the window is killed to run again
if its grid is REPLAYABLE, and else goes on; saved units resume in their launch's turn; harvest units are revoked and return; a grid that has drained
completes. That a restart waits for issued results, and what restarts with a cluster, is the model's choice (log 62), and so is how long a unit
that its own grid has evicted waits (log 121). -/
def Obligations.TeamEventsComplete : Prop :=
  ∀ (s : State) (l : Launch) (t : Team) (c : Ctx), s.launch? l.lid = some l → s.team? t.tid = some t → t.lid = l.lid → s.ctx? t.ctx = some c →
    let us := s.unitOf t
    (∀ u die, s.mayPlace s.levels l = true → s.placeNext l = some u → s.nextDie l = some die →
      nextTurn (s.die die).lastLaunch ((s.launches.filter fun m =>
        s.levels.launch m.lid = s.levels.launch l.lid && s.couldPlace s.levels m die).map (·.lid)) = some l.lid →
      exec (.teamPlace l.lid) s = .next (u.tookDieTurn die l.lid)) ∧
    (∀ m ∈ s.launches, s.starved s.levels m = true → s.askedFor m = false →
      chooseVictim s.levels (s.victims s.levels m) = some t ∨ s.orderedVictim m = some t → exec (.preemptRequest t.tid) s = .next (s.askUnit us (s.evictsFor s.levels t))) ∧
    (t.place = .running → s.unitStopped us = true → s.unitDrained us = true → s.imagesFit c us = true →
      exec (.teamSave t.tid) s = .next (s.saveUnit c l us)) ∧
    (∀ at_, t.preempt = some at_ → t.place = .running → at_ + 20000 ≤ s.clock (coreDie t.core) → s.unitHalted c us = false →
      (l.kd.gflags / 2 % 2 = 0 → exec (.preemptTimeout t.tid) s = .next (s.goOnUnit us)) ∧
      (∀ m, l.kd.gflags / 2 % 2 = 1 → (us.foldl (fun (s : State) u => s.killTeam u .replay) s).launch? l.lid = some m → exec (.preemptTimeout t.tid) s =
        .next ((us.foldl (fun (s : State) u => s.killTeam u .replay) s).putLaunch { m with replayed := true }).reapPads)) ∧
    (∀ u die x, t.place = .saved → l.killed = false → s.underLimit l us.length = true → s.evictedYet us = false → s.outranked s.levels l true = false →
      s.resumeUnit c l us = some u → u.team? t.tid = some x → coreDie x.core = die → s.launchTurn s.levels (s.levels.launch l.lid) die = some l.lid →
      exec (.teamResume t.tid) s = .next (u.tookDieTurn die l.lid)) ∧
    (t.harvest = true → t.place = .running → s.mustRevoke t = true → exec (.harvestRevoke t.tid) s = .next (us.foldl (fun (s : State) u => s.revokeTeam u) s)) ∧
    (let r := s.reapPads
     r.mayReturn l (r.unitOf t) = true →
      ((∀ u ∈ r.unitOf t, u.lost = []) → exec (.harvestResume t.tid) s = .next ((r.unitOf t).foldl (fun (s : State) u => s.returnTeam u) r)) ∧
      ((∃ u ∈ r.unitOf t, u.lost ≠ []) → (∀ u ∈ r.unitOf t, r.forwarded u = true ∧ ∀ g ∈ r.groupsOf u.tid, r.issuedDone g = true) →
        exec (.harvestResume t.tid) s = .next ((r.unitOf t).foldl (fun (s : State) u => s.restartTeam u) r))) ∧
    (l.killed = false → l.held = none → s.launchDrained l = true →
      (l.kind = .grid → exec (.launchComplete l.lid) s = .next (s.completeLaunch l 0)) ∧
      (∀ f fr, l.kind = .meshlets f → s.frame? f = some fr → exec (.launchComplete l.lid) s = .next (s.putFrame { fr with meshDone := true })) ∧
      (l.kind.pooled = true → exec (.launchComplete l.lid) s = .next ((s.lendCores l).endLaunch l)))

/-- R55, R98, R99, R101, R196, R304, R316, R378: a word that is no instruction, or cannot be fetched, traps its group; a wake event lets a
halted die's firmware go on, or is held; firmware posts a page fault and lets the group wait, posts and passes over a TRAP, and resumes the
group whose page the host has mapped; it restarts a group whose kernel declares so, posts a task's fault, and gives an ACC_OWNER trap its
tiles; any other trap kills the context. That LANES of a word or fetch trap is
the fragment's mask is the model's choice (log 29). -/
def Obligations.FirmwareEventsComplete : Prop :=
  ∀ (s : State) (w : Word) (addr : Addr) (die ctxid : Nat) (g : Group),
    (∀ f, s.frag? = some f → f.g.fw = false → ((marksOf w).s = false ∧ f.sl.lit = none) ∨ f.g.oscount = 0 →
      let code := if opAssigned (opOf w) = false ∨ opRole (opOf w) f.g.role = false then 0x01 else if wordPriv w then 0x0B else 0x02
      ∃ t, exec (.notAnInstruction w) s = .next t ∧ (coreDie f.g.core < s.dies.length → TrapParked f code 0 0 f.sl.mask t)) ∧
    (∀ f k, s.frag? = some f → s.fetchWord f.g addr.toNat = .error k → f.g.fw = false → ∃ t, exec (.instructionFetchFault addr) s = .next t ∧
      (coreDie f.g.core < s.dies.length → TrapParked f k (if k = 0x0A then 0 else 2) addr.toNat f.sl.mask t)) ∧
    ((∀ h ∈ s.groups, h.fw = true → coreDie h.core = die → ∀ sl, (h.slot0 = some sl ∨ h.slot1 = some sl) → ∀ n, sl.park ≠ some (.halt n)) →
      exec (.wakeEvent die) s = .next (s.modDie die fun d => { d with wakeHeld := true })) ∧
    (∀ h ∈ s.groups, h.fw = true → coreDie h.core = die → ∀ sl n, h.slot0 = some sl → sl.park = some (.halt n) → sl.stop = none → h.slot1 = none →
      ∃ u, exec (.wakeEvent die) s = .next u ∧ ∃ h' ∈ u.groups, h'.gid = h.gid ∧ h'.slot0 = some (sl.goTo (sl.pc + BitVec.ofNat 64 n))) ∧
    (∀ k, (s.groups.find? fun h => !h.fw && s.ctxIdOf h = ctxid && (h.phase = .declined || (h.phase = .notified && s.byTable h && s.killsFor h))) = some k →
      exec (.contextTeardown ctxid) s = .next (s.killContext (coreDie k.core) (s.ctxIdOf k) k.trap.code (s.crecOf k))) ∧
    (s.group? g.gid = some g → s.mayHandle g = true →
      (g.phase = .repaired → exec (.firmwareTrapResume g.gid) s = .next ((s.putGroup (g.trapReturn 0)).unnotice g)) ∧
      (g.phase = .notified → s.byTable g = true →
        let post (kind : Nat) : State := s.postEvent (coreDie g.core) kind (s.ctxIdOf g) g.trap.pc.toNat g.trap.aux
        (g.trap.code = 0x08 → ∃ u, exec (.firmwareTrapResume g.gid) s = .next u ∧ (u.group? g.gid).map (·.phase) = some .posted ∧
          u.events.waiting = s.events.waiting ++ [⟨s.ctxIdOf g, g.trap.addr.toNat, none, g.gid⟩]) ∧
        (g.trap.code = 0x12 → exec (.firmwareTrapResume g.gid) s = .next (((post 3).putGroup (g.trapReturn (s.trapLen g))).unnotice g)) ∧
        (g.trap.code = 0x11 → exec (.firmwareTrapResume g.gid) s = .next (((post 4).putGroup (g.trapReturn 0)).unnotice g)) ∧
        (s.restarts g = true → s.issuedDone g = true → exec (.groupRestart g.gid) s = .next ((s.restartGroup g.gid).unnotice g))) ∧
      (∀ tcb, g.task = some tcb → s.issuedDone g = true →
        (∀ u n, g.phase = .notified → s.underRestart g = .ok true → s.markFaulted g tcb = (u, none, n) →
          exec (.taskFaultRepost g.gid) s = .next (if 255 ≤ n then u.killFor g else u.postPage g .task)) ∧
        (∀ u, g.phase = .taskRepaired → s.repostTask g tcb = .ok u → exec (.taskFaultRepost g.gid) s = .next u) ∧
        (∀ r, g.phase = .taskPosting r.oid → s.out? r.oid = some r →
          let restarts (u : State) : State := ((u.putGroup { g with task := none }).restartGroup g.gid).unnotice g
          (r.left = 0 → exec (.taskFaultRepost g.gid) s = .next (restarts (s.dropOut r.oid))) ∧
          (r.left = 1 → exec (.taskFaultRepost g.gid) s = .next s))) ∧
      (let cl := coreCluster g.core
       let ts := s.trapTiles g
       let u := ts.foldl (fun (s : State) t => s.transferTile (s.ctxIdOf g) cl t) s
       ∀ h, g.phase = .notified → g.trap.code = 0x0D → (s.die (coreDie g.core)).notices.find? (s.wantsTile cl ts) = some g.gid →
        (∀ x ∈ s.gangs, x.cluster = cl → ∀ o ∈ x.ops, x.eligible o = true → ∀ t ∈ (s.opInsn x o).tiles, t ∈ ts → ((s.cluster cl).tiles.getD t Tile.reset).owner = some (s.ctxIdOf g)) → u.group? g.gid = some h →
          exec (.accOwnerSpill g.gid) s = .next (u.resumeTrapped h 0)))

/-! ## Events of queues and packets -/

/-- R222, R278, R279, R280, R281, R285, R286, R287, R288, R289, R290, R386: a packet in its queue's turn with a good header and body has its
effect, is consumed, and the next one is looked at; an unknown opcode puts its queue in ERROR with cause 1; BARRIER_AND and TIMELINE_WAIT
hold their queue until they are satisfied; a watch, a notice and a scan look at queues. That CACHE_CLASS with an
unknown context number sets the class quotas alone is the model's choice (log 70), and so is that a notice for an unmapped queue stands while no queue
can give way to it (log 120). -/
def Obligations.PacketsComplete : Prop :=
  ∀ (s : State) (qid die : Nat) (p : Packet), (s.turn qid = some p → p.headerOk = true →
      let s0 := s.tookTurn p.q
      let consumes (i : Instr) (op : Nat) (used : List (Nat × Nat)) (effect : State → Prop) : Prop :=
        p.op = op → p.bodyOk used = true → ∀ u v, effect u → u.consume p.q.qid = .ok v → exec i s = .next (v.look p.q.qid)
      let holds (i : Instr) (op : Nat) (used : List (Nat × Nat)) : Prop :=
        p.op = op → p.bodyOk used = true → p.f (if op = 3 then 0x38 else 8) 8 % 8 = 0 →
          let q := { p.q with awake := false, waiting := some p.bytes }
          exec i s = .next ((s0.putQueue q).lookWait { p with q := q })
      consumes (.nopPacket qid) 0 [] (fun u => u = s0) ∧
      consumes (.dispatch qid) 1 [(4, 60)] (fun u => p.launchOk = true ∧ p.f 6 1 ≤ 4 ∧ p.f 0x28 8 % 4096 = 0 ∧ ∃ s1 k, s0.packetKernel p (p.f 8 8) = .ok (s1, k) ∧
        let s2 := s1.setCtl { s1.ctl with nextId := s1.ctl.nextId + 1 }
        let l := p.launch s1.ctl.nextId .grid k (p.f 6 1) (16 * (p.f 0x24 2 + 1)) (p.f 0x26 2) (p.f 0x28 8)
        gridOk p.c k l.total l.clsize = true ∧ u = s2.startLaunch l) ∧
      consumes (.frame qid) 2 [(4, 2), (7, 29), (0x24, 2), (0x28, 24)] (fun u => p.launchOk = true ∧ p.f 7 1 < 16 ∧ p.f 0x24 2 ≤ 15 ∧ p.f 0x28 8 % 256 = 0 ∧
        ∃ s1 k s3 fr, s0.packetKernel p (p.f 8 8) = .ok (s1, k) ∧
          let s2 := s1.setCtl { s1.ctl with nextId := s1.ctl.nextId + 2 }
          let l := p.launch s1.ctl.nextId (.meshlets (s1.ctl.nextId + 1)) k 0 0 0 0
          gridOk p.c k l.total 0 = true ∧ l.total * k.ngroups < 2 ^ 25 ∧ s2.readFrame p (p.f 0x28 8) = .ok (s3, fr) ∧
          u = (s3.startLaunch l).startFrame { fr with fid := s1.ctl.nextId + 1, lid := s1.ctl.nextId } l.prio) ∧
      consumes (.taskPool qid) 6 [(8, 20)] (fun u => s0.pokeVa p.ag (p.f 8 8 + 0x40) (bytesOf (p.f 0x10 8) 8 ++ bytesOf (p.f 0x18 4) 4 ++ bytesOf 0 4) = .ok u) ∧
      consumes (.gaze qid) 7 [(8, 6), (0x10, 8)] (fun u => p.f 8 4 ≤ 15 ∧
        u = ((s0.frames.filter fun fr => fr.die = p.q.die && fr.vset = p.f 8 4).foldl State.latchDue s0).modDie p.q.die fun d => { d with viewSets := d.viewSets.modify (p.f 8 4) fun x =>
        { x with gzx := x.gzx.mapIdx (fun v g => if p.f 0xC 2 / 2 ^ v % 2 = 1 then BitVec.ofNat 32 (p.f 0x10 4) else g),
                 gzy := x.gzy.mapIdx (fun v g => if p.f 0xC 2 / 2 ^ v % 2 = 1 then BitVec.ofNat 32 (p.f 0x14 4) else g) } }) ∧
      consumes (.cacheClass qid) 8 [(8, 2), (0xC, 5)] (fun u => p.q.qflags % 2 = 1 ∧ p.f 8 1 + p.f 9 1 ≤ 12 ∧ p.f 0x10 1 ≤ 16 ∧
        let s1 := s0.setMsys { s0.msys with svQuota := p.f 8 1, bkQuota := p.f 9 1 }
        u = match s1.ctx? (p.f 0xC 4) with
          | some c => s1.putCtx { c with quota := if c.cls = 0 then max 4 (p.f 0x10 1) else p.f 0x10 1 }
          | none => s1) ∧
      holds (.barrierAnd qid) 3 [(8, 40), (0x38, 8)] ∧ holds (.timelineWait qid) 5 [(8, 16)] ∧
      (p.op = 4 → p.q.indirect = none → p.bodyOk [(8, 12)] = true → p.f 8 8 % 64 = 0 → p.f 0x10 4 % 64 = 0 → p.f 0x10 4 ≤ 2 ^ 24 →
        exec (.indirect qid) s = .next ((s0.putQueue { p.q with awake := false, indirect := some ⟨p.f 8 8, p.f 0x10 4, 0, 0, []⟩ }).look qid))) ∧
    (s.turn qid = some p → 9 ≤ p.op → exec (.unknownPacketOpcode qid) s = .next ((s.tookTurn p.q).queueError p.q 1 p.op 0)) ∧
    (s.waitingPacket qid = some p → s.waitState p = .met →
      (p.op = 3 → p.q.held = none → exec (.barrierAndSatisfied qid) s = .next (s.endWait p)) ∧
      (p.op = 5 → exec (.timelineWaitSatisfied qid) s = .next (s.endWait p))) ∧
    ((s.msys.monitors.any fun m => m.isPacket qid && m.fired) = true → s.noRoom qid = false →
      exec (.packetSlotWatch qid) s = .next (((s.mapQueue qid).dropMonitors (Monitor.isPacket qid)).scan qid)) ∧
    (∀ q, s.queue? qid = some q → q.state ≤ 1 → (s.msys.monitors.any fun m => m.isNotify qid && m.fired) = true → s.noRoom qid = false →
      exec (.queueNotify qid) s = .next (((s.watchNotify q).notice qid).wake q.die)) ∧
    (let noted (u : State) (q : Queue) : Bool := u.msys.monitors.any (Monitor.isNotify q.qid)
     let unwatched (q : Queue) : Bool := !noted s q || (q.state = 0 && q.awake) || (q.state = 1 && !s.msys.monitors.any (Monitor.isPacket q.qid))
     exec (.scannerRescan die) s = .next ((s.queues.filter fun q => q.die = die && (q.state = 0 || q.state = 1) && unwatched q).foldl (fun (u : State) q =>
       let v := if noted u q then u else u.watchNotify q
       if q.state = 1 then v.scan q.qid else if v.hasNew q then v.notice q.qid else v) s))

/-! ## Events of the host and of other modules -/

/-- R225, R226, R243, R264, R440, R441, R442, R446, R447, R449, R450, R451: what the host and other modules write is written at its home and
what they read is what memory holds; EQDROP reads and clears; registers take what the host writes, where they are writable; events are taken
in order into the ring, or held; GO reads 1 until both boot ROMs take it, and is ignored while a die fetches or verifies; a good image is verified and the die's firmware runs
into HALT (the model runs it in one event, log 11), a bad one shows in BOOTSTAT; RESET leaves the reset state but for
what is outside the module; a window over its limits steps a die's clock down, and the tenth cool window in a row up. The model's choices are: memory that
nothing has written reads 0 after a RESET (log 3), a window's highest sample counts (log 76), a mailbox GO wakes die 0 (log 97), and boot is a
GO and two turns for each die (log 11). -/
def Obligations.HostEventsComplete : Prop :=
  ∀ (s : State) (pa va n die port no asid cls : Nat) (bs : List Byte) (v : BitVec 64) (comb : Bool) (reach : List Nat) (z : Int),
    let seen (i : Instr) : Prop := ∃ u, exec i s = .next u ∧ u.events.lastRead = Memory.read u.mem pa n ∧ u.groups = s.groups
    let writes (off : BitVec 16) (h : HostRegs) : Prop := exec (.hostRegisterWrite off v) s = .next (s.setHost h)
    let w : Word := v.setWidth 32
    let waiting : Prop := ∀ d, d < 2 → (s.die d).boot ≠ 1 ∧ (s.die d).boot ≠ 2
    (plainRange pa bs.length = true →
      exec (.hostMemoryWrite pa bs) s = .next ((s.touchOutside pa bs.length).writeHome pa bs) ∧
      exec (.requestFromAnotherModule (.write pa bs)) s = .next ((s.touchOutside pa bs.length).writeHome pa bs)) ∧
    (plainRange pa n = true → seen (.hostMemoryRead pa n) ∧ seen (.requestFromAnotherModule (.read pa n))) ∧
    (∃ u, exec .eqdropRead s = .next u ∧ u.host = { s.host with eqdrop := 0 } ∧ u.events.lastRead = bytesOf s.host.eqdrop.toNat 4) ∧
    writes 0x008 { s.host with eqbase := v } ∧ writes 0x010 { s.host with eqctl := w &&& 0x8000001F#32 } ∧ writes 0x014 { s.host with eqridx := w } ∧
    writes 0x020 { s.host with bootaddr := v } ∧ writes 0x028 { s.host with bootlen := w } ∧
    (s.host.mbxgo = false → writes 0x040 { s.host with mbxreq := v }) ∧
    (s.host.mbxgo = false → s.booted 0 = true → s.booted 1 = true → v.getLsbD 0 = true → exec (.hostRegisterWrite 0x048 v) s = .next ((s.setHost { s.host with mbxgo := true }).wake 0)) ∧
    (v.getLsbD 0 = true → waiting → writes 0x02C { s.host with bootgo := true } ∧ (s.setHost { s.host with bootgo := true }).hostRegister 0x02C = 1) ∧
    (¬waiting → exec (.hostRegisterWrite 0x02C v) s = .next s ∧ exec .bootGo s = .next s) ∧
    (∀ off : BitVec 16, off ∈ [0x000, 0x018, 0x01C, 0x030, 0x038, 0x04C, 0x050] → exec (.hostRegisterWrite off v) s = .next s) ∧
    (waiting → ∃ u, exec .bootGo s = .next u ∧ (∀ d ∈ u.dies, d.boot = 1) ∧ u.groups = (s.groups.filter fun g => !g.fw) ∧ u.host = { s.host with bootgo := false }) ∧
    (die < 2 → s.dies.length = 2 →
      let d := s.die die
      let other := 1 - die
      let failed (u : State) : Prop := u.groups = (s.groups.filter fun g => !g.fw) ∧ (u.die other).boot = if (s.die other).boot = 3 then 0 else (s.die other).boot
      (d.boot = 1 → s.imageOk s.bootImage = false → ∃ u, exec (.bootFetchComplete die) s = .next u ∧ (u.die die).boot = 0x83 ∧ failed u) ∧
      (d.boot = 1 → s.imageOk s.bootImage = true →
        exec (.bootFetchComplete die) s = .next (s.modDie die fun x => { x with boot := 2, image := s.bootImage })) ∧
      (d.boot = 2 → (s.die other).boot < 0x80 → ∃ u, exec (.bootFetchComplete die) s = .next u ∧ (u.die die).boot = bootVerdict d.image ∧
        (bootVerdict d.image ≠ 3 → failed u) ∧
        (bootVerdict d.image = 3 → u.host.digest = shake256 d.image 64 ∧ u.host.svn = fieldOf d.image 4 4 ∧
          ∃ g ∈ u.groups, g.fw = true ∧ g.core = treadle die ∧ ∃ sl, g.slot0 = some sl ∧
            (d.wakeHeld = false → sl.pc = Config.firmwareHalt ∧ sl.park = some (.halt 4)) ∧
            (d.wakeHeld = true → sl.pc = Config.firmwareHalt + 4 ∧ sl.park = none ∧ (u.die die).wakeHeld = false))) ∧
      (d.boot = 2 → 0x80 ≤ (s.die other).boot → ∃ u, exec (.bootFetchComplete die) s = .next u ∧ (u.die die).boot = if bootVerdict d.image = 3 then 0 else bootVerdict d.image)) ∧
    (∀ e rest, (s.die die).raised = e :: rest → s.booted 0 = true →
      let u := s.modDie die fun d => { d with raised := rest }
      (s.host.eqOn = false → exec (.eventTake die) s = .next u.dropEvent) ∧
      (s.host.eqOn = true → s.events.held = [] → s.host.eqFull = false →
        exec (.eventTake die) s = .next ((u.setEvents { u.events with seq := s.events.seq + 1 }).writeEvent (s.events.seq + 1) e)) ∧
      (s.host.eqOn = true → (s.events.held ≠ [] ∨ s.host.eqFull = true) → (s.events.held.filter fun h => h.2.die = e.die).length < 256 →
        exec (.eventTake die) s = .next (u.setEvents { u.events with seq := s.events.seq + 1, held := s.events.held ++ [(s.events.seq + 1, e)] }))) ∧
    (∀ k e rest, s.events.held = (k, e) :: rest → s.booted 0 = true → s.host.eqOn = true → s.host.eqFull = false →
      exec .eventQueuedWrite s = .next ((s.setEvents { s.events with held := rest }).writeEvent k e)) ∧
    (∃ u, exec .reset s = .next u ∧ u = { State.reset with ctl := s.ctl, mem := u.mem } ∧
      ∀ a, u.mem.byte a = if (0x100000000000 ≤ a ∧ a < 0x200000000000) ∨ remoteBase ≤ a then s.mem.byte a else 0) ∧
    (∃ u, exec (.thermalSample die z) s = .next u ∧ (die < s.dies.length → (u.die die).temperature = max (s.die die).temperature z)) ∧
    (∀ p0 p1 pm, ∃ u, exec (.powerWindowEnd p0 p1 pm) s = .next u ∧ ∀ d, d < 2 → d < s.dies.length → (s.die d).clockStep ≤ 4 →
      let power := if d = 0 then p0 else p1
      let x := s.die d
      (1800000 < pm ∨ 550000 < power ∨ 1050 < x.temperature → (u.die d).clockStep = min (x.clockStep + 1) 4 ∧ (u.die d).cool = 0) ∧
      (pm ≤ 1800000 → power < 495000 → x.temperature < 950 → 9 ≤ x.cool → (u.die d).clockStep = x.clockStep - 1 ∧ (u.die d).cool = 0)) ∧
    (port < 12 → exec (.linkTrain port comb no reach) s = .next (s.setNet { s.net with
      links := s.net.links.set port ⟨true, comb⟩, moduleNo := no % 1024, reach := reach.filter fun m => m < 1024 && m ≠ no % 1024 })) ∧
    (remoteBase ≤ modulePa s no (pa / 64 * 64) → ∃ u, exec (.remoteHomeInvalidation no pa) s = .next u ∧
      ∀ l ∈ u.msys.l1, l.pline ≠ modulePa s no (pa / 64 * 64) / 64) ∧
    (∀ op a k b, 0xC0 ≤ op → op ≤ 0xCB → pa % 8 = 0 → plainRange pa 8 = true →
      ∃ u r, exec (.requestFromAnotherModule (.atomic op a asid cls va pa 8 k b comb)) s = .next u ∧
      u.net.requests = s.net.requests ++ [r] ∧ r.op = op ∧ r.unsigned = a ∧ r.asid = asid ∧ r.cls = cls % 4 ∧ r.va = va ∧ r.size = 8 ∧ r.pa = pa ∧ r.v = k % 2 ^ 64 ∧ r.c = b % 2 ^ 64 ∧ r.member = .outside ∧
      (comb = false → r.noCombine = true))

/-- R443, R444, R445, R448: a mailbox request whose reply fits, with a clean header and body, is acted on and answered with STATUS 0:
contexts and queues are created with the lowest free number, removed, put in service again; a page fault's reply reaches everything that
waits for it; a shootdown is performed; a report is signed. An unknown OP is answered with STATUS 1. The lowest free CTXID
from 1 and QID from 0 (log 64), the STATUS of a body out of range (log 73) and the fused secret (log 11) are the model's choices. -/
def Obligations.MailboxComplete : Prop :=
  ∀ (s : State), let r := s.mailReq
    let s0 := s.setHost { s.host with mbxgo := false }
    let serves (i : Instr) (op n : Nat) (used : List (Nat × Nat)) (act : Except Nat (State × List Byte)) : Prop :=
      s.mailReady (· = op) = true → 32 + n ≤ r.rlen → r.clean = true → r.bodyOk used = true →
        (∀ u b, act = .ok (u, b) → exec i s = .next (u.mailReply r 0 b)) ∧ (∀ k, act = .error k → exec i s = .next (s0.mailReply r k []))
    let c := s.newContext r
    let ours (w : FaultWait) : Bool := w.ctx = r.f 0 4 && w.addr = r.f 8 8
    let awaited := s.events.waiting.filter ours
    let rest := s0.setEvents { s.events with waiting := s.events.waiting.filter fun w => !ours w }
    serves .createContext 1 4 [(0, 1), (2, 2), (8, 8), (0x10, 8), (0x18, 8), (0x20, 8), (0x28, 8), (0x30, 1), (0x34, 4), (0x38, 8)]
      (if c.fieldsOk (r.f 0x20 8) (r.f 0x28 8) = false then .error 2
       else if 4096 ≤ s.contexts.length then .error 3
       else if (s.contexts.any fun d => d.asid = c.asid || d.resv.any c.resv.contains) = true then .error 6
       else .ok ((s0.addCtx c).initSaveArea c, bytesOf c.ctxid 4)) ∧
    1 ≤ c.ctxid ∧ (∀ d ∈ s.contexts, d.ctxid ≠ c.ctxid) ∧ (∀ k, 1 ≤ k → k < c.ctxid → ∃ d ∈ s.contexts, d.ctxid = k) ∧
    serves .destroyContext 2 0 [(0, 4)] (s0.destroyContext r) ∧
    serves .createQueue 3 4 [(0, 4), (4, 1), (5, 1), (6, 1), (7, 1), (8, 8), (0x10, 8), (0x18, 8), (0x20, 8), (0x28, 8)] (s0.createQueue r) ∧
    serves .destroyQueue 4 0 [(0, 4)] (match s.queue? (r.f 0 4) with | none => .error 4 | some q => .ok (s0.removeQueue q, [])) ∧
    serves .enableQueue 5 8 [(0, 4), (4, 1)] (s0.enableQueue r) ∧
    serves .faultReply 6 0 [(0, 4), (4, 1), (8, 8)] (if 1 < r.f 4 1 then .error 2 else if awaited = [] then .error 4
      else .ok (awaited.foldl (fun (u : State) w => if r.f 4 1 = 0 then u.faultMapped w else u.faultDeclined w) rest, [])) ∧
    (s.shootdownBusy ⟨0, r.f 2 1, r.f 0 2, r.f 8 8, none⟩ = false → serves .invalidate 7 0 [(0, 2), (2, 1), (8, 8)]
      (if 3 < r.f 2 1 then .error 2 else .ok (s0.shootdown ⟨0, r.f 2 1, r.f 0 2, r.f 8 8, none⟩, []))) ∧
    (let report := s0.report (r.body.take 32)
     let sig := s0.signature report
     report.length = 256 ∧ serves .attest 8 5517 [(0, 32)] (.ok (sig.2, report ++ fitted 1952 identityKey.1 ++ fitted 3309 sig.1)) ∧
     ∀ y, mldsaSign identityKey.2 (s0.freeBytes 32).1 attestContext report = some y → sig.1 = y) ∧
    (s.mailReady (fun k => k = 0 || 8 < k) = true → exec .unknownMailboxOp s = .next (s0.mailReply r (if r.rlen < 32 then 5 else 1) []))

/-! ## The machine as a whole -/

/-- R170, R172, R231, R236, R401: a plain store to strongly ordered pages, and STREL to any page, with no dirty byte in an L1, behind the group's
earlier accesses and the context's loads of the lines, outside the device register window. Each byte of memory is what the last lane that stores to it puts there, or as before: a
helper lane stores nothing; nothing but memory, the memory system's own data, the cores' LDCAP data and
the fragment's slot has changed. The addresses stored to are those that the meaning checks. -/
def Obligations.SharedStoreFrame : Prop :=
  ∀ (s : State) (f : Frag) (m : Marks) (d a b : Code) (i : BitVec 10) (x : BitVec 4),
    s.memoryOk → (∀ l ∈ s.msys.l1, l.dirty = []) → f.g.relScope = none → s.net.origs = [] →
    let inMemory (y : LaneAccess) : Prop := ∀ p ∈ y.pieces, ∃ va t w, p.spot = .mem va t w ∧ devicePa (t.pa va) = false
    let ordered (y : LaneAccess) : Prop := ∀ p ∈ y.pieces, ∀ va t w, p.spot = .mem va t w → t.kind = .so
    let frames (j : Instr) (need : Need) (n : Nat) (xs : List LaneAccess) (so : Bool) : Prop :=
      Runs s f j m need → lanesTrap 1 xs = none → s.relBusy f.g = false → s.lateAhead f.g (memLines (xs.flatMap LaneAccess.pieces)) = false →
        (∀ y ∈ xs, inMemory y ∧ (so = true → ordered y)) →
        ∃ t u, exec j s = .next t ∧ Passes u f m 0 f.g t ∧ u = { s with mem := u.mem, msys := u.msys, cores := u.cores } ∧
          ∀ k, u.mem.byte k = (storedByte k (fun l => bytesOf (f.src d (n / 4 + if n < 4 then 1 else 0) l) n) xs).getD (s.mem.byte k)
    let st (j : Instr) (size : Nat) : Prop :=
      frames j { srcs := [opnd d (sizeWords size), opnd a 2] } (sizeBytes size)
        (s.checkLanes f.g .wr [0, 1, 2, 3] 1 (sizeBytes size) (f.memAddr a i (sizeBytes size)) (lanesOf f.writers)) true
    st (.st8 m d a i) 0 ∧ st (.st16 m d a i) 2 ∧ st (.st32 m d a i) 4 ∧ st (.st64 m d a i) 5 ∧ st (.st128 m d a i) 6 ∧
    frames (.strel m d a b x) { srcs := [opnd d (sizeWords x.toNat), opnd a 2] } (sizeBytes x.toNat)
      (s.checkLanes f.g .wr [0, 1, 2, 3] (sizeBytes x.toNat) (sizeBytes x.toNat) (f.src a 2) (lanesOf f.writers)) false

/-- R33, R39, R55, R84, R88, R90, R163: when a turn names a slot whose word at the PC decodes to `i`, with its extension word if it takes one, and
the opportunity of its issue slot is its own (it shares it with no other, or its group is the next in turn and the slot the next of its group),
the step is exec of `i` in the state whose turn it is: the agenda's entry is taken, the group is the last that issued, and the fetch has touched
the memory system alone. An opportunity that is another's is not taken. A turn of an event is exec of the event. That the agenda gives the turns
(log 1), and the order in which R88, R90 and R163 give an opportunity (log 33), is the model's choice. -/
def Obligations.StepRunsDecoded : Prop :=
  ∀ (s : State) (gid slot : Nat) (rest : List Turn) (g : Group) (f : Frag) (i : Instr) (w x : Word),
    let s1 := s.setCtl { s.ctl with agenda := rest }
    let runs (s2 : State) : Prop := s2.frag? = some f → s2.fetchWord f.g f.sl.pc.toNat = .ok w →
      (takesExt (opOf w) = true → s2.fetchWord f.g (f.sl.pc.toNat + 4) = .ok x) →
      decodeWord w (if takesExt (opOf w) then x else 0) = .ok i →
        step s = exec i s2.fetched ∧ s2.fetched = { s2 with mem := s2.fetched.mem, msys := s2.fetched.msys, cores := s2.fetched.cores }
    (s.ctl.agenda = .issue gid slot :: rest → s1.group? gid = some g →
      (s1.alone g slot = true → runs (s1.turned g slot)) ∧
      (s1.alone g slot = false →
        (∀ h, s1.winner g = some h → h.gid = gid → s1.picks g slot = true → runs ((s1.passed g).turned g slot)) ∧
        (∀ h, s1.winner g = some h → h.gid ≠ gid ∨ s1.picks g slot = false → step s = .next s1) ∧
        (s1.winner g = none → step s = .next (s1.passed g)))) ∧
    (s.ctl.agenda = .event i :: rest → isEvent i = true → step s = exec i s1)

/-- R13, R33, R57: every step goes on: whatever the state, the turn, the operands and the data, no step faults and none is refused, and so
nothing that a context does stops another. -/
def Obligations.EveryStepGoesOn : Prop := ∀ s : State, s.goesOn

/-- R203, R214: what a step leaves is memory in its one canonical form, if what it started from was: physical memory and every
scratchpad hold each byte once, in rising order of address, and no byte that reads as an unlisted one. -/
def Obligations.MemoryStaysCanonical : Prop := ∀ s t : State, s.memoryOk → step s = .next t → t.memoryOk

/-- R34, R35, R36, R50, R51, R52: decode and encode agree. The bytes of every instruction word with any operands decode to it and leave the
bytes behind it; no event has a word; and every word that decodes is the encoding of what it decodes to, so that no bit of it is dropped. -/
def Obligations.DecodeEncode : Prop :=
  (∀ (i : Instr) (bs : List Byte), encode i ≠ [] → decodeBytes ((encode i).flatMap wordBytes ++ bs) = .ok (i, bs)) ∧
  (∀ i : Instr, encode i = [] ↔ isEvent i = true ∨ (∃ w, i = .notAnInstruction w) ∨ ∃ a, i = .instructionFetchFault a) ∧
  (∀ (w x : Word) (i : Instr), decodeWord w x = .ok i → encode i = w :: (if takesExt (opOf w) then [x] else []))

/-- R34, R35, R50, R51, R52: words written out from the encoding tables decode to what they stand for, and words that no row has are refused
by name. -/
def Obligations.WordsDecode : Prop :=
  let m : Marks := ⟨false, false⟩
  let d (w : Word) (i : Instr) : Prop := decodeWord w 0 = .ok i
  d 0b0_0_00000001_000000_000000_000000_0000#32 (.nop m) ∧
  d 0b1_1_00000001_000000_000000_000000_0000#32 (.nop ⟨true, true⟩) ∧
  d 0b0_0_00000111_010000_1111111111111110#32 (.movi m 16 0xFFFE) ∧
  d 0b0_0_00100000_010000_010001_010010_0000#32 (.add m 16 17 18) ∧
  d 0b0_0_00101011_000011_000000_010000_0010#32 (.cmp m 3 0 16 2) ∧
  d 0b0_0_01000011_000000_010000_010001_0000#32 (.xor m 0 16 17) ∧
  d 0b0_0_01100000_000011_000010_000001_0000#32 (.kand m 3 2 1) ∧
  d 0b0_1_10000000_1_010_111111111111111111#32 (.bra ⟨false, true⟩ true 2 0x3FFFF) ∧
  decodeWord 0b0_0_10000001_0_001_000000000000000100#32 9 = .ok (.brk m false 1 4 9) ∧
  d 0b0_0_10100000_010100_111000_0000000001#32 (.ld8 m 20 56 1) ∧
  d 0b0_0_10110010_010000_010010_010100_1000#32 (.axch m 16 18 20) ∧
  d 0b0_0_11000001_010000_010010_010100_1_1_01#32 (.mmin m 16 18 20 true true 1) ∧
  d 0b0_0_11001100_010000_010010_010100_0000#32 (.qenq m 16 18 20) ∧
  d 0b0_0_11010010_010000_010010_010100_0011#32 (.tkarm m 16 18 20 3) ∧
  d 0b0_0_11011100_010000_010010_00000000_1_0#32 (.cpyg m 16 18 true false) ∧
  d 0b0_0_11100001_000101_010010_010100_1_011#32 (.mmaz m 5 18 20 3) ∧
  d 0b0_0_11101000_010000_010100_011000_00_10#32 (.tex m 16 20 24 2) ∧
  d 0b0_0_11110110_00000_1_010000_000000_0011#32 (.rgrp m true 16 3) ∧
  (∀ x, decodeWord 0b0_0_00000000_0000000000000000000000#32 x = .error .unassigned) ∧
  (∀ x, decodeWord 0b0_0_11111111_0000000000000000000000#32 x = .error .unassigned) ∧
  (∀ x, decodeWord 0b0_0_00100000_010000_010001_010010_0001#32 x = .error .badField)

/-- R55, R81, R82, R83, R89: the checks at issue, in their order. A word whose marks wait, whose long-latency count is full or whose turn to load has
not come is held; else the first of these traps: role, privilege, operands, type, then the operands that are read, then a pending
destination; and only then does the instruction issue. That sources are looked at before the destination is the model's choice (log 15). -/
def Obligations.GateOrder : Prop :=
  ∀ (s : State) (f : Frag) (i : Instr) (m : Marks) (n : Need),
    let waits := ((m.s = true ∨ ∃ x, f.sl.lit = some x ∧ x.sw = true) ∧ f.g.oscount ≠ 0) ∨ (n.late = true ∧ 63 ≤ f.g.oscount) ∨ (n.load = true ∧ s.mayLoad f.g = false)
    let role := n.role = true
    let priv := n.priv = false ∨ f.g.fw = true
    let operands := i.wellFormed = true ∧ n.inAllot f = true ∧ n.legal = true
    let typed := n.typed = true
    (waits → s.gate f i m n = .hold) ∧
    (¬waits → (¬role → s.gate f i m n = .trap 0x01) ∧ (role → ¬priv → s.gate f i m n = .trap 0x0B) ∧
      (role → priv → ¬operands → s.gate f i m n = .trap 0x02) ∧ (role → priv → operands → ¬typed → s.gate f i m n = .trap 0x03) ∧
      (role → priv → operands → typed → (∀ c, f.readTrap (n.reads f) = some c → s.gate f i m n = .trap c) ∧
        (f.readTrap (n.reads f) = none → (∀ c, n.dst.bind f.dstTrap = some c → s.gate f i m n = .trap c) ∧
          (n.dst.bind f.dstTrap = none → s.gate f i m n = .go)))) ∧
    (∀ k, k < 16 → (f.g.queue f.slot)[k]? = none → f.wordTrap k = some 0x05) ∧
    (∀ k e, k < 16 → (f.g.queue f.slot)[k]? = some e → f.wordTrap k = if e.transient = true ∧ 3 ≤ k then some 0x06 else if e.pend = true then some 0x04 else none) ∧
    (∀ k, 16 ≤ k → f.wordTrap k = if k ∈ f.g.regs.pend then some 0x04 else none)

/-- R55, R98, R99, R195: an instruction that fails a check at issue parks its group with the trap's code, no AUX, no address and the
fragment's lanes, and changes no register, queue or predicate; a TRAP of a FIRMWARE group writes FWEPC and FWCAUSE, empties the group's
queues and goes on at FWVEC, and tells nobody. That LANES is the fragment's mask is the model's choice (log 29). -/
def Obligations.TrapsAtIssue : Prop :=
  ∀ (s : State) (f : Frag) (m : Marks) (d a b : Code) (i : BitVec 10) (n : Bool) (z : BitVec 2) (x : BitVec 4) (y : BitVec 3) (c : Nat),
    s.frag? = some f → coreDie f.g.core < s.dies.length →
    let traps (q : Instr) (need : Need) : Prop := s.gate f q m need = .trap c → f.g.fw = false → ∃ t, exec q s = .next t ∧ TrapParked f c 0 0 f.sl.mask t
    let w := typeWords f.g.type
    let nb := s.bRegs f.g (s.fslot f.g y.toNat)
    traps (.and m d a b) (needDAB d a b f) ∧
    traps (.add m d a b) (typedDAB anyType d a b f) ∧
    traps (.div m d a b) (lateDAB anyType d a b f) ∧
    traps (.cmp m d a b x) { typed := condTyped f.g.type x.toNat, srcs := [opnd a w], srcB := some (opnd b w) } ∧
    traps (.xrot m d a b) { srcs := [opnd a w], srcB := some (opnd b 1), dst := some (opnd d w) } ∧
    traps (.jmpi m a) { srcs := [opnd a 2] } ∧
    traps (.ld32 m d a i) { srcs := [opnd a 2], dst := some (opnd d 1), late := true, load := true } ∧
    traps (.st32 m d a i) { srcs := [opnd d 1, opnd a 2] } ∧
    traps (.madd m d a b false z) { srcs := [opnd a 2], srcB := some (opnd b (if z = 0 then 1 else 2)), dst := some (opnd d (if z = 0 then 1 else 2)), late := true } ∧
    traps (.mts m a i) { priv := firmwareReg i.toNat, srcs := [opnd a 1] } ∧
    traps (.eret m) { priv := true } ∧
    traps (.qenq m d a b) { srcs := [opnd a 2], srcB := some (opnd b 2), dst := some (opnd d 2), late := true } ∧
    traps (.cpy m d a n) { role := f.g.role.copies, srcs := [opnd a 2], dst := some (opnd d 2), late := true } ∧
    traps (.mma m d a b y) { role := f.g.role.matrices, srcs := [opnd a 2] ++ if nb = 0 then [] else [opnd b nb] } ∧
    traps (.emitp m a b) { role := f.g.role.vectors, legal := f.g.meshlet?.isSome, srcs := [opnd a 1], srcB := some (opnd b 1) } ∧
    (f.g.fw = true → s.gate f (.trap m i) m {} = .go → ∃ t h sl, exec (.trap m i) s = .next t ∧ t.group? f.g.gid = some h ∧ h.slot? f.slot = some sl ∧
      sl.pc = (s.die (coreDie f.g.core)).fwvec &&& ~~~3#64 ∧ sl.lit = none ∧ h.q0 = [] ∧ h.q1 = [] ∧ h.regs = f.g.regs ∧ h.mode = f.g.mode ∧
      (t.die (coreDie f.g.core)).fwepc = f.sl.unitPc ∧ (t.die (coreDie f.g.core)).fwcause.toNat = i.toNat * 65536 + 0x12 ∧
      (t.die (coreDie f.g.core)).notices = (s.die (coreDie f.g.core)).notices)

/-- R113, R153, R154: counting events adds to the four counters of the format and stops at FFFFFFFF; a counter that this takes from below
FPXTHR to it or above, and that has not fired, posts one event with its value; and in a context that traps arithmetic, an instruction that
raises an event in an active lane traps ARITH with the format, the union of the events and the lanes that raised one. -/
def Obligations.ArithmeticEvents : Prop :=
  ∀ (s : State) (f : Frag) (m : Marks) (d a b : Code) (x : BitVec 4),
    (∀ (c : Ctx) (unit fmt : Nat) (counts : List Nat), s.ctx? c.ctxid = some c → c.fpx.length = 20 → c.fired.length = 20 → (∀ v ∈ c.fpx, v < 2 ^ 32) → fmt < 5 → unit / 48 < s.dies.length →
      let die := unit / 48
      let u := s.countEvents c.ctxid unit fmt counts
      let new (e : Nat) : Nat := min (c.fpx.getD (4 * fmt + e) 0 + counts.getD e 0) (2 ^ 32 - 1)
      let fires (e : Nat) : Bool := c.fpxThr ≠ 0 && c.fpx.getD (4 * fmt + e) 0 < c.fpxThr && c.fpxThr ≤ new e && !c.fired.getD (4 * fmt + e) false
      (∃ c', u.ctx? c.ctxid = some c' ∧ ∀ i, i < 20 → c'.fpx.getD i 0 = if 4 * fmt ≤ i ∧ i < 4 * fmt + 4 then new (i - 4 * fmt) else c.fpx.getD i 0) ∧
      (u.die die).raised = (s.die die).raised ++ ((List.range 4).filter fires).map fun e => ⟨5, die, c.ctxid, 4 * fmt + e, new e⟩) ∧
    (let ty := f.g.type
     let w := typeWords ty
     let traps (i : Instr) (n : Need) (fmt : Nat) (v : Nat → List Nat) : Prop :=
       Runs s f i m n → f.g.fw = false → coreDie f.g.core < s.dies.length → s.trapsArith f.g = true → f.slot ∉ f.g.arithSkip →
         unionEvents (laneNums.map v) f.active ≠ 0 → ∃ t, exec i s = .next t ∧
           TrapParked f 0x11 (fmt * 256 + unionEvents (laneNums.map v) f.active) 0 (eventLanes (laneNums.map v) f.active) t
     let ab (l : Nat) : List Nat := [f.src a w l, f.srcB b w l]
     traps (.add m d a b) (typedDAB anyType d a b f) (typeFmt ty) (fun l => (byElem ty (addElem ty f.g.round f.g.sat) (ab l)).2) ∧
     traps (.mul m d a b) (typedDAB anyType d a b f) (typeFmt ty) (fun l => (byElem ty (mulElem ty f.g.round f.g.sat) (ab l)).2) ∧
     traps (.div m d a b) (lateDAB anyType d a b f) (typeFmt ty) (fun l => (byElem ty (divElem ty f.g.round f.g.sat) (ab l)).2) ∧
     traps (.rem m d a b) (lateDAB anyType d a b f) (typeFmt ty) (fun l => (byElem ty (remElem ty) (ab l)).2) ∧
     traps (.cmp m d a b x) { typed := condTyped ty x.toNat, srcs := [opnd a w], srcB := some (opnd b w) } (typeFmt ty)
       (fun l => [(compare ty x.toNat (f.src a w l) (f.srcB b w l)).2]))

/-- R449: the state after reset: no group, so every core is idle; every scratchpad word reads 0; no region has a home; no queue and no
context; every tile has no owner and RMARK 0; the quotas of R222; LDCAP 48; the reset values of R441. Beside R449: both dies are idle (R446)
and their firmware registers 0 (R195). -/
def Obligations.ResetState : Prop :=
  let s := State.reset
  s.groups = [] ∧ s.teams = [] ∧ s.launches = [] ∧ (∀ pid off n, s.padBytes pid off n = List.replicate n 0) ∧ s.msys.region = [] ∧ s.queues = [] ∧ s.contexts = [] ∧
  s.clusters.length = 96 ∧ (∀ c t, c < 96 → t < 16 → ∃ x, (s.cluster c).tiles[t]? = some x ∧ x.owner = none ∧ x.rmark = false) ∧
  s.msys.svQuota = 6 ∧ s.msys.bkQuota = 6 ∧ s.msys.classQuota 0 = 4 ∧ s.cores.length = 384 ∧ (∀ c, c < 384 → (s.core c).ldcap = 48) ∧
  (∀ off ∈ [0x008, 0x010, 0x014, 0x018, 0x01C, 0x020, 0x028, 0x030, 0x038, 0x040, 0x048, 0x04C], s.hostRegister off = 0) ∧
  s.hostRegister 0 / 65536 = 0x9640 ∧ s.hostRegister 0x050 = Config.lpcap.val ∧
  s.dies.length = 2 ∧ (∀ d, d < 2 → (s.die d).boot = 0 ∧ (s.die d).fwvec = 0 ∧ (s.die d).fwepc = 0 ∧ (s.die d).fwcause = 0) ∧ s.memoryOk
end

