-- ==== Sys2Proof/Laws/Arbiter.lean ====
section
/-! SUPPORT. What a shared engine's choice can be (R30). -/

namespace Sys2Proof.Machine

/-- What an engine has to choose from is what was put there last. -/
@[simp] theorem Die.arbOf_setArb (d : Die) (a : Arb) (h : a.order ≠ []) : (d.setArb a).arbOf a.engine = a := by
  have hn : (d.arb.filter fun b => !decide (b.engine = a.engine)).find? (fun b => b.engine = a.engine) = none := by
    rw [List.find?_eq_none]; simp
  simp [Die.setArb, Die.arbOf, h, List.find?_append, -List.find?_filter, hn]

/-- An engine chooses what it chose before, or a context of the best class; either way one whose work it could do. -/
theorem State.engineNext_some {s : State} {die e c : Nat} {waiting : List Nat} (h : s.engineNext die e waiting = some c) :
    c ∈ waiting ∧ (((s.die die).arbOf e).chosen = some c ∨ ∀ d ∈ waiting, s.arbClass c ≤ s.arbClass d) := by
  simp only [State.engineNext] at h
  split at h
  · rename_i x hx
    obtain ⟨h1, h2⟩ := Option.filter_eq_some_iff.1 hx
    simp_all
  · have := List.find?_some h
    simp only [Bool.and_eq_true, List.contains_iff_mem, List.all_eq_true, decide_eq_true_eq] at this
    exact ⟨this.1, .inr this.2⟩

/-- With work that could be done, an engine chooses. -/
theorem State.engineNext_isSome (s : State) (die e : Nat) {waiting : List Nat} (h : waiting ≠ []) : (s.engineNext die e waiting).isSome := by
  simp only [State.engineNext]
  split
  · rfl
  · obtain ⟨c, hc, hm⟩ : ∃ c ∈ waiting, ∀ d ∈ waiting, s.arbClass c ≤ s.arbClass d := by
      clear * - h
      induction waiting with
      | nil => exact absurd rfl h
      | cons a t ih =>
        by_cases ht : t = []
        · exact ⟨a, by simp, by simp [ht]⟩
        · obtain ⟨c, hc, hm⟩ := ih ht
          by_cases hac : s.arbClass a ≤ s.arbClass c
          · exact ⟨a, by simp, by simpa using fun d hd => hac.trans (hm d hd)⟩
          · exact ⟨c, by simp [hc], by simpa using ⟨by omega, hm⟩⟩
    rw [List.find?_isSome]
    exact ⟨c, by simp [hc], by simpa [hc] using hm⟩

end Sys2Proof.Machine
end

