-- ==== Sys2Proof/Laws/State.lean ====
section
/-! SUPPORT. One lemma per field and update of State: what each update leaves in each field. -/

namespace Sys2Proof.Machine

variable (s : State)

@[simp] theorem setCtl_ctl (v) : (s.setCtl v).ctl = v := rfl
@[simp] theorem setCtl_mem (v) : (s.setCtl v).mem = s.mem := rfl
@[simp] theorem setCtl_msys (v) : (s.setCtl v).msys = s.msys := rfl
@[simp] theorem setCtl_net (v) : (s.setCtl v).net = s.net := rfl
@[simp] theorem setCtl_dies (v) : (s.setCtl v).dies = s.dies := rfl
@[simp] theorem setCtl_clusters (v) : (s.setCtl v).clusters = s.clusters := rfl
@[simp] theorem setCtl_cores (v) : (s.setCtl v).cores = s.cores := rfl
@[simp] theorem setCtl_pads (v) : (s.setCtl v).pads = s.pads := rfl
@[simp] theorem setCtl_contexts (v) : (s.setCtl v).contexts = s.contexts := rfl
@[simp] theorem setCtl_queues (v) : (s.setCtl v).queues = s.queues := rfl
@[simp] theorem setCtl_launches (v) : (s.setCtl v).launches = s.launches := rfl
@[simp] theorem setCtl_teams (v) : (s.setCtl v).teams = s.teams := rfl
@[simp] theorem setCtl_groups (v) : (s.setCtl v).groups = s.groups := rfl
@[simp] theorem setCtl_outs (v) : (s.setCtl v).outs = s.outs := rfl
@[simp] theorem setCtl_gangs (v) : (s.setCtl v).gangs = s.gangs := rfl
@[simp] theorem setCtl_frames (v) : (s.setCtl v).frames = s.frames := rfl
@[simp] theorem setCtl_host (v) : (s.setCtl v).host = s.host := rfl
@[simp] theorem setCtl_events (v) : (s.setCtl v).events = s.events := rfl

@[simp] theorem setMem_ctl (v) : (s.setMem v).ctl = s.ctl := rfl
@[simp] theorem setMem_mem (v) : (s.setMem v).mem = v := rfl
@[simp] theorem setMem_msys (v) : (s.setMem v).msys = s.msys := rfl
@[simp] theorem setMem_net (v) : (s.setMem v).net = s.net := rfl
@[simp] theorem setMem_dies (v) : (s.setMem v).dies = s.dies := rfl
@[simp] theorem setMem_clusters (v) : (s.setMem v).clusters = s.clusters := rfl
@[simp] theorem setMem_cores (v) : (s.setMem v).cores = s.cores := rfl
@[simp] theorem setMem_pads (v) : (s.setMem v).pads = s.pads := rfl
@[simp] theorem setMem_contexts (v) : (s.setMem v).contexts = s.contexts := rfl
@[simp] theorem setMem_queues (v) : (s.setMem v).queues = s.queues := rfl
@[simp] theorem setMem_launches (v) : (s.setMem v).launches = s.launches := rfl
@[simp] theorem setMem_teams (v) : (s.setMem v).teams = s.teams := rfl
@[simp] theorem setMem_groups (v) : (s.setMem v).groups = s.groups := rfl
@[simp] theorem setMem_outs (v) : (s.setMem v).outs = s.outs := rfl
@[simp] theorem setMem_gangs (v) : (s.setMem v).gangs = s.gangs := rfl
@[simp] theorem setMem_frames (v) : (s.setMem v).frames = s.frames := rfl
@[simp] theorem setMem_host (v) : (s.setMem v).host = s.host := rfl
@[simp] theorem setMem_events (v) : (s.setMem v).events = s.events := rfl

@[simp] theorem setMsys_ctl (v) : (s.setMsys v).ctl = s.ctl := rfl
@[simp] theorem setMsys_mem (v) : (s.setMsys v).mem = s.mem := rfl
@[simp] theorem setMsys_msys (v) : (s.setMsys v).msys = v := rfl
@[simp] theorem setMsys_net (v) : (s.setMsys v).net = s.net := rfl
@[simp] theorem setMsys_dies (v) : (s.setMsys v).dies = s.dies := rfl
@[simp] theorem setMsys_clusters (v) : (s.setMsys v).clusters = s.clusters := rfl
@[simp] theorem setMsys_cores (v) : (s.setMsys v).cores = s.cores := rfl
@[simp] theorem setMsys_pads (v) : (s.setMsys v).pads = s.pads := rfl
@[simp] theorem setMsys_contexts (v) : (s.setMsys v).contexts = s.contexts := rfl
@[simp] theorem setMsys_queues (v) : (s.setMsys v).queues = s.queues := rfl
@[simp] theorem setMsys_launches (v) : (s.setMsys v).launches = s.launches := rfl
@[simp] theorem setMsys_teams (v) : (s.setMsys v).teams = s.teams := rfl
@[simp] theorem setMsys_groups (v) : (s.setMsys v).groups = s.groups := rfl
@[simp] theorem setMsys_outs (v) : (s.setMsys v).outs = s.outs := rfl
@[simp] theorem setMsys_gangs (v) : (s.setMsys v).gangs = s.gangs := rfl
@[simp] theorem setMsys_frames (v) : (s.setMsys v).frames = s.frames := rfl
@[simp] theorem setMsys_host (v) : (s.setMsys v).host = s.host := rfl
@[simp] theorem setMsys_events (v) : (s.setMsys v).events = s.events := rfl

@[simp] theorem setNet_ctl (v) : (s.setNet v).ctl = s.ctl := rfl
@[simp] theorem setNet_mem (v) : (s.setNet v).mem = s.mem := rfl
@[simp] theorem setNet_msys (v) : (s.setNet v).msys = s.msys := rfl
@[simp] theorem setNet_net (v) : (s.setNet v).net = v := rfl
@[simp] theorem setNet_dies (v) : (s.setNet v).dies = s.dies := rfl
@[simp] theorem setNet_clusters (v) : (s.setNet v).clusters = s.clusters := rfl
@[simp] theorem setNet_cores (v) : (s.setNet v).cores = s.cores := rfl
@[simp] theorem setNet_pads (v) : (s.setNet v).pads = s.pads := rfl
@[simp] theorem setNet_contexts (v) : (s.setNet v).contexts = s.contexts := rfl
@[simp] theorem setNet_queues (v) : (s.setNet v).queues = s.queues := rfl
@[simp] theorem setNet_launches (v) : (s.setNet v).launches = s.launches := rfl
@[simp] theorem setNet_teams (v) : (s.setNet v).teams = s.teams := rfl
@[simp] theorem setNet_groups (v) : (s.setNet v).groups = s.groups := rfl
@[simp] theorem setNet_outs (v) : (s.setNet v).outs = s.outs := rfl
@[simp] theorem setNet_gangs (v) : (s.setNet v).gangs = s.gangs := rfl
@[simp] theorem setNet_frames (v) : (s.setNet v).frames = s.frames := rfl
@[simp] theorem setNet_host (v) : (s.setNet v).host = s.host := rfl
@[simp] theorem setNet_events (v) : (s.setNet v).events = s.events := rfl

@[simp] theorem setDies_ctl (v) : (s.setDies v).ctl = s.ctl := rfl
@[simp] theorem setDies_mem (v) : (s.setDies v).mem = s.mem := rfl
@[simp] theorem setDies_msys (v) : (s.setDies v).msys = s.msys := rfl
@[simp] theorem setDies_net (v) : (s.setDies v).net = s.net := rfl
@[simp] theorem setDies_dies (v) : (s.setDies v).dies = v := rfl
@[simp] theorem setDies_clusters (v) : (s.setDies v).clusters = s.clusters := rfl
@[simp] theorem setDies_cores (v) : (s.setDies v).cores = s.cores := rfl
@[simp] theorem setDies_pads (v) : (s.setDies v).pads = s.pads := rfl
@[simp] theorem setDies_contexts (v) : (s.setDies v).contexts = s.contexts := rfl
@[simp] theorem setDies_queues (v) : (s.setDies v).queues = s.queues := rfl
@[simp] theorem setDies_launches (v) : (s.setDies v).launches = s.launches := rfl
@[simp] theorem setDies_teams (v) : (s.setDies v).teams = s.teams := rfl
@[simp] theorem setDies_groups (v) : (s.setDies v).groups = s.groups := rfl
@[simp] theorem setDies_outs (v) : (s.setDies v).outs = s.outs := rfl
@[simp] theorem setDies_gangs (v) : (s.setDies v).gangs = s.gangs := rfl
@[simp] theorem setDies_frames (v) : (s.setDies v).frames = s.frames := rfl
@[simp] theorem setDies_host (v) : (s.setDies v).host = s.host := rfl
@[simp] theorem setDies_events (v) : (s.setDies v).events = s.events := rfl

@[simp] theorem setClusters_ctl (v) : (s.setClusters v).ctl = s.ctl := rfl
@[simp] theorem setClusters_mem (v) : (s.setClusters v).mem = s.mem := rfl
@[simp] theorem setClusters_msys (v) : (s.setClusters v).msys = s.msys := rfl
@[simp] theorem setClusters_net (v) : (s.setClusters v).net = s.net := rfl
@[simp] theorem setClusters_dies (v) : (s.setClusters v).dies = s.dies := rfl
@[simp] theorem setClusters_clusters (v) : (s.setClusters v).clusters = v := rfl
@[simp] theorem setClusters_cores (v) : (s.setClusters v).cores = s.cores := rfl
@[simp] theorem setClusters_pads (v) : (s.setClusters v).pads = s.pads := rfl
@[simp] theorem setClusters_contexts (v) : (s.setClusters v).contexts = s.contexts := rfl
@[simp] theorem setClusters_queues (v) : (s.setClusters v).queues = s.queues := rfl
@[simp] theorem setClusters_launches (v) : (s.setClusters v).launches = s.launches := rfl
@[simp] theorem setClusters_teams (v) : (s.setClusters v).teams = s.teams := rfl
@[simp] theorem setClusters_groups (v) : (s.setClusters v).groups = s.groups := rfl
@[simp] theorem setClusters_outs (v) : (s.setClusters v).outs = s.outs := rfl
@[simp] theorem setClusters_gangs (v) : (s.setClusters v).gangs = s.gangs := rfl
@[simp] theorem setClusters_frames (v) : (s.setClusters v).frames = s.frames := rfl
@[simp] theorem setClusters_host (v) : (s.setClusters v).host = s.host := rfl
@[simp] theorem setClusters_events (v) : (s.setClusters v).events = s.events := rfl

@[simp] theorem setCores_ctl (v) : (s.setCores v).ctl = s.ctl := rfl
@[simp] theorem setCores_mem (v) : (s.setCores v).mem = s.mem := rfl
@[simp] theorem setCores_msys (v) : (s.setCores v).msys = s.msys := rfl
@[simp] theorem setCores_net (v) : (s.setCores v).net = s.net := rfl
@[simp] theorem setCores_dies (v) : (s.setCores v).dies = s.dies := rfl
@[simp] theorem setCores_clusters (v) : (s.setCores v).clusters = s.clusters := rfl
@[simp] theorem setCores_cores (v) : (s.setCores v).cores = v := rfl
@[simp] theorem setCores_pads (v) : (s.setCores v).pads = s.pads := rfl
@[simp] theorem setCores_contexts (v) : (s.setCores v).contexts = s.contexts := rfl
@[simp] theorem setCores_queues (v) : (s.setCores v).queues = s.queues := rfl
@[simp] theorem setCores_launches (v) : (s.setCores v).launches = s.launches := rfl
@[simp] theorem setCores_teams (v) : (s.setCores v).teams = s.teams := rfl
@[simp] theorem setCores_groups (v) : (s.setCores v).groups = s.groups := rfl
@[simp] theorem setCores_outs (v) : (s.setCores v).outs = s.outs := rfl
@[simp] theorem setCores_gangs (v) : (s.setCores v).gangs = s.gangs := rfl
@[simp] theorem setCores_frames (v) : (s.setCores v).frames = s.frames := rfl
@[simp] theorem setCores_host (v) : (s.setCores v).host = s.host := rfl
@[simp] theorem setCores_events (v) : (s.setCores v).events = s.events := rfl

@[simp] theorem setPads_ctl (v) : (s.setPads v).ctl = s.ctl := rfl
@[simp] theorem setPads_mem (v) : (s.setPads v).mem = s.mem := rfl
@[simp] theorem setPads_msys (v) : (s.setPads v).msys = s.msys := rfl
@[simp] theorem setPads_net (v) : (s.setPads v).net = s.net := rfl
@[simp] theorem setPads_dies (v) : (s.setPads v).dies = s.dies := rfl
@[simp] theorem setPads_clusters (v) : (s.setPads v).clusters = s.clusters := rfl
@[simp] theorem setPads_cores (v) : (s.setPads v).cores = s.cores := rfl
@[simp] theorem setPads_pads (v) : (s.setPads v).pads = v := rfl
@[simp] theorem setPads_contexts (v) : (s.setPads v).contexts = s.contexts := rfl
@[simp] theorem setPads_queues (v) : (s.setPads v).queues = s.queues := rfl
@[simp] theorem setPads_launches (v) : (s.setPads v).launches = s.launches := rfl
@[simp] theorem setPads_teams (v) : (s.setPads v).teams = s.teams := rfl
@[simp] theorem setPads_groups (v) : (s.setPads v).groups = s.groups := rfl
@[simp] theorem setPads_outs (v) : (s.setPads v).outs = s.outs := rfl
@[simp] theorem setPads_gangs (v) : (s.setPads v).gangs = s.gangs := rfl
@[simp] theorem setPads_frames (v) : (s.setPads v).frames = s.frames := rfl
@[simp] theorem setPads_host (v) : (s.setPads v).host = s.host := rfl
@[simp] theorem setPads_events (v) : (s.setPads v).events = s.events := rfl

@[simp] theorem setContexts_ctl (v) : (s.setContexts v).ctl = s.ctl := rfl
@[simp] theorem setContexts_mem (v) : (s.setContexts v).mem = s.mem := rfl
@[simp] theorem setContexts_msys (v) : (s.setContexts v).msys = s.msys := rfl
@[simp] theorem setContexts_net (v) : (s.setContexts v).net = s.net := rfl
@[simp] theorem setContexts_dies (v) : (s.setContexts v).dies = s.dies := rfl
@[simp] theorem setContexts_clusters (v) : (s.setContexts v).clusters = s.clusters := rfl
@[simp] theorem setContexts_cores (v) : (s.setContexts v).cores = s.cores := rfl
@[simp] theorem setContexts_pads (v) : (s.setContexts v).pads = s.pads := rfl
@[simp] theorem setContexts_contexts (v) : (s.setContexts v).contexts = v := rfl
@[simp] theorem setContexts_queues (v) : (s.setContexts v).queues = s.queues := rfl
@[simp] theorem setContexts_launches (v) : (s.setContexts v).launches = s.launches := rfl
@[simp] theorem setContexts_teams (v) : (s.setContexts v).teams = s.teams := rfl
@[simp] theorem setContexts_groups (v) : (s.setContexts v).groups = s.groups := rfl
@[simp] theorem setContexts_outs (v) : (s.setContexts v).outs = s.outs := rfl
@[simp] theorem setContexts_gangs (v) : (s.setContexts v).gangs = s.gangs := rfl
@[simp] theorem setContexts_frames (v) : (s.setContexts v).frames = s.frames := rfl
@[simp] theorem setContexts_host (v) : (s.setContexts v).host = s.host := rfl
@[simp] theorem setContexts_events (v) : (s.setContexts v).events = s.events := rfl

@[simp] theorem setQueues_ctl (v) : (s.setQueues v).ctl = s.ctl := rfl
@[simp] theorem setQueues_mem (v) : (s.setQueues v).mem = s.mem := rfl
@[simp] theorem setQueues_msys (v) : (s.setQueues v).msys = s.msys := rfl
@[simp] theorem setQueues_net (v) : (s.setQueues v).net = s.net := rfl
@[simp] theorem setQueues_dies (v) : (s.setQueues v).dies = s.dies := rfl
@[simp] theorem setQueues_clusters (v) : (s.setQueues v).clusters = s.clusters := rfl
@[simp] theorem setQueues_cores (v) : (s.setQueues v).cores = s.cores := rfl
@[simp] theorem setQueues_pads (v) : (s.setQueues v).pads = s.pads := rfl
@[simp] theorem setQueues_contexts (v) : (s.setQueues v).contexts = s.contexts := rfl
@[simp] theorem setQueues_queues (v) : (s.setQueues v).queues = v := rfl
@[simp] theorem setQueues_launches (v) : (s.setQueues v).launches = s.launches := rfl
@[simp] theorem setQueues_teams (v) : (s.setQueues v).teams = s.teams := rfl
@[simp] theorem setQueues_groups (v) : (s.setQueues v).groups = s.groups := rfl
@[simp] theorem setQueues_outs (v) : (s.setQueues v).outs = s.outs := rfl
@[simp] theorem setQueues_gangs (v) : (s.setQueues v).gangs = s.gangs := rfl
@[simp] theorem setQueues_frames (v) : (s.setQueues v).frames = s.frames := rfl
@[simp] theorem setQueues_host (v) : (s.setQueues v).host = s.host := rfl
@[simp] theorem setQueues_events (v) : (s.setQueues v).events = s.events := rfl

@[simp] theorem setLaunches_ctl (v) : (s.setLaunches v).ctl = s.ctl := rfl
@[simp] theorem setLaunches_mem (v) : (s.setLaunches v).mem = s.mem := rfl
@[simp] theorem setLaunches_msys (v) : (s.setLaunches v).msys = s.msys := rfl
@[simp] theorem setLaunches_net (v) : (s.setLaunches v).net = s.net := rfl
@[simp] theorem setLaunches_dies (v) : (s.setLaunches v).dies = s.dies := rfl
@[simp] theorem setLaunches_clusters (v) : (s.setLaunches v).clusters = s.clusters := rfl
@[simp] theorem setLaunches_cores (v) : (s.setLaunches v).cores = s.cores := rfl
@[simp] theorem setLaunches_pads (v) : (s.setLaunches v).pads = s.pads := rfl
@[simp] theorem setLaunches_contexts (v) : (s.setLaunches v).contexts = s.contexts := rfl
@[simp] theorem setLaunches_queues (v) : (s.setLaunches v).queues = s.queues := rfl
@[simp] theorem setLaunches_launches (v) : (s.setLaunches v).launches = v := rfl
@[simp] theorem setLaunches_teams (v) : (s.setLaunches v).teams = s.teams := rfl
@[simp] theorem setLaunches_groups (v) : (s.setLaunches v).groups = s.groups := rfl
@[simp] theorem setLaunches_outs (v) : (s.setLaunches v).outs = s.outs := rfl
@[simp] theorem setLaunches_gangs (v) : (s.setLaunches v).gangs = s.gangs := rfl
@[simp] theorem setLaunches_frames (v) : (s.setLaunches v).frames = s.frames := rfl
@[simp] theorem setLaunches_host (v) : (s.setLaunches v).host = s.host := rfl
@[simp] theorem setLaunches_events (v) : (s.setLaunches v).events = s.events := rfl

@[simp] theorem setTeams_ctl (v) : (s.setTeams v).ctl = s.ctl := rfl
@[simp] theorem setTeams_mem (v) : (s.setTeams v).mem = s.mem := rfl
@[simp] theorem setTeams_msys (v) : (s.setTeams v).msys = s.msys := rfl
@[simp] theorem setTeams_net (v) : (s.setTeams v).net = s.net := rfl
@[simp] theorem setTeams_dies (v) : (s.setTeams v).dies = s.dies := rfl
@[simp] theorem setTeams_clusters (v) : (s.setTeams v).clusters = s.clusters := rfl
@[simp] theorem setTeams_cores (v) : (s.setTeams v).cores = s.cores := rfl
@[simp] theorem setTeams_pads (v) : (s.setTeams v).pads = s.pads := rfl
@[simp] theorem setTeams_contexts (v) : (s.setTeams v).contexts = s.contexts := rfl
@[simp] theorem setTeams_queues (v) : (s.setTeams v).queues = s.queues := rfl
@[simp] theorem setTeams_launches (v) : (s.setTeams v).launches = s.launches := rfl
@[simp] theorem setTeams_teams (v) : (s.setTeams v).teams = v := rfl
@[simp] theorem setTeams_groups (v) : (s.setTeams v).groups = s.groups := rfl
@[simp] theorem setTeams_outs (v) : (s.setTeams v).outs = s.outs := rfl
@[simp] theorem setTeams_gangs (v) : (s.setTeams v).gangs = s.gangs := rfl
@[simp] theorem setTeams_frames (v) : (s.setTeams v).frames = s.frames := rfl
@[simp] theorem setTeams_host (v) : (s.setTeams v).host = s.host := rfl
@[simp] theorem setTeams_events (v) : (s.setTeams v).events = s.events := rfl

@[simp] theorem setGroups_ctl (v) : (s.setGroups v).ctl = s.ctl := rfl
@[simp] theorem setGroups_mem (v) : (s.setGroups v).mem = s.mem := rfl
@[simp] theorem setGroups_msys (v) : (s.setGroups v).msys = s.msys := rfl
@[simp] theorem setGroups_net (v) : (s.setGroups v).net = s.net := rfl
@[simp] theorem setGroups_dies (v) : (s.setGroups v).dies = s.dies := rfl
@[simp] theorem setGroups_clusters (v) : (s.setGroups v).clusters = s.clusters := rfl
@[simp] theorem setGroups_cores (v) : (s.setGroups v).cores = s.cores := rfl
@[simp] theorem setGroups_pads (v) : (s.setGroups v).pads = s.pads := rfl
@[simp] theorem setGroups_contexts (v) : (s.setGroups v).contexts = s.contexts := rfl
@[simp] theorem setGroups_queues (v) : (s.setGroups v).queues = s.queues := rfl
@[simp] theorem setGroups_launches (v) : (s.setGroups v).launches = s.launches := rfl
@[simp] theorem setGroups_teams (v) : (s.setGroups v).teams = s.teams := rfl
@[simp] theorem setGroups_groups (v) : (s.setGroups v).groups = v := rfl
@[simp] theorem setGroups_outs (v) : (s.setGroups v).outs = s.outs := rfl
@[simp] theorem setGroups_gangs (v) : (s.setGroups v).gangs = s.gangs := rfl
@[simp] theorem setGroups_frames (v) : (s.setGroups v).frames = s.frames := rfl
@[simp] theorem setGroups_host (v) : (s.setGroups v).host = s.host := rfl
@[simp] theorem setGroups_events (v) : (s.setGroups v).events = s.events := rfl

@[simp] theorem setOuts_ctl (v) : (s.setOuts v).ctl = s.ctl := rfl
@[simp] theorem setOuts_mem (v) : (s.setOuts v).mem = s.mem := rfl
@[simp] theorem setOuts_msys (v) : (s.setOuts v).msys = s.msys := rfl
@[simp] theorem setOuts_net (v) : (s.setOuts v).net = s.net := rfl
@[simp] theorem setOuts_dies (v) : (s.setOuts v).dies = s.dies := rfl
@[simp] theorem setOuts_clusters (v) : (s.setOuts v).clusters = s.clusters := rfl
@[simp] theorem setOuts_cores (v) : (s.setOuts v).cores = s.cores := rfl
@[simp] theorem setOuts_pads (v) : (s.setOuts v).pads = s.pads := rfl
@[simp] theorem setOuts_contexts (v) : (s.setOuts v).contexts = s.contexts := rfl
@[simp] theorem setOuts_queues (v) : (s.setOuts v).queues = s.queues := rfl
@[simp] theorem setOuts_launches (v) : (s.setOuts v).launches = s.launches := rfl
@[simp] theorem setOuts_teams (v) : (s.setOuts v).teams = s.teams := rfl
@[simp] theorem setOuts_groups (v) : (s.setOuts v).groups = s.groups := rfl
@[simp] theorem setOuts_outs (v) : (s.setOuts v).outs = v := rfl
@[simp] theorem setOuts_gangs (v) : (s.setOuts v).gangs = s.gangs := rfl
@[simp] theorem setOuts_frames (v) : (s.setOuts v).frames = s.frames := rfl
@[simp] theorem setOuts_host (v) : (s.setOuts v).host = s.host := rfl
@[simp] theorem setOuts_events (v) : (s.setOuts v).events = s.events := rfl

@[simp] theorem setGangs_ctl (v) : (s.setGangs v).ctl = s.ctl := rfl
@[simp] theorem setGangs_mem (v) : (s.setGangs v).mem = s.mem := rfl
@[simp] theorem setGangs_msys (v) : (s.setGangs v).msys = s.msys := rfl
@[simp] theorem setGangs_net (v) : (s.setGangs v).net = s.net := rfl
@[simp] theorem setGangs_dies (v) : (s.setGangs v).dies = s.dies := rfl
@[simp] theorem setGangs_clusters (v) : (s.setGangs v).clusters = s.clusters := rfl
@[simp] theorem setGangs_cores (v) : (s.setGangs v).cores = s.cores := rfl
@[simp] theorem setGangs_pads (v) : (s.setGangs v).pads = s.pads := rfl
@[simp] theorem setGangs_contexts (v) : (s.setGangs v).contexts = s.contexts := rfl
@[simp] theorem setGangs_queues (v) : (s.setGangs v).queues = s.queues := rfl
@[simp] theorem setGangs_launches (v) : (s.setGangs v).launches = s.launches := rfl
@[simp] theorem setGangs_teams (v) : (s.setGangs v).teams = s.teams := rfl
@[simp] theorem setGangs_groups (v) : (s.setGangs v).groups = s.groups := rfl
@[simp] theorem setGangs_outs (v) : (s.setGangs v).outs = s.outs := rfl
@[simp] theorem setGangs_gangs (v) : (s.setGangs v).gangs = v := rfl
@[simp] theorem setGangs_frames (v) : (s.setGangs v).frames = s.frames := rfl
@[simp] theorem setGangs_host (v) : (s.setGangs v).host = s.host := rfl
@[simp] theorem setGangs_events (v) : (s.setGangs v).events = s.events := rfl

@[simp] theorem setFrames_ctl (v) : (s.setFrames v).ctl = s.ctl := rfl
@[simp] theorem setFrames_mem (v) : (s.setFrames v).mem = s.mem := rfl
@[simp] theorem setFrames_msys (v) : (s.setFrames v).msys = s.msys := rfl
@[simp] theorem setFrames_net (v) : (s.setFrames v).net = s.net := rfl
@[simp] theorem setFrames_dies (v) : (s.setFrames v).dies = s.dies := rfl
@[simp] theorem setFrames_clusters (v) : (s.setFrames v).clusters = s.clusters := rfl
@[simp] theorem setFrames_cores (v) : (s.setFrames v).cores = s.cores := rfl
@[simp] theorem setFrames_pads (v) : (s.setFrames v).pads = s.pads := rfl
@[simp] theorem setFrames_contexts (v) : (s.setFrames v).contexts = s.contexts := rfl
@[simp] theorem setFrames_queues (v) : (s.setFrames v).queues = s.queues := rfl
@[simp] theorem setFrames_launches (v) : (s.setFrames v).launches = s.launches := rfl
@[simp] theorem setFrames_teams (v) : (s.setFrames v).teams = s.teams := rfl
@[simp] theorem setFrames_groups (v) : (s.setFrames v).groups = s.groups := rfl
@[simp] theorem setFrames_outs (v) : (s.setFrames v).outs = s.outs := rfl
@[simp] theorem setFrames_gangs (v) : (s.setFrames v).gangs = s.gangs := rfl
@[simp] theorem setFrames_frames (v) : (s.setFrames v).frames = v := rfl
@[simp] theorem setFrames_host (v) : (s.setFrames v).host = s.host := rfl
@[simp] theorem setFrames_events (v) : (s.setFrames v).events = s.events := rfl

@[simp] theorem setHost_ctl (v) : (s.setHost v).ctl = s.ctl := rfl
@[simp] theorem setHost_mem (v) : (s.setHost v).mem = s.mem := rfl
@[simp] theorem setHost_msys (v) : (s.setHost v).msys = s.msys := rfl
@[simp] theorem setHost_net (v) : (s.setHost v).net = s.net := rfl
@[simp] theorem setHost_dies (v) : (s.setHost v).dies = s.dies := rfl
@[simp] theorem setHost_clusters (v) : (s.setHost v).clusters = s.clusters := rfl
@[simp] theorem setHost_cores (v) : (s.setHost v).cores = s.cores := rfl
@[simp] theorem setHost_pads (v) : (s.setHost v).pads = s.pads := rfl
@[simp] theorem setHost_contexts (v) : (s.setHost v).contexts = s.contexts := rfl
@[simp] theorem setHost_queues (v) : (s.setHost v).queues = s.queues := rfl
@[simp] theorem setHost_launches (v) : (s.setHost v).launches = s.launches := rfl
@[simp] theorem setHost_teams (v) : (s.setHost v).teams = s.teams := rfl
@[simp] theorem setHost_groups (v) : (s.setHost v).groups = s.groups := rfl
@[simp] theorem setHost_outs (v) : (s.setHost v).outs = s.outs := rfl
@[simp] theorem setHost_gangs (v) : (s.setHost v).gangs = s.gangs := rfl
@[simp] theorem setHost_frames (v) : (s.setHost v).frames = s.frames := rfl
@[simp] theorem setHost_host (v) : (s.setHost v).host = v := rfl
@[simp] theorem setHost_events (v) : (s.setHost v).events = s.events := rfl

@[simp] theorem setEvents_ctl (v) : (s.setEvents v).ctl = s.ctl := rfl
@[simp] theorem setEvents_mem (v) : (s.setEvents v).mem = s.mem := rfl
@[simp] theorem setEvents_msys (v) : (s.setEvents v).msys = s.msys := rfl
@[simp] theorem setEvents_net (v) : (s.setEvents v).net = s.net := rfl
@[simp] theorem setEvents_dies (v) : (s.setEvents v).dies = s.dies := rfl
@[simp] theorem setEvents_clusters (v) : (s.setEvents v).clusters = s.clusters := rfl
@[simp] theorem setEvents_cores (v) : (s.setEvents v).cores = s.cores := rfl
@[simp] theorem setEvents_pads (v) : (s.setEvents v).pads = s.pads := rfl
@[simp] theorem setEvents_contexts (v) : (s.setEvents v).contexts = s.contexts := rfl
@[simp] theorem setEvents_queues (v) : (s.setEvents v).queues = s.queues := rfl
@[simp] theorem setEvents_launches (v) : (s.setEvents v).launches = s.launches := rfl
@[simp] theorem setEvents_teams (v) : (s.setEvents v).teams = s.teams := rfl
@[simp] theorem setEvents_groups (v) : (s.setEvents v).groups = s.groups := rfl
@[simp] theorem setEvents_outs (v) : (s.setEvents v).outs = s.outs := rfl
@[simp] theorem setEvents_gangs (v) : (s.setEvents v).gangs = s.gangs := rfl
@[simp] theorem setEvents_frames (v) : (s.setEvents v).frames = s.frames := rfl
@[simp] theorem setEvents_host (v) : (s.setEvents v).host = s.host := rfl
@[simp] theorem setEvents_events (v) : (s.setEvents v).events = v := rfl

@[simp] theorem setCtl_setCtl (v w) : (s.setCtl v).setCtl w = s.setCtl w := rfl
@[simp] theorem setCtl_self : s.setCtl s.ctl = s := rfl
@[simp] theorem setMem_setMem (v w) : (s.setMem v).setMem w = s.setMem w := rfl
@[simp] theorem setMem_self : s.setMem s.mem = s := rfl
@[simp] theorem setMsys_setMsys (v w) : (s.setMsys v).setMsys w = s.setMsys w := rfl
@[simp] theorem setMsys_self : s.setMsys s.msys = s := rfl
@[simp] theorem setNet_setNet (v w) : (s.setNet v).setNet w = s.setNet w := rfl
@[simp] theorem setNet_self : s.setNet s.net = s := rfl
@[simp] theorem setDies_setDies (v w) : (s.setDies v).setDies w = s.setDies w := rfl
@[simp] theorem setDies_self : s.setDies s.dies = s := rfl
@[simp] theorem setClusters_setClusters (v w) : (s.setClusters v).setClusters w = s.setClusters w := rfl
@[simp] theorem setClusters_self : s.setClusters s.clusters = s := rfl
@[simp] theorem setCores_setCores (v w) : (s.setCores v).setCores w = s.setCores w := rfl
@[simp] theorem setCores_self : s.setCores s.cores = s := rfl
@[simp] theorem setPads_setPads (v w) : (s.setPads v).setPads w = s.setPads w := rfl
@[simp] theorem setPads_self : s.setPads s.pads = s := rfl
@[simp] theorem setContexts_setContexts (v w) : (s.setContexts v).setContexts w = s.setContexts w := rfl
@[simp] theorem setContexts_self : s.setContexts s.contexts = s := rfl
@[simp] theorem setQueues_setQueues (v w) : (s.setQueues v).setQueues w = s.setQueues w := rfl
@[simp] theorem setQueues_self : s.setQueues s.queues = s := rfl
@[simp] theorem setLaunches_setLaunches (v w) : (s.setLaunches v).setLaunches w = s.setLaunches w := rfl
@[simp] theorem setLaunches_self : s.setLaunches s.launches = s := rfl
@[simp] theorem setTeams_setTeams (v w) : (s.setTeams v).setTeams w = s.setTeams w := rfl
@[simp] theorem setTeams_self : s.setTeams s.teams = s := rfl
@[simp] theorem setGroups_setGroups (v w) : (s.setGroups v).setGroups w = s.setGroups w := rfl
@[simp] theorem setGroups_self : s.setGroups s.groups = s := rfl
@[simp] theorem setOuts_setOuts (v w) : (s.setOuts v).setOuts w = s.setOuts w := rfl
@[simp] theorem setOuts_self : s.setOuts s.outs = s := rfl
@[simp] theorem setGangs_setGangs (v w) : (s.setGangs v).setGangs w = s.setGangs w := rfl
@[simp] theorem setGangs_self : s.setGangs s.gangs = s := rfl
@[simp] theorem setFrames_setFrames (v w) : (s.setFrames v).setFrames w = s.setFrames w := rfl
@[simp] theorem setFrames_self : s.setFrames s.frames = s := rfl
@[simp] theorem setHost_setHost (v w) : (s.setHost v).setHost w = s.setHost w := rfl
@[simp] theorem setHost_self : s.setHost s.host = s := rfl
@[simp] theorem setEvents_setEvents (v w) : (s.setEvents v).setEvents w = s.setEvents w := rfl
@[simp] theorem setEvents_self : s.setEvents s.events = s := rfl

end Sys2Proof.Machine
end

