-- ==== Sys2Proof/Laws/Fetch.lean ====
section
/-! SUPPORT. What the memory side reads of a state: translating and fetching depend on no group, no result under way and, of the
model's control data, on the counter of free values alone. -/

namespace Sys2Proof.Machine

variable {s t : State}

/-- Two states agree on everything that an access is checked against and reads. -/
structure SameView (s t : State) : Prop where
  mem : t.mem = s.mem
  msys : t.msys = s.msys
  net : t.net = s.net
  pads : t.pads = s.pads
  dies : t.dies = s.dies
  contexts : t.contexts = s.contexts
  launches : t.launches = s.launches
  teams : t.teams = s.teams
  freeCtr : t.ctl.freeCtr = s.ctl.freeCtr

theorem sameView_setGroups (v : List Group) : SameView s (s.setGroups v) := ⟨rfl, rfl, rfl, rfl, rfl, rfl, rfl, rfl, rfl⟩
theorem sameView_putGroup (g : Group) : SameView s (s.putGroup g) := ⟨rfl, rfl, rfl, rfl, rfl, rfl, rfl, rfl, rfl⟩
theorem sameView_setOuts (v : List Outst) : SameView s (s.setOuts v) := ⟨rfl, rfl, rfl, rfl, rfl, rfl, rfl, rfl, rfl⟩
theorem sameView_setCtl {v : Ctl} (h : v.freeCtr = s.ctl.freeCtr) : SameView s (s.setCtl v) := ⟨rfl, rfl, rfl, rfl, rfl, rfl, rfl, rfl, h⟩
theorem SameView.trans {u : State} (h : SameView s t) (k : SameView t u) : SameView s u :=
  ⟨k.mem.trans h.mem, k.msys.trans h.msys, k.net.trans h.net, k.pads.trans h.pads, k.dies.trans h.dies, k.contexts.trans h.contexts,
    k.launches.trans h.launches, k.teams.trans h.teams, k.freeCtr.trans h.freeCtr⟩

theorem teamOf_view (h : SameView s t) (g : Group) : t.teamOf g = s.teamOf g := by simp only [State.teamOf, State.team?, h.teams]
theorem ctxOf_view (h : SameView s t) (g : Group) : t.ctxOf g = s.ctxOf g := by
  simp only [State.ctxOf, teamOf_view h, State.ctx?, h.contexts]
theorem agentOf_view (h : SameView s t) (g : Group) : t.agentOf g = s.agentOf g := by
  simp only [State.agentOf, ctxOf_view h, State.die, h.dies]
theorem preempting_view (h : SameView s t) (g : Group) : t.preempting g = s.preempting g := by
  simp only [State.preempting, teamOf_view h]

theorem leafOf_view (h : SameView s t) (unit asid va level e : Nat) : leafOf t unit asid va level e = leafOf s unit asid va level e := by
  simp only [leafOf, modulePa, h.net]

theorem backed_view (h : SameView s t) (pa : Nat) : t.backed pa = s.backed pa := by simp only [State.backed, h.net]

theorem entry_view (h : SameView s t) (seen : List Nat) (a : Nat) : t.entry seen a = s.entry seen a := by
  simp only [State.entry, State.memSeen, State.forcedCells, backed_view h, h.mem, h.msys, h.freeCtr]

theorem walkFrom_view (h : SameView s t) (unit asid va n : Nat) :
    ∀ seen table, walkFrom t unit asid va n seen table = walkFrom s unit asid va n seen table := by
  induction n with
  | zero => exact fun _ _ => rfl
  | succ n ih =>
    intro seen table
    simp only [walkFrom, entry_view h, leafOf_view h, ih]

theorem pageOf_view (h : SameView s t) (ag : Agent) (va : Nat) : t.pageOf ag va = s.pageOf ag va := by
  simp only [State.pageOf, State.l1Hit, State.tlbHit, State.walk, h.msys, walkFrom_view h]

theorem allows_view (h : SameView s t) (ag : Agent) (acc : Acc) (x : Tlb) (va : Nat) : t.allows ag acc x va = s.allows ag acc x va := by
  simp only [State.allows, backed_view h]

theorem checkPiece_view (h : SameView s t) (ag : Agent) (acc : Acc) (p : Piece) : t.checkPiece ag acc p = s.checkPiece ag acc p := by
  simp only [State.checkPiece, pageOf_view h, allows_view h]

theorem checkPieces_view (h : SameView s t) (ag : Agent) (acc : Acc) (ps : List Piece) : t.checkPieces ag acc ps = s.checkPieces ag acc ps := by
  induction ps with
  | nil => rfl
  | cons p ps ih => simp only [State.checkPieces, checkPiece_view h, ih]

theorem readBits_view (h : SameView s t) (core : Nat) (bs : List Bit) : t.readBits core bs = s.readBits core bs := by
  have hb : t.readBit core = s.readBit core := by
    funext b
    simp only [State.readBit, State.padBytes, State.pad?, State.byteAt, h.pads, h.msys, h.mem, h.freeCtr]
  simp only [State.readBits, hb]

/-- A fetch reads the same word. -/
theorem fetchWord_view (h : SameView s t) (g : Group) (a : Nat) : t.fetchWord g a = s.fetchWord g a := by
  simp only [State.fetchWord, agentOf_view h, checkPieces_view h, readBits_view h]

theorem maskWord_view (h : SameView s t) (g : Group) (a : Nat) : t.maskWord g a = s.maskWord g a := by
  simp only [State.maskWord, fetchWord_view h]

end Sys2Proof.Machine
end

