-- ==== Sys2Proof/Laws/Lookup.lean ====
section
/-! SUPPORT. Looking up and replacing numbered things: what put, pick and without do to one another. -/

namespace Sys2Proof.Machine

variable {α : Type} (key : α → Nat)

theorem pick_some {k : Nat} {l : List α} {x : α} (h : pick key k l = some x) : x ∈ l ∧ key x = k := by
  refine ⟨List.mem_of_find?_eq_some h, ?_⟩
  simpa using List.find?_some h

theorem pick_put_self {l : List α} {x y : α} (h : pick key (key x) l = some y) : pick key (key x) (put key x l) = some x := by
  induction l with
  | nil => simp [pick] at h
  | cons a t ih =>
    simp only [put, pick, List.map_cons, List.find?_cons] at h ih ⊢
    by_cases ha : key a = key x
    · simp [ha]
    · simp only [ha, decide_false, if_false] at h ⊢
      exact ih h

theorem pick_put_ne {l : List α} {x : α} {k : Nat} (h : key x ≠ k) : pick key k (put key x l) = pick key k l := by
  induction l with
  | nil => rfl
  | cons a t ih =>
    simp only [put, pick, List.map_cons, List.find?_cons] at ih ⊢
    by_cases ha : key a = key x
    · simp only [ha, if_true, h, decide_false]
      exact ih
    · simp only [ha, if_false]
      by_cases hk : key a = k
      · simp [hk]
      · simp only [hk, decide_false]
        exact ih

theorem put_put {l : List α} {x y : α} (h : key x = key y) : put key x (put key y l) = put key x l := by
  induction l with
  | nil => rfl
  | cons a t ih =>
    simp only [put, List.map_cons] at ih ⊢
    rw [ih]
    by_cases ha : key a = key y
    · simp [ha, h]
    · simp [ha]

/-- A change of other elements, under which each keeps its key, leaves what is found. -/
theorem pick_mapWhere_ne {key : α → Nat} {p : α → Bool} {f : α → α} (hf : ∀ x, key (f x) = key x) {k : Nat} {l : List α} {x : α}
    (h : pick key k l = some x) (hp : p x = false) : pick key k (mapWhere p f l) = some x := by
  induction l with
  | nil => simp [pick] at h
  | cons a t ih =>
    simp only [mapWhere, pick, List.map_cons, List.find?_cons] at h ih ⊢
    by_cases ha : key a = k
    · simp only [ha, decide_true, Option.some.injEq] at h
      subst h
      simp [hp, ha]
    · simp only [ha, decide_false] at h
      have ha' : key (if p a = true then f a else a) ≠ k := by split <;> simp [hf, ha]
      simp only [ha', decide_false]
      exact ih h

/-- A replacement keeps every key where it stands. -/
theorem map_key_put (l : List α) (x : α) : (put key x l).map key = l.map key := by
  induction l with
  | nil => rfl
  | cons a t ih =>
    simp only [put, List.map_cons] at ih ⊢
    rw [ih]
    by_cases ha : key a = key x <;> simp [ha]

theorem mem_without {l : List α} {k : Nat} {x : α} : x ∈ without key k l ↔ x ∈ l ∧ key x ≠ k := by
  simp [without]

/-! ## Groups -/

variable {s : State} {g h : Group}

theorem group?_gid {k : Nat} (e : s.group? k = some g) : g.gid = k := (pick_some _ e).2

theorem group?_putGroup_self (e : s.group? h.gid = some g) : (s.putGroup h).group? h.gid = some h := pick_put_self _ e

theorem group?_putGroup_ne {k : Nat} (e : h.gid ≠ k) : (s.putGroup h).group? k = s.group? k := pick_put_ne _ e

theorem putGroup_putGroup (e : g.gid = h.gid) : (s.putGroup h).putGroup g = s.putGroup g := by
  simp only [State.putGroup, setGroups_setGroups, setGroups_groups, put_put _ e]

end Sys2Proof.Machine
end

