-- ==== Sys2Proof/Laws/Group.lean ====
section
/-! SUPPORT. Slots and queues of a group: what setting one leaves in the other, and what every write of registers leaves. -/

namespace Sys2Proof.Machine

variable (g : Group) (i : Nat)

@[simp] theorem slot?_setSlot (o) : (g.setSlot i o).slot? i = o := by
  by_cases h : i = 0 <;> simp [Group.setSlot, Group.slot?, h]
@[simp] theorem slot?_setQueue (j q) : (g.setQueue j q).slot? i = g.slot? i := by
  by_cases h : j = 0 <;> by_cases k : i = 0 <;> simp [Group.setQueue, Group.slot?, h, k]
@[simp] theorem queue_setSlot (j o) : (g.setSlot j o).queue i = g.queue i := by
  by_cases h : j = 0 <;> by_cases k : i = 0 <;> simp [Group.setSlot, Group.queue, h, k]
@[simp] theorem queue_setQueue (q) : (g.setQueue i q).queue i = q := by
  by_cases h : i = 0 <;> simp [Group.setQueue, Group.queue, h]
@[simp] theorem gid_setSlot (o) : (g.setSlot i o).gid = g.gid := by
  by_cases h : i = 0 <;> simp [Group.setSlot, h]
@[simp] theorem gid_setQueue (q) : (g.setQueue i q).gid = g.gid := by
  by_cases h : i = 0 <;> simp [Group.setQueue, h]
@[simp] theorem regs_setSlot (o) : (g.setSlot i o).regs = g.regs := by
  by_cases h : i = 0 <;> simp [Group.setSlot, h]
@[simp] theorem regs_setQueue (q) : (g.setQueue i q).regs = g.regs := by
  by_cases h : i = 0 <;> simp [Group.setQueue, h]

/-- Setting a slot and a queue changes those fields only. -/
theorem setSlot_eq (o) : g.setSlot i o = { g with slot0 := (g.setSlot i o).slot0, slot1 := (g.setSlot i o).slot1 } := by
  by_cases h : i = 0 <;> simp [Group.setSlot, h]
theorem setQueue_eq (q) : g.setQueue i q = { g with q0 := (g.setQueue i q).q0, q1 := (g.setQueue i q).q1 } := by
  by_cases h : i = 0 <;> simp [Group.setQueue, h]

/-! ## Named registers -/

/-- One word of a write of named registers. -/
def namedStep (c0 : Nat) (vals : List Nat) (active : LaneMask) (g : Group) (i : Nat) : Group :=
  let c := c0 + i
  if c < 16 then g
  else if c < 56 then g.setN (c - 16) active fun l => wordAt (vals.getD l 0) i
  else match lowestLane active with
    | some l => g.setG (c - 56) (wordAt (vals.getD l 0) i)
    | none => g

variable (c0 : Nat) (vals : List Nat) (active : LaneMask)

theorem writeNamed_def (o : Opnd) : g.writeNamed o vals active = (List.range o.words).foldl (namedStep o.code vals active) g := rfl

/-- A step changes `regs` only, and neither predicates nor pending marks nor the shape of the registers. -/
theorem namedStep_regs : namedStep c0 vals active g i = { g with regs := (namedStep c0 vals active g i).regs } ∧
    (namedStep c0 vals active g i).regs.k = g.regs.k ∧ (namedStep c0 vals active g i).regs.pend = g.regs.pend ∧
    (namedStep c0 vals active g i).regs.n.length = g.regs.n.length ∧ (namedStep c0 vals active g i).regs.g.length = g.regs.g.length ∧
    ∀ r, ((namedStep c0 vals active g i).regs.n.getD r []).length = (g.regs.n.getD r []).length := by
  unfold namedStep
  dsimp only
  split
  · exact ⟨rfl, rfl, rfl, rfl, rfl, fun _ => rfl⟩
  · split
    · refine ⟨rfl, rfl, rfl, by simp [Group.setN], rfl, fun r => ?_⟩
      simp only [Group.setN, List.getD_eq_getElem?_getD, List.getElem?_modify]
      split
      · cases g.regs.n[r]? <;> simp
      · simp
    · split
      · exact ⟨rfl, rfl, rfl, rfl, by simp [Group.setG], fun _ => rfl⟩
      · exact ⟨rfl, rfl, rfl, rfl, rfl, fun _ => rfl⟩

theorem nLane_setN (r q : Nat) (v : Nat → Word) (l : Nat) (hr : r < g.regs.n.length) (hl : l < (g.regs.n.getD r []).length) :
    (g.setN q active v).nLane r l = if q = r && active.getLsbD l then v l else g.nLane r l := by
  simp only [Group.nLane, Group.setN, List.getD_eq_getElem?_getD, List.getElem?_modify, List.getElem?_eq_getElem hr] at hl ⊢
  simp only [Option.getD_some] at hl ⊢
  by_cases hq : q = r
  · simp [hq, List.getElem?_mapIdx, List.getElem?_eq_getElem hl]
  · simp [hq]

theorem namedStep_nLane (r l : Nat) (h40 : r < 40) (hr : r < g.regs.n.length) (hl : l < (g.regs.n.getD r []).length) :
    (namedStep c0 vals active g i).nLane r l =
      if c0 + i = 16 + r && active.getLsbD l then wordAt (vals.getD l 0) i else g.nLane r l := by
  unfold namedStep
  dsimp only
  split
  · rw [if_neg]; simp; omega
  · split
    · rw [nLane_setN g active r _ _ l hr hl]
      congr 1
      simp only [Bool.and_eq_true, decide_eq_true_eq, eq_iff_iff, and_congr_left_iff]
      omega
    · have hne : ¬(c0 + i = 16 + r) := by omega
      simp only [hne, decide_false, Bool.false_and]
      split <;> rfl

theorem namedStep_gReg (r : Nat) (hr : r < g.regs.g.length) :
    (namedStep c0 vals active g i).gReg r =
      if c0 + i = 56 + r then (match lowestLane active with
        | some l => wordAt (vals.getD l 0) i
        | none => g.gReg r) else g.gReg r := by
  unfold namedStep
  dsimp only
  split
  · rw [if_neg (by omega)]
  · split
    · rw [if_neg (by omega)]; rfl
    · cases lowestLane active with
      | none => simp
      | some l =>
        simp only [Group.gReg, Group.setG, List.getD_eq_getElem?_getD, List.getElem?_set]
        by_cases hq : c0 + i = 56 + r
        · rw [if_pos hq, if_pos (by omega), if_pos (by omega)]; rfl
        · rw [if_neg hq, if_neg (by omega)]

/-- The same for a whole operand: what each register holds after `n` words. -/
theorem namedFold (n : Nat) :
    let h := (List.range n).foldl (namedStep c0 vals active) g
    h = { g with regs := h.regs } ∧ h.regs.k = g.regs.k ∧ h.regs.pend = g.regs.pend ∧
    h.regs.n.length = g.regs.n.length ∧ h.regs.g.length = g.regs.g.length ∧ (∀ r, (h.regs.n.getD r []).length = (g.regs.n.getD r []).length) ∧
    (∀ r l, r < 40 → r < g.regs.n.length → l < (g.regs.n.getD r []).length →
      h.nLane r l = if (c0 ≤ 16 + r && 16 + r < c0 + n) && active.getLsbD l then wordAt (vals.getD l 0) (16 + r - c0) else g.nLane r l) ∧
    ∀ r, r < g.regs.g.length → h.gReg r = if c0 ≤ 56 + r && 56 + r < c0 + n then (match lowestLane active with
      | some l => wordAt (vals.getD l 0) (56 + r - c0)
      | none => g.gReg r) else g.gReg r := by
  induction n with
  | zero =>
    refine ⟨rfl, rfl, rfl, rfl, rfl, fun _ => rfl, fun r l _ _ _ => ?_, fun r _ => ?_⟩
    · rw [if_neg]; rfl
      simp only [Bool.and_eq_true, decide_eq_true_eq]; omega
    · rw [if_neg]; rfl
      simp only [Bool.and_eq_true, decide_eq_true_eq]; omega
  | succ n ih =>
    dsimp only at ih ⊢
    rw [List.range_succ, List.foldl_append, List.foldl_cons, List.foldl_nil]
    generalize (List.range n).foldl (namedStep c0 vals active) g = x at ih ⊢
    obtain ⟨h1, h2, h3, h4, h5, h6, h7, h8⟩ := ih
    obtain ⟨e1, e2, e3, e4, e5, e6⟩ := namedStep_regs x n c0 vals active
    refine ⟨?_, e2.trans h2, e3.trans h3, e4.trans h4, e5.trans h5, fun r => (e6 r).trans (h6 r), fun r l h40 hr hl => ?_, fun r hr => ?_⟩
    · rw [e1, h1]
    · rw [namedStep_nLane x n c0 vals active r l h40 (by omega) (by rw [h6]; exact hl), h7 r l h40 hr hl]
      cases active.getLsbD l
      · simp
      · simp only [Bool.and_true, decide_eq_true_eq, Bool.and_eq_true]
        by_cases hq : c0 + n = 16 + r
        · rw [if_pos hq, if_pos (by omega), show 16 + r - c0 = n by omega]
        · rw [if_neg hq]
          by_cases hin : c0 ≤ 16 + r ∧ 16 + r < c0 + n
          · rw [if_pos hin, if_pos (by omega)]
          · rw [if_neg hin, if_neg (by omega)]
    · rw [namedStep_gReg x n c0 vals active r (by omega), h8 r hr]
      simp only [decide_eq_true_eq, Bool.and_eq_true]
      by_cases hq : c0 + n = 56 + r
      · have h1 : c0 ≤ 56 + r ∧ 56 + r < c0 + (n + 1) := by omega
        have h0 : ¬(c0 ≤ 56 + r ∧ 56 + r < c0 + n) := by omega
        rw [if_pos hq, if_pos h1, if_neg h0, show 56 + r - c0 = n by omega]
      · rw [if_neg hq]
        by_cases hin : c0 ≤ 56 + r ∧ 56 + r < c0 + n
        · rw [if_pos hin, if_pos (by omega)]
        · rw [if_neg hin, if_neg (by omega)]

end Sys2Proof.Machine
end

