-- ==== Sys2Proof/Laws/Homes.lean ====
section
/-! SUPPORT. Requests at homes, write-backs and walks change memory and the memory system alone. -/

namespace Sys2Proof.Machine

variable {s t u : State}

/-- Two states differ in memory and the memory system at most. -/
def OnlyHomes (s t : State) : Prop := ∃ mem y, t = (s.setMem mem).setMsys y

theorem onlyHomes_refl : OnlyHomes s s := ⟨s.mem, s.msys, rfl⟩
theorem onlyHomes_trans (h : OnlyHomes s t) (k : OnlyHomes t u) : OnlyHomes s u := by
  obtain ⟨m1, y1, rfl⟩ := h
  obtain ⟨m2, y2, rfl⟩ := k
  exact ⟨m2, y2, rfl⟩
theorem onlyHomes_setMsys (y : MemSys) : OnlyHomes s (s.setMsys y) := ⟨s.mem, y, rfl⟩
theorem onlyHomes_writeHome (a : Nat) (bs : List Byte) : OnlyHomes s (s.writeHome a bs) := ⟨_, _, rfl⟩

/-- What each step of a fold changes there, the fold does. -/
theorem onlyHomes_foldl {α : Type} {f : State → α → State} (h : ∀ s x, OnlyHomes s (f s x)) (l : List α) : OnlyHomes s (l.foldl f s) := by
  induction l generalizing s with
  | nil => exact onlyHomes_refl
  | cons x l ih => exact onlyHomes_trans (h s x) ih

theorem onlyHomes_touchHome (unit a : Nat) : OnlyHomes s (s.touchHome unit a) := by
  unfold State.touchHome
  split
  · exact onlyHomes_refl
  · split
    · exact onlyHomes_refl
    · exact onlyHomes_setMsys _

theorem onlyHomes_l2Access (slice a cls ctx : Nat) : OnlyHomes s (s.l2Access slice a cls ctx) := by
  unfold State.l2Access
  dsimp only
  split
  · exact onlyHomes_setMsys _
  · split
    · exact onlyHomes_refl
    · exact onlyHomes_setMsys _

theorem onlyHomes_request (unit a cls ctx : Nat) (guest : Bool) : OnlyHomes s (s.request unit a cls ctx guest) := by
  unfold State.request
  split
  · exact onlyHomes_refl
  · have h1 := onlyHomes_trans (onlyHomes_touchHome (s := s) unit a) (onlyHomes_l2Access ((s.touchHome unit a).homeOf a) a cls ctx)
    dsimp only
    split
    · have h2 := onlyHomes_trans h1 (onlyHomes_l2Access (16 * clusterSector unit + hashLane a) a cls ctx)
      split
      · exact h2
      · exact onlyHomes_trans h2 (onlyHomes_setMsys _)
    · exact h1

theorem onlyHomes_cleanLines (p : L1Line → Bool) : OnlyHomes s (s.cleanLines p) := by
  refine onlyHomes_trans (onlyHomes_foldl (fun s l => ?_) _) (onlyHomes_setMsys _)
  unfold State.writeBack
  split
  · exact onlyHomes_refl
  · exact onlyHomes_trans (onlyHomes_touchHome _ _) (onlyHomes_foldl (fun _ _ => onlyHomes_writeHome _ _) _)

theorem onlyHomes_force (hit : Release → Bool) : OnlyHomes s (s.force hit) := onlyHomes_trans (onlyHomes_cleanLines _) (onlyHomes_setMsys _)

/-- A walk changes memory, by the write-backs of its acquires, and the memory system. -/
theorem onlyHomes_walkHomes (ag : Agent) (va : Nat) : OnlyHomes s (s.walkHomes ag va) :=
  onlyHomes_foldl (fun _ _ => onlyHomes_trans (onlyHomes_force _) (onlyHomes_request _ _ _ _ _)) _

theorem onlyHomes_install (ag : Agent) (t : Tlb) (va : Nat) : OnlyHomes s (s.install ag t va) := by
  unfold State.install
  split
  · exact onlyHomes_refl
  · exact onlyHomes_trans (onlyHomes_walkHomes ag va) (onlyHomes_setMsys _)

theorem onlyHomes_walkVa (ag : Agent) (ok : Tlb → Bool) (va : Nat) : OnlyHomes s (s.walkVa ag ok va) := by
  unfold State.walkVa
  split
  · split
    · exact onlyHomes_install _ _ _
    · exact onlyHomes_walkHomes _ _
  · exact onlyHomes_refl
  · split
    · exact onlyHomes_refl
    · exact onlyHomes_walkHomes _ _

/-- What an access that faults leaves of its walks is at the homes. -/
theorem onlyHomes_tryPieces (ag : Agent) (acc : Acc) (ps : List Piece) : OnlyHomes s (s.tryPieces ag acc ps) :=
  onlyHomes_foldl (fun _ p => by split; exacts [onlyHomes_walkVa _ _ _, onlyHomes_refl]) _

theorem onlyHomes_tryLanes (g : Group) (acc : Acc) (code : Nat) (xs : List LaneAccess) : OnlyHomes s (s.tryLanes g acc code xs) := by
  unfold State.tryLanes
  split
  · exact onlyHomes_foldl (fun _ _ => onlyHomes_tryPieces _ _ _) _
  · exact onlyHomes_refl

theorem onlyHomes_tryVa (ag : Agent) (acc : Acc) (a : Nat) : OnlyHomes s (s.tryVa ag acc a) := by
  unfold State.tryVa
  split
  · exact onlyHomes_tryPieces _ _ _
  · exact onlyHomes_refl

theorem onlyHomes_touchWord (g : Group) (a : Nat) : OnlyHomes s (s.touchWord g a) := by
  unfold State.touchWord
  dsimp only
  split
  · exact onlyHomes_trans (onlyHomes_tryPieces _ _ _) (onlyHomes_touchHome _ _)
  · exact onlyHomes_tryPieces _ _ _

theorem onlyHomes_stackRead (g : Group) : OnlyHomes s (s.stackRead g) := by
  unfold State.stackRead
  split
  · exact onlyHomes_foldl (fun _ _ => onlyHomes_request _ _ _ _ _) _
  · exact onlyHomes_refl

theorem onlyHomes_group? (h : OnlyHomes s t) (k : Nat) : t.group? k = s.group? k := by obtain ⟨_, _, rfl⟩ := h; rfl
theorem onlyHomes_dies (h : OnlyHomes s t) : t.dies = s.dies := by obtain ⟨_, _, rfl⟩ := h; rfl

end Sys2Proof.Machine
end

