-- ==== Sys2Proof/Laws/Issue.lean ====
section
/-! SUPPORT. The three fates of an instruction at issue: it is held, it traps, or its meaning runs. -/

namespace Sys2Proof.Machine

variable {s : State} {f : Frag} {i : Instr} {m : Marks} {n : Frag → Need} {body : Frag → Out} {ext : Nat}

theorem issue_go (h : Runs s f i m (n f)) : issue s i m n body ext = body f := by
  simp only [issue, h.1, h.2]

theorem issue_hold (h : s.frag? = some f) (hg : s.gate f i m (n f) = .hold) : issue s i m n body ext = .next s := by
  simp only [issue, h, hg]

theorem issue_trap {c : Nat} (h : s.frag? = some f) (hg : s.gate f i m (n f) = .trap c) :
    issue s i m n body ext = .next (s.takeTrap f (maskAt f.sl m ext) ⟨c, 0, 0, f.sl.mask⟩) := by
  simp only [issue, h, hg]

theorem issue_idle (h : s.frag? = none) : issue s i m n body ext = .next s := by
  simp only [issue, h]

/-- What the turn of a fragment says of its group and slot. -/
theorem frag?_some (h : s.frag? = some f) :
    s.group? f.g.gid = some f.g ∧ s.ctl.gid = f.g.gid ∧ s.ctl.slot = f.slot ∧ f.g.slot? f.slot = some f.sl ∧ s.mayIssue f.g = true ∧ f.sl.mayIssue = true := by
  unfold State.frag? at h
  split at h
  · cases h
  · rename_i g hg
    split at h
    · cases h
    · rename_i sl hsl
      split at h
      · rename_i hm
        cases h
        have hgid : g.gid = s.ctl.gid := (List.find?_some hg |> fun e => by simpa using e)
        rw [Bool.and_eq_true, Bool.and_eq_true] at hm
        have hm := hm.1
        exact ⟨by rw [hgid]; exact hg, hgid.symm, rfl, hsl, hm.1, hm.2⟩
      · cases h

theorem laneOp_go {d : Code} {w : Frag → Nat} {v : Frag → Nat → Nat} (h : Runs s f i m (n f)) :
    laneOp s i m n d w v = .next ((s.result f d (w f) (perLane (v f)) f.active).goOn f m) := issue_go h

theorem predOp_go {k : Code} {v : Frag → Nat → Bool} (h : Runs s f i m (n f)) :
    predOp s i m n k v = .next ((s.setPredicate f k f.active (v f)).goOn f m) := issue_go h

/-! ## Counting events -/

/-- A state that differs in the event counters, in the save areas that hold them and in the events to the host only. -/
def OnlyCounts (s t : State) : Prop :=
  ∃ cs ds mem msys, t = (((s.setContexts cs).setDies ds).setMem mem).setMsys msys ∧ msys.shootdowns = s.msys.shootdowns ∧
    ∀ k, (pick Ctx.ctxid k cs).map (fun c => (c.trapArith, c.ctxid, c.cls)) = (pick Ctx.ctxid k s.contexts).map (fun c => (c.trapArith, c.ctxid, c.cls))

theorem onlyCounts_refl : OnlyCounts s s := ⟨s.contexts, s.dies, s.mem, s.msys, rfl, rfl, fun _ => rfl⟩

theorem onlyCounts_trans {t u : State} (h : OnlyCounts s t) (k : OnlyCounts t u) : OnlyCounts s u := by
  obtain ⟨c1, d1, m1, y1, rfl, y1h, h1⟩ := h
  obtain ⟨c2, d2, m2, y2, rfl, y2h, h2⟩ := k
  exact ⟨c2, d2, m2, y2, rfl, y2h.trans y1h, fun k => (h2 k).trans (h1 k)⟩

theorem onlyCounts_postEvent (die kind ctx a b : Nat) : OnlyCounts s (s.postEvent die kind ctx a b) := ⟨s.contexts, (s.postEvent die kind ctx a b).dies, s.mem, s.msys, rfl, rfl, fun _ => rfl⟩

theorem onlyCounts_writeHome (a : Nat) (bs : List Byte) : OnlyCounts s (s.writeHome a bs) :=
  ⟨s.contexts, s.dies, (s.writeHome a bs).mem, (s.writeHome a bs).msys, rfl, rfl, fun _ => rfl⟩

theorem onlyCounts_touchHome (unit a : Nat) : OnlyCounts s (s.touchHome unit a) := by
  unfold State.touchHome
  split
  · exact onlyCounts_refl
  · split
    · exact onlyCounts_refl
    · exact ⟨s.contexts, s.dies, s.mem, _, rfl, rfl, fun _ => rfl⟩

theorem onlyCounts_putCtx {c x : Ctx} (h : s.ctx? c.ctxid = some x) (ht : c.trapArith = x.trapArith) (hc : c.cls = x.cls) : OnlyCounts s (s.putCtx c) := by
  refine ⟨put Ctx.ctxid c s.contexts, s.dies, s.mem, s.msys, rfl, rfl, fun k => ?_⟩
  by_cases hk : c.ctxid = k
  · subst hk
    have hx : pick Ctx.ctxid c.ctxid s.contexts = some x := h
    have hxid : x.ctxid = c.ctxid := (pick_some _ hx).2
    rw [pick_put_self Ctx.ctxid hx, hx]
    simp [ht, hc, hxid]
  · rw [pick_put_ne Ctx.ctxid hk]

/-- Counting floating events changes the counters and the events to the host only. -/
theorem onlyCounts_countEvents (ctxid unit fmt : Nat) (counts : List Nat) : OnlyCounts s (s.countEvents ctxid unit fmt counts) := by
  unfold State.countEvents
  generalize List.range 4 = l
  induction l generalizing s with
  | nil => exact onlyCounts_refl
  | cons e l ih =>
    rw [List.foldl_cons]
    refine onlyCounts_trans ?_ ih
    split
    · exact onlyCounts_refl
    · rename_i c hc
      have hid : c.ctxid = ctxid := (pick_some _ hc).2
      dsimp only
      split
      · exact onlyCounts_refl
      · split
        · refine onlyCounts_trans (onlyCounts_trans (onlyCounts_trans ?_ (onlyCounts_touchHome _ _)) (onlyCounts_writeHome _ _)) (onlyCounts_postEvent _ _ _ _ _)
          exact onlyCounts_putCtx (x := c) (hid ▸ hc) rfl rfl
        · refine onlyCounts_trans (onlyCounts_trans ?_ (onlyCounts_touchHome _ _)) (onlyCounts_writeHome _ _)
          exact onlyCounts_putCtx (x := c) (hid ▸ hc) rfl rfl

theorem onlyCounts_countFp (fmt : Nat) (evs : LaneEvents) (a : LaneMask) : OnlyCounts s (s.countFp f fmt evs a) := by
  unfold State.countFp
  split
  · exact onlyCounts_refl
  · exact onlyCounts_countEvents _ _ _ _

theorem trapsArith_counts {t : State} (h : OnlyCounts s t) (g : Group) : t.trapsArith g = s.trapsArith g := by
  obtain ⟨cs, ds, mem, msys, rfl, _, h⟩ := h
  have hp : ∀ k, (pick Ctx.ctxid k cs).map Ctx.trapArith = (pick Ctx.ctxid k s.contexts).map Ctx.trapArith := by
    intro k
    have := congrArg (Option.map Prod.fst) (h k)
    simpa [Option.map_map, Function.comp_def] using this
  simp only [State.trapsArith, State.ctxOf, State.teamOf, State.team?, State.ctx?, setMsys_teams, setMem_teams, setDies_teams, setContexts_teams,
    setMsys_contexts, setMem_contexts, setDies_contexts, setContexts_contexts]
  cases pick Team.tid g.tid s.teams with
  | none => rfl
  | some t =>
    have := hp t.ctx
    simp only [Option.bind_some]
    cases h1 : pick Ctx.ctxid t.ctx cs <;> cases h2 : pick Ctx.ctxid t.ctx s.contexts <;> simp_all

theorem frag?_counts {t : State} (h : OnlyCounts s t) : t.frag? = s.frag? := by
  obtain ⟨cs, ds, mem, msys, rfl, hy, _⟩ := h
  simp only [State.frag?, State.mayIssue, State.group?, setMsys_groups, setMsys_msys, setMsys_ctl, hy]
  rfl

/-- Events that raise no ARITH are counted, and the instruction goes on. -/
theorem withEvents_quiet {mask : Option Nat} {fmt : Nat} {evs : LaneEvents} {k : State → State} (h : Quiet s f evs) :
    s.withEvents f mask fmt evs f.active k = k (s.countFp f fmt evs f.active) := by
  unfold State.withEvents State.withEventsIn
  rw [if_neg (by simpa using h.1)]
  dsimp only
  rw [State.arithTraps, trapsArith_counts (onlyCounts_countFp fmt evs f.active)]
  rw [if_neg]
  rcases h.2 with h | h <;> simp [h]

/-- A result with events, in a fragment that they do not trap. -/
theorem laneEventOp_go {d : Code} {w fmt : Frag → Nat} {v : Frag → Nat → Nat × List Nat} (h : Runs s f i m (n f))
    (hq : Quiet s f (laneNums.map fun l => (v f l).2)) :
    laneEventOp s i m n d w fmt v =
      .next (((s.countFp f (fmt f) (laneNums.map fun l => (v f l).2) f.active).result f d (w f) (perLane fun l => (v f l).1) f.active).goOn f m) := by
  unfold laneEventOp
  rw [issue_go h]
  dsimp only
  rw [List.map_map, List.map_map]
  exact congrArg Host.Outcome.next (withEvents_quiet hq)

theorem laneLateOp_go {d : Code} {w fmt : Frag → Nat} {v : Frag → Nat → Nat × List Nat} (h : Runs s f i m (n f))
    (hq : Quiet s f (laneNums.map fun l => (v f l).2)) :
    laneLateOp s i m n d w fmt v =
      .next (((s.countFp f (fmt f) (laneNums.map fun l => (v f l).2) f.active).resultLater f d (w f) (perLane fun l => (v f l).1) f.active 0 .alu).goOn f m) := by
  unfold laneLateOp
  rw [issue_go h]
  dsimp only
  rw [List.map_map, List.map_map]
  exact congrArg Host.Outcome.next (withEvents_quiet hq)

end Sys2Proof.Machine
end

