-- ==== Sys2Proof/Laws/Effects.lean ====
section
/-! SUPPORT. Once for each shared operation, everything that it leaves behind, in the terms of Safety. -/

namespace Sys2Proof.Machine

variable {s : State} {f : Frag} {i : Instr} {m : Marks}

/-- Going on from a state in which only the fragment's group has changed, and its slot has not. -/
theorem goOn_put {ext : Nat} {h x : Group} (h1 : s.group? f.g.gid = some x) (hg : h.gid = f.g.gid) (hs : h.slot? f.slot = some f.sl) :
    (s.putGroup h).goOn f m ext = s.putGroup (h.issuedIn f.slot (some (f.onward s m ext))) := by
  have hget : (s.putGroup h).group? f.g.gid = some h := by rw [← hg]; exact group?_putGroup_self (hg ▸ h1)
  have hst : (s.putGroup h).stopAt f m ext (f.sl.goTo (f.sl.succ m ext)) = f.onward s m ext := by
    unfold State.stopAt Frag.onward maskAt Slot.goTo Slot.succ unitLen
    rw [preempting_view (sameView_putGroup h)]
    cases m.p
    · simp
    · simp only [if_true, maskWord_view (sameView_putGroup h), Bool.true_and]
      split <;> rfl
  unfold State.goOn
  rw [hget]
  dsimp only
  rw [hs]
  dsimp only
  rw [hst]
  exact putGroup_putGroup (by simp [Group.issuedIn, hg])

theorem slot?_issuedIn (g : Group) (k : Nat) (o : Option Slot) : (g.issuedIn k o).slot? k = o := by
  by_cases h : k = 0 <;> simp [Group.issuedIn, Group.setSlot, Group.slot?, h]

theorem regs_issuedIn (g : Group) (k : Nat) (o : Option Slot) : (g.issuedIn k o).regs = g.regs := by
  by_cases h : k = 0 <;> simp [Group.issuedIn, Group.setSlot, h]

theorem queue_issuedIn (g : Group) (j k : Nat) (o : Option Slot) : (g.issuedIn k o).queue j = g.queue j := by
  by_cases h : k = 0 <;> by_cases h' : j = 0 <;> simp [Group.issuedIn, Group.setSlot, Group.queue, h, h']

/-- A group whose registers and one queue were written, issued in that slot, differs in nothing else. -/
theorem onlySlot_issuedIn {g : Group} {k : Nat} {r : Regs} {q : List QEntry} {o : Option Slot} :
    OnlySlot g k (({ g with regs := r }.setQueue k q).issuedIn k o) := by
  by_cases h : k = 0
  · subst h
    exact ⟨rfl, rfl, rfl, rfl⟩
  · have h1 : otherSlot k = 0 := by simp [otherSlot, h]
    refine ⟨?_, ?_, ?_, ?_⟩ <;> simp [Group.issuedIn, Group.setSlot, Group.setQueue, Group.slot?, Group.queue, h, h1]

theorem mapIdx_range {α β : Type} (n : Nat) (v : Nat → α) (F : Nat → α → β) :
    ((List.range n).map v).mapIdx F = (List.range n).map fun l => F l (v l) := by
  apply List.ext_getElem
  · simp
  · intro a h1 h2
    simp

theorem entries_eq (n : Nat) (v : Nat → Nat) (active : LaneMask) (b : Bool) : newEntries n (perLane v) active b = entriesOf n v active b := by
  unfold newEntries entriesOf perLane laneNums
  refine List.map_congr_left fun j _ => ?_
  rw [mapIdx_range]

theorem lowestLane_lt {a : LaneMask} {l : Nat} (h : lowestLane a = some l) : l < 64 := by
  have hm : l ∈ lanesOf a := List.mem_of_mem_head? h
  have h2 := (List.mem_filter.mp hm).1
  simpa [laneNums, W] using h2

theorem perLane_getD (v : Nat → Nat) {l : Nat} (h : l < 64) : (perLane v).getD l 0 = v l := by
  simp [perLane, laneNums, W, h]

/-- A write of a result is what the manual says of its words. -/
theorem written_writeNamed {g : Group} {k : Nat} {o : Opnd} {v : Nat → Nat} {active : LaneMask} {h : Group}
    (hr : h.regs = (g.writeNamed o (perLane v) active).regs)
    (hq : h.queue k = (entriesOf o.words v active (o.code = 1) ++ g.queue k).take 16) : Written g k o v active h := by
  obtain ⟨_, h2, h3, _, _, _, h7, h8⟩ := namedFold g o.code (perLane v) active o.words
  rw [← writeNamed_def] at h2 h3 h7 h8
  refine ⟨hq, fun r l h40 hrl hl => ?_, fun r hrl => ?_, by rw [hr]; exact h2, by rw [hr]; exact h3⟩
  · have := h7 r l h40 hrl hl
    simp only [Group.nLane] at this ⊢
    rw [hr, this]
    unfold Opnd.names
    by_cases ha : active.getLsbD l = true
    · have hl64 : l < 64 := by
        by_contra hc
        rw [BitVec.getLsbD_of_ge _ _ (by omega)] at ha
        exact Bool.noConfusion ha
      rw [perLane_getD v hl64]
    · simp [ha]
  · have := h8 r hrl
    simp only [Group.gReg] at this ⊢
    rw [hr, this]
    unfold Opnd.names
    cases hlow : lowestLane active with
    | none => rfl
    | some l => simp only [perLane_getD v (lowestLane_lt hlow)]

/-- A fixed-latency result, and going on. -/
theorem gives_result {d : Code} {w : Nat} {v : Nat → Nat} {active : LaneMask} (hf : s.frag? = some f) :
    Gives s f m d w active v ((s.result f d w (perLane v) active).goOn f m) := by
  obtain ⟨h1, _, _, h4, _⟩ := frag?_some hf
  have he : s.result f d w (perLane v) active = s.putGroup (f.g.writeResult f.slot ⟨d.toNat, w⟩ (perLane v) active) := by
    simp only [State.result, h1]
  have hn := (namedFold f.g d.toNat (perLane v) active w).1
  have hw : f.g.writeNamed ⟨d.toNat, w⟩ (perLane v) active = { f.g with regs := (f.g.writeNamed ⟨d.toNat, w⟩ (perLane v) active).regs } := hn
  have hq : f.g.writeResult f.slot ⟨d.toNat, w⟩ (perLane v) active =
      { f.g with regs := (f.g.writeNamed ⟨d.toNat, w⟩ (perLane v) active).regs }.setQueue f.slot
        ((entriesOf w v active (d.toNat = 1) ++ f.g.queue f.slot).take 16) := by
    unfold Group.writeResult Group.push
    rw [hw, entries_eq]
    rfl
  rw [he, goOn_put h1]
  · refine ⟨_, rfl, slot?_issuedIn _ _ _, ?_, ?_⟩
    · rw [hq]; exact onlySlot_issuedIn
    · apply written_writeNamed
      · rw [regs_issuedIn, hq, regs_setQueue]
      · rw [queue_issuedIn, hq, queue_setQueue]
  · rw [hq, gid_setQueue]
  · rw [hq, slot?_setQueue]; exact h4

/-- The fragment's group, its slot issued, differs in nothing but that slot. -/
theorem onlySlot_issued {g : Group} {k : Nat} {o : Option Slot} : OnlySlot g k (g.issuedIn k o) := by
  have h := onlySlot_issuedIn (g := g) (k := k) (r := g.regs) (q := g.queue k) (o := o)
  have he : { g with regs := g.regs }.setQueue k (g.queue k) = g := by
    by_cases hk : k = 0 <;> simp [Group.setQueue, Group.queue, hk]
  rwa [he] at h

theorem q_issuedIn (g : Group) (k : Nat) (o : Option Slot) : (g.issuedIn k o).q0 = g.q0 ∧ (g.issuedIn k o).q1 = g.q1 := by
  by_cases h : k = 0 <;> simp [Group.issuedIn, Group.setSlot, h]

/-- Going on, with nothing else done. -/
theorem passes_put {ext : Nat} {g x : Group} (h1 : s.group? f.g.gid = some x) (hg : g.gid = f.g.gid) (hs : g.slot? f.slot = some f.sl) :
    Passes s f m ext g ((s.putGroup g).goOn f m ext) := by
  rw [goOn_put h1 hg hs]
  exact ⟨_, rfl, slot?_issuedIn _ _ _, onlySlot_issued, regs_issuedIn _ _ _, (q_issuedIn _ _ _).1, (q_issuedIn _ _ _).2⟩

theorem goOn_self {ext : Nat} (h1 : s.group? f.g.gid = some f.g) (h4 : f.g.slot? f.slot = some f.sl) : s.goOn f m ext = s.putGroup (f.g.issuedIn f.slot (some (f.onward s m ext))) := by
  have hst : s.stopAt f m ext (f.sl.goTo (f.sl.succ m ext)) = f.onward s m ext := by
    unfold State.stopAt Frag.onward maskAt Slot.goTo Slot.succ unitLen
    cases m.p
    · simp
    · simp only [if_true, Bool.true_and]
      split <;> rfl
  unfold State.goOn
  rw [h1]
  dsimp only
  rw [h4]
  dsimp only
  rw [hst]

theorem passes_self {ext : Nat} (h1 : s.group? f.g.gid = some f.g) (h4 : f.g.slot? f.slot = some f.sl) :
    Passes s f m ext f.g (s.goOn f m ext) := by
  rw [goOn_self h1 h4]
  exact ⟨_, rfl, slot?_issuedIn _ _ _, onlySlot_issued, regs_issuedIn _ _ _, (q_issuedIn _ _ _).1, (q_issuedIn _ _ _).2⟩

/-! ## Predicates -/

theorem getLsbD_predicate (old a : LaneMask) (v : Nat → Bool) (l : Nat) (hl : l < 64) :
    (predicate old a v).getLsbD l = if a.getLsbD l then v l else old.getLsbD l := by
  have key : ∀ n, n ≤ 64 → ∀ j, j < 64 →
      ((List.range n).foldl (fun m l => if a.getLsbD l then (if v l then m ||| (1#64 <<< l) else m &&& ~~~(1#64 <<< l)) else m) old).getLsbD j =
        if j < n && a.getLsbD j then v j else old.getLsbD j := by
    intro n
    induction n with
    | zero => intro _ j _; simp
    | succ n ih =>
      intro hn j hj
      rw [List.range_succ, List.foldl_append, List.foldl_cons, List.foldl_nil]
      have hi := ih (by omega) j hj
      by_cases hjn : j = n
      · subst hjn
        by_cases ha : a.getLsbD j = true
        · by_cases hv : v j = true
          · simp [ha, hv, hj]
          · simp [ha, hv, hj]
        · simp only [ha]
          simpa [ha] using hi
      · have hlt : (decide (j < n + 1)) = decide (j < n) := by simp; omega
        rw [hlt, ← hi]
        by_cases ha : a.getLsbD n = true
        · by_cases hv : v n = true
          · have : ¬(n ≤ j ∧ j - n = 0) := by omega
            simp [ha, hv, hj]
            intro _ _
            omega
          · simp [ha, hv, hj]
            intro _
            omega
        · simp [ha]
  have := key 64 (by omega) l hl
  simp only [hl, decide_true, Bool.true_and] at this
  exact this

/-- A predicate result, and going on. -/
theorem decides_setPredicate {k : Code} {v : Nat → Bool} (hf : s.frag? = some f) :
    Decides s f m k.toNat v ((s.setPredicate f k f.active v).goOn f m) := by
  obtain ⟨h1, _, _, h4, _⟩ := frag?_some hf
  have he : s.setPredicate f k f.active v = s.putGroup (f.g.setK k.toNat (predicate (f.g.kReg k.toNat) f.active v)) := by
    simp only [State.setPredicate, h1]
  generalize hP : predicate (f.g.kReg k.toNat) f.active v = P at he
  have hset : f.g.setK k.toNat P = { f.g with regs := { f.g.regs with k := if k.toNat = 0 then f.g.regs.k else f.g.regs.k.set k.toNat P } } := by
    unfold Group.setK
    split <;> rfl
  rw [he, goOn_put h1 (by rw [hset]) (by rw [hset]; exact h4)]
  refine ⟨_, rfl, slot?_issuedIn _ _ _, ?_, ?_, ?_, ?_, ?_, ?_, ?_⟩
  · have h := onlySlot_issuedIn (g := f.g) (k := f.slot) (r := (f.g.setK k.toNat P).regs) (q := f.g.queue f.slot) (o := some (f.onward s m 0))
    have hq : { f.g with regs := (f.g.setK k.toNat P).regs }.setQueue f.slot (f.g.queue f.slot) = f.g.setK k.toNat P := by
      rw [hset]
      by_cases hk : f.slot = 0 <;> simp [Group.setQueue, Group.queue, hk]
    rwa [hq] at h
  · rw [regs_issuedIn, hset]
  · rw [regs_issuedIn, hset]
  · rw [regs_issuedIn, hset]
  · rw [(q_issuedIn _ _ _).1, hset]
  · rw [(q_issuedIn _ _ _).2, hset]
  · intro j hj l hl
    unfold Group.kReg
    rw [regs_issuedIn, hset]
    by_cases hj0 : j = 0
    · simp [hj0]
    · by_cases hjk : j = k.toNat
      · have hk0 : k.toNat ≠ 0 := by omega
        rw [← hjk] at hP
        simp only [← hjk, hj0, if_false, List.getD_eq_getElem?_getD, List.getElem?_set_self hj, Option.getD_some, ← hP, decide_true, ne_eq,
          not_false_eq_true, Bool.true_and]
        rw [getLsbD_predicate _ _ _ _ hl]
        simp [Group.kReg, hj0, List.getD_eq_getElem?_getD]
      · have : (decide (j = k.toNat)) = false := by simp [hjk]
        simp only [this, Bool.false_and, hj0, if_false]
        split
        · simp
        · simp [List.getD_eq_getElem?_getD, Ne.symm hjk]

/-! ## Results that land later -/

/-- The slot goes on alike in two states of the same view. -/
theorem onward_view {t : State} (h : SameView s t) (ext : Nat) : f.onward t m ext = f.onward s m ext := by
  unfold Frag.onward
  rw [preempting_view h, maskWord_view h]

/-- A long-latency result under way, and going on. -/
theorem awaits_resultLater {d : Code} {w : Nat} {vals : List Nat} {active : LaneMask} {left : Nat} {kind : OutKind} (hf : s.frag? = some f) :
    Awaits s f m d w active vals left kind ((s.resultLater f d w vals active left kind).goOn f m) := by
  obtain ⟨h1, _, _, h4, _⟩ := frag?_some hf
  generalize ho : (⟨s.ctl.nextId, f.g.gid, f.slot, d, w, active, vals, left, kind, f.sl.pc, false⟩ : Outst) = o
  generalize hs' : s.setCtl { s.ctl with nextId := s.ctl.nextId + 1 } = s'
  have hg' : s'.group? f.g.gid = some f.g := by rw [← hs']; exact h1
  have hv : SameView s (s'.addOut o) := by rw [← hs']; exact (sameView_setCtl (v := { s.ctl with nextId := s.ctl.nextId + 1 }) rfl).trans (sameView_setOuts _)
  have hf' : (s'.addOut o).frag? = some f := by rw [← hs']; exact hf
  have he : s.resultLater f d w vals active left kind = (s'.addOut o).putGroup (f.g.expect f.slot ⟨d.toNat, w⟩ s.ctl.nextId) := by
    unfold State.resultLater State.fresh
    dsimp only
    rw [hs', hg', ho]
    rfl
  have hx : f.g.expect f.slot ⟨d.toNat, w⟩ s.ctl.nextId = { f.g with
      oscount := f.g.oscount + 1
      regs := { f.g.regs with pend := f.g.regs.pend ++ (if d.toNat < 16 then [] else (List.range w).map fun i => d.toNat + i) } }.setQueue f.slot
        (((List.range w).map (fun i => QEntry.mk (List.replicate W 0) (some (s.ctl.nextId, i)) true false) ++ f.g.queue f.slot).take 16) := by
    unfold Group.expect Group.push Opnd.codes
    by_cases h : f.slot = 0 <;> simp [Group.setQueue, Group.queue, h]
  rw [he, goOn_put (frag?_some hf').1 (by rw [hx]; simp) (by rw [hx, slot?_setQueue]; exact h4), onward_view hv]
  refine ⟨(f.g.expect f.slot ⟨d.toNat, w⟩ s.ctl.nextId).issuedIn f.slot (some (f.onward s m 0)), ?_, slot?_issuedIn _ _ _, ?_, ?_, ?_, ?_, ?_, ?_⟩
  · exact (show (s'.addOut o).putGroup _ = (s'.putGroup _).addOut o from rfl).trans (by rw [← hs', ← ho])
  · rw [hx]
    exact onlySlot_issuedIn (g := { f.g with oscount := f.g.oscount + 1 })
  · rw [regs_issuedIn, hx, regs_setQueue]
  · rw [regs_issuedIn, hx, regs_setQueue]
  · rw [regs_issuedIn, hx, regs_setQueue]
  · rw [regs_issuedIn, hx, regs_setQueue]
  · rw [queue_issuedIn, hx, queue_setQueue]

/-! ## Traps -/

theorem settle_frame (g : Group) : g.settle = { g with slot0 := g.settle.slot0, slot1 := g.settle.slot1 } := rfl

theorem slot?_settle (g : Group) (k : Nat) : ∀ sl, g.slot? k = some sl → ∃ sl', g.settle.slot? k = some sl' ∧
    (sl' = sl ∨ sl' = sl.stopHere) := by
  intro sl h
  have aux : ∀ o : Option Slot, o = some sl → ∃ sl', (o.map fun sl =>
      if sl.stop.isSome then sl else if g.stopsWhole || sl.park.any Park.stops then sl.stopHere else sl) = some sl' ∧
      (sl' = sl ∨ sl' = sl.stopHere) := by
    rintro _ rfl
    refine ⟨_, rfl, ?_⟩
    dsimp only
    split
    · exact .inl rfl
    · split
      · exact .inr rfl
      · exact .inl rfl
  unfold Group.slot? Group.settle at *
  by_cases hk : k = 0
  · simp only [hk, if_true] at h ⊢; exact aux _ h
  · simp only [hk, if_false] at h ⊢; exact aux _ h

/-- A parked group: what putting it leaves of it. -/
theorem putStopping_eq (s : State) (g : Group) : ∃ h, s.putStopping g = s.putGroup h ∧ (h = g ∨ h = g.settle) := by
  unfold State.putStopping
  split
  · exact ⟨_, rfl, .inr rfl⟩
  · exact ⟨_, rfl, .inl rfl⟩

/-- What stopping a group's slots leaves of any part of it that does not look at them. -/
theorem settled {β : Type} {g h : Group} (e : h = g ∨ h = g.settle) (p : Group → β) (hp : ∀ g a b, p { g with slot0 := a, slot1 := b } = p g) : p h = p g := by
  rcases e with rfl | rfl
  · rfl
  · exact hp g _ _

theorem parkTrapped_eq (s : State) (g : Group) (rec_ : TrapRec) (slot : Nat) :
    s.parkTrapped g rec_ slot = (State.modDie (match (s.putStopping { g with trap := rec_, phase := .notified, trapSlot := slot }).groupRecord g with
      | some a => ((s.putStopping { g with trap := rec_, phase := .notified, trapSlot := slot }).touchRange (coreCluster g.core) a 32).writeHome a rec_.bytes
      | none => s.putStopping { g with trap := rec_, phase := .notified, trapSlot := slot }) (coreDie g.core)
        (fun d => { d with notices := d.notices ++ [g.gid] })).wake (coreDie g.core) := rfl

/-- Homing the regions of a range changes the memory system's own data alone. -/
theorem touchRange_eq (unit a n : Nat) : ∃ y, s.touchRange unit a n = s.setMsys y := by
  have h1 : ∀ (s : State) p, ∃ y, s.touchHome unit p = s.setMsys y := fun s p => by
    unfold State.touchHome
    repeat' split
    all_goals first | exact ⟨s.msys, rfl⟩ | exact ⟨_, rfl⟩
  have h2 : ∀ (l : List Nat) (s : State), ∃ y, l.foldl (fun (s : State) i => s.touchHome unit (65536 * (a / 65536 + i))) s = s.setMsys y := by
    intro l
    induction l with
    | nil => exact fun s => ⟨s.msys, rfl⟩
    | cons i l ih =>
      intro s
      obtain ⟨y, hy⟩ := h1 s (65536 * (a / 65536 + i))
      obtain ⟨z, hz⟩ := ih (s.setMsys y)
      exact ⟨z, by rw [List.foldl_cons, hy, hz]; rfl⟩
  unfold State.touchRange
  split
  · exact ⟨s.msys, rfl⟩
  · exact h2 _ _

theorem group?_record (o : Option Nat) (unit n : Nat) (bs : List Byte) (k : Nat) :
    (match o with | some a => (s.touchRange unit a n).writeHome a bs | none => s).group? k = s.group? k ∧
    (match o with | some a => (s.touchRange unit a n).writeHome a bs | none => s).dies = s.dies := by
  cases o with
  | none => exact ⟨rfl, rfl⟩
  | some a =>
    obtain ⟨y, hy⟩ := touchRange_eq (s := s) unit a n
    dsimp only
    rw [hy]
    exact ⟨rfl, rfl⟩

theorem gid_release (g : Group) (i n : Nat) : (g.release i n).gid = g.gid := by
  unfold Group.release
  repeat' split
  all_goals first | rfl | (unfold Group.setSlot; split <;> rfl)

theorem gid_unhalt (g : Group) (i : Nat) : (g.unhalt i).gid = g.gid := by
  unfold Group.unhalt
  split
  · exact gid_release _ _ _
  · rfl

/-- A wake event leaves a group that is not in FIRMWARE mode, and the notices of every die, as they were. -/
theorem wake_keeps (die : Nat) {k : Nat} {g : Group} (hg : s.group? k = some g) (hfw : g.fw = false) :
    (s.wake die).group? k = some g ∧ ∀ d, ((s.wake die).die d).notices = (s.die d).notices := by
  unfold State.wake
  dsimp only
  split
  · refine ⟨?_, fun _ => rfl⟩
    exact pick_mapWhere_ne (key := Group.gid) (fun h => (gid_unhalt _ 1).trans (gid_unhalt h 0)) hg (by simp [hfw])
  · refine ⟨hg, fun d => ?_⟩
    simp only [State.die, State.modDie, setDies_dies, List.getD_eq_getElem?_getD, List.getElem?_modify]
    split
    · cases s.dies[d]? <;> rfl
    · cases s.dies[d]? <;> rfl

/-- A group that parks with a trap record: what it keeps. -/
theorem parkTrapped_keeps {g : Group} {rec_ : TrapRec} {slot : Nat} {x : Group} {sl : Slot} (h1 : s.group? g.gid = some x) (hs : g.slot? slot = some sl)
    (hfw : g.fw = false) (hd : coreDie g.core < s.dies.length) :
    ∃ h, (s.parkTrapped g rec_ slot).group? g.gid = some h ∧ h.phase = .notified ∧ h.trapSlot = slot ∧ h.trap = rec_ ∧
      h.regs = g.regs ∧ h.q0 = g.q0 ∧ h.q1 = g.q1 ∧ h.mode = g.mode ∧ h.dstack = g.dstack ∧ h.gid = g.gid ∧
      (∃ sl', h.slot? slot = some sl' ∧ (sl' = sl ∨ sl' = sl.stopHere)) ∧
      g.gid ∈ ((s.parkTrapped g rec_ slot).die (coreDie g.core)).notices := by
  obtain ⟨h, e, hh⟩ := putStopping_eq s { g with trap := rec_, phase := .notified, trapSlot := slot }
  rw [parkTrapped_eq, e]
  obtain ⟨k1, k2⟩ := group?_record (s := s.putGroup h) ((s.putGroup h).groupRecord g) (coreCluster g.core) 32 rec_.bytes g.gid
  have hgid : h.gid = g.gid := settled hh (·.gid) fun _ _ _ => rfl
  have hhfw : h.fw = false := (settled hh (·.fw) fun _ _ _ => rfl).trans hfw
  generalize (match (s.putGroup h).groupRecord g with
    | some a => ((s.putGroup h).touchRange (coreCluster g.core) a 32).writeHome a rec_.bytes
    | none => s.putGroup h) = u at k1 k2 ⊢
  have hu : (u.modDie (coreDie g.core) fun d => { d with notices := d.notices ++ [g.gid] }).group? g.gid = some h := by
    refine Eq.trans (show _ = _ from k1) ?_
    rw [← hgid]
    exact group?_putGroup_self (hgid ▸ h1)
  obtain ⟨w1, w2⟩ := wake_keeps (coreDie g.core) hu hhfw
  refine ⟨h, w1, settled hh (·.phase) fun _ _ _ => rfl, settled hh (·.trapSlot) fun _ _ _ => rfl, settled hh (·.trap) fun _ _ _ => rfl,
    settled hh (·.regs) fun _ _ _ => rfl, settled hh (·.q0) fun _ _ _ => rfl, settled hh (·.q1) fun _ _ _ => rfl,
    settled hh (·.mode) fun _ _ _ => rfl, settled hh (·.dstack) fun _ _ _ => rfl, hgid, ?_, ?_⟩
  · rcases hh with rfl | rfl
    · exact ⟨sl, hs, .inl rfl⟩
    · exact slot?_settle _ slot sl hs
  · rw [w2]
    simp only [State.die, State.modDie, setDies_dies, List.getD_eq_getElem?_getD, List.getElem?_modify, if_true]
    rw [k2, List.getElem?_eq_getElem (show coreDie g.core < (s.putGroup h).dies.length from hd)]
    simp

/-- Taking a trap outside FIRMWARE mode, behind the walks of the access that traps. -/
theorem trapParked_takeTrap {u : State} {mask : Option Nat} {t : Trap} (hu : OnlyHomes s u) (hf : s.frag? = some f) (hfw : f.g.fw = false)
    (hd : coreDie f.g.core < s.dies.length) : TrapParked f t.code t.aux t.addr t.lanes (u.takeTrap f mask t) := by
  obtain ⟨h1, _⟩ := frag?_some hf
  obtain ⟨mw, hm⟩ : ∃ mw : Word, u.takeTrap f mask t = u.parkTrapped (f.g.setSlot f.slot (some { f.sl.rewind with park := none }))
      ⟨t.code, t.aux, mw, f.sl.unitPc, BitVec.ofNat 64 t.addr, t.lanes⟩ f.slot := by
    unfold State.takeTrap
    rw [hfw]
    exact ⟨_, rfl⟩
  rw [hm]
  clear hm
  rw [← onlyHomes_group? hu] at h1
  rw [← onlyHomes_dies hu] at hd
  have hk : (f.g.setSlot f.slot (some { f.sl.rewind with park := none })).gid = f.g.gid ∧
      (f.g.setSlot f.slot (some { f.sl.rewind with park := none })).core = f.g.core ∧
      (f.g.setSlot f.slot (some { f.sl.rewind with park := none })).fw = f.g.fw ∧
      (f.g.setSlot f.slot (some { f.sl.rewind with park := none })).regs = f.g.regs ∧
      (f.g.setSlot f.slot (some { f.sl.rewind with park := none })).q0 = f.g.q0 ∧
      (f.g.setSlot f.slot (some { f.sl.rewind with park := none })).q1 = f.g.q1 ∧
      (f.g.setSlot f.slot (some { f.sl.rewind with park := none })).mode = f.g.mode ∧
      (f.g.setSlot f.slot (some { f.sl.rewind with park := none })).dstack = f.g.dstack := by
    unfold Group.setSlot
    split <;> exact ⟨rfl, rfl, rfl, rfl, rfl, rfl, rfl, rfl⟩
  have hsl := slot?_setSlot f.g f.slot (some { f.sl.rewind with park := none })
  generalize f.g.setSlot f.slot (some { f.sl.rewind with park := none }) = g at hk hsl ⊢
  obtain ⟨k0, kc, kf, k1, k2, k3, k4, k5⟩ := hk
  rw [← k0] at h1
  rw [← kc] at hd
  obtain ⟨h, e0, e1, e2, e3, e4, e5, e6, e7, e8, e9, ⟨sl', e10, e11⟩, e12⟩ :=
    parkTrapped_keeps (rec_ := ⟨t.code, t.aux, mw, f.sl.unitPc, BitVec.ofNat 64 t.addr, t.lanes⟩) h1 hsl (kf.trans hfw) hd
  rw [k0] at e0
  have hpc : sl'.pc = f.sl.unitPc ∧ sl'.lit = none := by
    rcases e11 with e | e <;> rw [e] <;> exact ⟨rfl, rfl⟩
  unfold TrapParked
  refine ⟨h, e0, e1, e2, ?_, ?_, ?_, ?_, ?_, e4.trans k1, e5.trans k2, e6.trans k3, e7.trans k4, e8.trans k5, ?_, ?_, ?_⟩
  · rw [e3]
  · rw [e3]
  · rw [e3]
  · rw [e3]
  · rw [e3]
  · rw [e10, Option.map_some, hpc.1]
  · rw [e10, Option.map_some, hpc.2]
  · rw [e9, ← kc]
    exact e12

end Sys2Proof.Machine
end

