-- ==== Sys2Proof/Laws/Memory.lean ====
section
/-! SUPPORT. Bytes by address: a read after a write, and the canonical form, which every operation keeps. -/

namespace Sys2Proof.Machine

theorem above_mono {a b : Nat} (h : a ≤ b) {m : Memory} (hm : Memory.above b m = true) : Memory.above a m = true := by
  cases m with
  | nil => rfl
  | cons c t =>
    simp only [Memory.above, decide_eq_true_eq] at hm ⊢
    omega


/-- A byte that lies below every listed one. -/
theorem byte_of_above {m : Memory} {a b : Nat} (h : Memory.above b m = true) (hab : a ≤ b) : Memory.byte m a = Memory.unlisted := by
  cases m with
  | nil => rfl
  | cons c t =>
    obtain ⟨k, x⟩ := c
    simp only [Memory.above, decide_eq_true_eq] at h
    have h1 : k ≠ a := by omega
    have h2 : a < k := by omega
    simp [Memory.byte, h1, h2]

theorem byte_cons {m : Memory} {a : Nat} (b : Byte) (h : Memory.above a m = true) (c : Nat) :
    Memory.byte (Memory.cons a b m) c = if c = a then b else Memory.byte m c := by
  unfold Memory.cons
  by_cases hb : b = Memory.unlisted
  · rw [if_pos hb]
    by_cases hc : c = a
    · rw [if_pos hc, byte_of_above h (by omega), hb]
    · rw [if_neg hc]
  · rw [if_neg hb]
    by_cases hc : c = a
    · simp [Memory.byte, hc]
    · rw [if_neg hc]
      by_cases hlt : c < a
      · rw [byte_of_above h (by omega)]
        simp [Memory.byte, Ne.symm hc, hlt]
      · simp [Memory.byte, Ne.symm hc, hlt]

theorem above_cons {m : Memory} {a k : Nat} (b : Byte) (hk : k < a) (h : Memory.above k m = true) : Memory.above k (Memory.cons a b m) = true := by
  unfold Memory.cons
  split
  · exact h
  · simpa [Memory.above] using hk

theorem wf_cons {m : Memory} {a : Nat} (b : Byte) (h : Memory.above a m = true) (hm : Memory.wf m = true) : Memory.wf (Memory.cons a b m) = true := by
  unfold Memory.cons
  split
  · exact hm
  · simp_all [Memory.wf]

theorem above_poke {m : Memory} {a k : Nat} (b : Byte) (hk : k < a) (h : Memory.above k m = true) (hm : Memory.wf m = true) :
    Memory.above k (Memory.poke m a b) = true := by
  cases m with
  | nil => exact above_cons b hk rfl
  | cons c t =>
    obtain ⟨j, x⟩ := c
    simp only [Memory.above, decide_eq_true_eq] at h
    simp only [Memory.wf, Bool.and_eq_true] at hm
    unfold Memory.poke
    split
    · exact above_cons b hk (above_mono (by omega) hm.1.1)
    · split
      · exact above_cons b hk (by simpa [Memory.above] using h)
      · simpa [Memory.above] using h

/-- Writing one byte keeps the canonical form. -/
theorem wf_poke {m : Memory} (a : Nat) (b : Byte) (hm : Memory.wf m = true) : Memory.wf (Memory.poke m a b) = true := by
  induction m with
  | nil => exact wf_cons b rfl rfl
  | cons c t ih =>
    obtain ⟨k, x⟩ := c
    have hm' := hm
    simp only [Memory.wf, Bool.and_eq_true] at hm'
    obtain ⟨⟨h1, h2⟩, h3⟩ := hm'
    unfold Memory.poke
    split
    · rename_i e
      exact wf_cons b (e ▸ h1) h3
    · split
      · rename_i hlt
        exact wf_cons b (by simpa [Memory.above] using hlt) hm
      · rename_i hne hlt
        simp only [Memory.wf, Bool.and_eq_true]
        exact ⟨⟨above_poke b (by omega) h1 h3, h2⟩, ih h3⟩

/-- A read after a write of one byte. -/
theorem byte_poke {m : Memory} (hm : Memory.wf m = true) (a : Nat) (b : Byte) (c : Nat) :
    Memory.byte (Memory.poke m a b) c = if c = a then b else Memory.byte m c := by
  induction m with
  | nil => exact byte_cons b rfl c
  | cons d t ih =>
    obtain ⟨k, x⟩ := d
    have hm' := hm
    simp only [Memory.wf, Bool.and_eq_true] at hm'
    obtain ⟨⟨h1, _⟩, h3⟩ := hm'
    unfold Memory.poke
    split
    · rename_i e
      subst e
      rw [byte_cons b h1 c]
      by_cases hc : c = k
      · simp [hc]
      · rw [if_neg hc, if_neg hc]
        by_cases hlt : c < k
        · rw [byte_of_above h1 (by omega)]
          simp [Memory.byte, Ne.symm hc, hlt]
        · simp [Memory.byte, Ne.symm hc, hlt]
    · split
      · rename_i hlt
        exact byte_cons b (by simpa [Memory.above] using hlt) c
      · rename_i hne hlt
        by_cases hk : k = c
        · subst hk
          simp [Memory.byte, hne]
        · by_cases hck : c < k
          · have : c ≠ a := by omega
            simp [Memory.byte, hk, hck, this]
          · simp only [Memory.byte, hk, hck, if_false]
            exact ih h3

/-- Writing bytes keeps the canonical form. -/
theorem wf_write (bs : List Byte) : ∀ {m : Memory} (a : Nat), Memory.wf m = true → Memory.wf (Memory.write m a bs) = true := by
  induction bs with
  | nil => exact fun _ h => h
  | cons b bs ih => exact fun a h => ih (a + 1) (wf_poke a b h)

/-- A read after a write of bytes: a byte of the range is the one written, every other byte is as before. -/
theorem byte_write (bs : List Byte) : ∀ {m : Memory} (a : Nat), Memory.wf m = true → ∀ c,
    Memory.byte (Memory.write m a bs) c = if a ≤ c ∧ c < a + bs.length then bs.getD (c - a) 0 else Memory.byte m c := by
  induction bs with
  | nil => intro m a _ c; rw [if_neg (by simp)]; rfl
  | cons b bs ih =>
    intro m a h c
    simp only [Memory.write]
    rw [ih (a + 1) (wf_poke a b h) c, byte_poke h]
    simp only [List.length_cons]
    by_cases h1 : c = a
    · subst h1
      rw [if_neg (by omega), if_pos rfl, if_pos (by omega)]
      simp
    · by_cases h2 : a + 1 ≤ c ∧ c < a + 1 + bs.length
      · rw [if_pos h2, if_pos (by omega)]
        obtain ⟨n, hn⟩ : ∃ n, c - a = n + 1 := ⟨c - (a + 1), by omega⟩
        rw [hn, List.getD_cons_succ, show c - (a + 1) = n by omega]
      · rw [if_neg h2, if_neg h1, if_neg (by omega)]

theorem above_filter {m : Memory} {a : Nat} (p : Host.Cell → Bool) (h : Memory.above a m = true) (hm : Memory.wf m = true) :
    Memory.above a (m.filter p) = true := by
  induction m with
  | nil => rfl
  | cons c t ih =>
    obtain ⟨k, x⟩ := c
    simp only [Memory.above, decide_eq_true_eq] at h
    simp only [Memory.wf, Bool.and_eq_true] at hm
    rw [List.filter_cons]
    split
    · simpa [Memory.above] using h
    · exact ih (above_mono (by omega) hm.1.1) hm.2

theorem wf_filter {m : Memory} (p : Host.Cell → Bool) (hm : Memory.wf m = true) : Memory.wf (m.filter p) = true := by
  induction m with
  | nil => rfl
  | cons c t ih =>
    obtain ⟨k, x⟩ := c
    simp only [Memory.wf, Bool.and_eq_true] at hm
    rw [List.filter_cons]
    split
    · simp only [Memory.wf, Bool.and_eq_true]
      exact ⟨⟨above_filter p hm.1.1 hm.2, hm.1.2⟩, ih hm.2⟩
    · exact ih hm.2

/-- Setting a range to what an unlisted byte reads as keeps the canonical form. -/
theorem wf_clear {m : Memory} (a n : Nat) (hm : Memory.wf m = true) : Memory.wf (Memory.clear m a n) = true := wf_filter _ hm

/-- The memory after reset has the canonical form. -/
theorem wf_reset : Memory.wf State.reset.mem = true := rfl

end Sys2Proof.Machine
end

