-- ==== Sys2Proof/Tests/Slice0.lean ====
section
/-! SUPPORT. Tests of this model, each a fact about fixed values: what well-formedness refuses, words written out from the encoding tables,
single steps on small states with the numbers of the manual's tables, and, for every statement of Certificates/Slice0/Obligations.lean that
has hypotheses, a state and operands that meet all of a clause's hypotheses together (witness_<statement>). -/

set_option Elab.async false

namespace Sys2Proof.Tests

open Sys2Proof Sys2Proof.Machine

/-! ## Small states -/

/-- No wait mark, no live mask word. -/
def m0 : Marks := ⟨false, false⟩

/-- One group of role ANY on core 0 with the turn, its code page mapped readable, writable and executable at 0x10000. -/
def base : State := State.reset.withProgram.at 3 0

/-- A state with the group of the turn changed, with its team changed, with its launch changed, with its context changed. -/
def withG (s : State) (f : Group → Group) : State := match s.group? s.ctl.gid with | some g => s.putGroup (f g) | none => s
def withT (s : State) (f : Team → Team) : State := s.setTeams (s.teams.map f)
def withL (s : State) (f : Launch → Launch) : State := s.setLaunches (s.launches.map f)
def withC (s : State) (f : Ctx → Ctx) : State := s.setContexts (s.contexts.map f)

/-- The same group with a MODE word. -/
def typed (w : Word) : State := withG base fun g => { g with mode := w }

/-- The same group in FIRMWARE mode. -/
def firm : State := withG base fun g => { g with fw := true }

/-- The turn's fragment passes the checks of an instruction, and a further condition holds of it. -/
def meets (s : State) (i : Instr) (m : Marks) (n : Frag → Need) (e : Frag → Bool := fun _ => true) : Bool :=
  match s.frag? with
  | some f => decide (s.gate f i m (n f) = .go) && e f
  | none => false

/-- What `meets` says in the words of the statements. -/
theorem meets_runs {s : State} {i : Instr} {m : Marks} {n : Frag → Need} {e : Frag → Bool} (h : meets s i m n e = true) :
    ∃ f, Runs s f i m (n f) ∧ e f = true := by
  unfold meets at h
  split at h
  · next f hf =>
    simp only [Bool.and_eq_true, decide_eq_true_eq] at h
    exact ⟨f, ⟨hf, h.1⟩, h.2⟩
  · cases h

/-- A condition on the fragment of the turn. -/
def atTurn (s : State) (e : Frag → Bool) : Bool := s.frag?.any e

/-- `Quiet`, for a context that does not trap arithmetic. -/
def quiet (s : State) (f : Frag) : Bool := !f.g.arithSkip.contains f.slot && !s.trapsArith f.g

theorem quiet_sound {s : State} {f : Frag} (h : quiet s f = true) (evs : LaneEvents) : Quiet s f evs := by
  simp only [quiet, Bool.and_eq_true, Bool.not_eq_true', List.contains_eq_mem, decide_eq_false_iff_not] at h
  exact ⟨h.1, .inr h.2⟩

/-! ## Witnesses: moves, logic, arithmetic -/

theorem witness_MovesComplete_immediates : (meets base (.movi m0 16 0x8000) m0 (needD 16) && [Instr.andi m0 16 17 1, .ori m0 16 17 1, .xori m0 16 17 0x3FF,
    .shli m0 16 17 31].all fun i => meets base i m0 (needDA 16 17)) = true := by decide +kernel

theorem witness_LogicComplete : ([Instr.and m0 16 17 18, .andn m0 16 17 18, .or m0 16 17 18, .xor m0 16 17 18, .shl m0 16 17 18, .shr m0 16 17 18,
    .sar m0 16 17 18, .rol m0 16 17 18].all fun i => meets base i m0 (needDAB 16 17 18)) = true := by decide +kernel

theorem witness_BitFieldsComplete : ([Instr.fnl m0 16 17 18 0, .fnr m0 16 17 18 0, .bfi m0 16 17 18 0].all (fun i => meets base i m0 (needDABC 16 17 18 0)) &&
    [Instr.bfx m0 16 17 18, .bfxs m0 16 17 18, .pack2 m0 16 17 18].all (fun i => meets base i m0 (needDAB 16 17 18)) &&
    [Instr.popc m0 16 17, .clz m0 16 17, .ctz m0 16 17, .brev m0 16 17, .unpk m0 16 17 0, .unpk m0 16 17 1].all fun i =>
      meets base i m0 (needDA 16 17)) = true := by decide +kernel

theorem witness_MovesComplete : (meets base (.getm m0 16) m0 (needD 16) && meets base (.mov m0 16 17) m0 (typedDA anyType 16 17) &&
    meets base (.addi m0 16 17 1) m0 (typedDA intType 16 17) && meets base (.shri m0 16 17 1) m0 (typedDA intType 16 17) &&
    meets base (.sel m0 16 17 18 true 1) m0 (typedDAB anyType 16 17 18) && meets base (.lea m0 16 17 18 2) m0 (typedDAB wholeInt 16 17 18) &&
    meets (typed 6) (.classOp m0 16 17) m0 (fun f => { typed := floatType f.g.type, srcs := [opnd 17 (typeWords f.g.type)], dst := some (opnd 16 1) })) =
    true := by decide +kernel

/-- A group with an ADD behind a LIT and its literal. -/
def litCode : State := base.setMem (Memory.write [] 0x10008 (bytesOf 0x08104800 4))

theorem witness_ModeAndLiteralComplete : (meets base (.nop m0) m0 (fun _ => {}) && meets base (.yield m0) m0 (fun _ => {}) &&
    meets base (.setmImm m0 1 9) m0 (fun _ => { legal := modeLegal 1 9 }) &&
    meets base (.setmReg m0 1 17) m0 (fun _ => { srcs := [opnd 17 1] }) (fun f => f.src 17 1 f.low < 2 ^ 12 && modeLegal 1 (f.src 17 1 f.low)) &&
    meets litCode (.lit m0 5) m0 (fun f => { legal := !litMisused f 0x08104800 })
      (fun f => match litCode.fetchWord f.g (f.sl.pc.toNat + 8) with | .ok w => w = 0x08104800 | .error _ => false)) = true := by decide +kernel

theorem witness_ArithmeticComplete : ([(typed 0, 18), (typed 6, 18), (typed 9, 20)].all fun (s, b) =>
    [Instr.add m0 16 18 b, .sub m0 16 18 b, .mul m0 16 18 b, .min m0 16 18 b, .max m0 16 18 b].all (fun i =>
      meets s i m0 (typedDAB anyType 16 18 b) (quiet s)) && meets s (.mad m0 16 18 b 0) m0 (typedDABC anyType 16 18 b 0) (quiet s) &&
    [Instr.abs m0 16 18, .neg m0 16 18].all fun i => meets s i m0 (typedDA anyType 16 18) (quiet s)) = true := by decide +kernel

/-- The needs of CVT to type `x`. -/
def cvtNeed (x : Nat) (f : Frag) : Need :=
  { typed := cvtTyped f.g.type x, srcs := [opnd 18 (cvtReads f.g.type x)], dst := some (opnd 16 (cvtWrites f.g.type x)) }

theorem witness_ArithmeticComplete_types : (meets (typed 0) (.mulh m0 16 17 18) m0 (typedDAB intType 16 17 18) (quiet (typed 0)) &&
    [Instr.flr m0 16 18, .cel m0 16 18, .rnd m0 16 18, .frc m0 16 18].all (fun i => meets (typed 6) i m0 (typedDA floatType 16 18) (quiet (typed 6))) &&
    [(typed 0, 6), (typed 6, 0), (typed 6, 9)].all (fun p => meets p.1 (.cvt m0 16 18 (BitVec.ofNat 4 p.2)) m0 (cvtNeed p.2) (quiet p.1)) &&
    meets base (.bfis m0 16 17 18 0) m0 (needDABC 16 17 18 0) (quiet base)) = true := by decide +kernel

theorem witness_IntegerArithmeticExact : ([typed 0, typed 1, typed 0x81].all fun s => meets s (.add m0 16 17 18) m0 (typedDAB anyType 16 17 18) (fun f => f.g.type < 2) &&
    meets s (.sub m0 16 17 18) m0 (typedDAB anyType 16 17 18) && meets s (.mul m0 16 17 18) m0 (typedDAB anyType 16 17 18) &&
    meets s (.mad m0 16 17 18 0) m0 (typedDABC anyType 16 17 18 0) &&
    meets s (.min m0 16 17 18) m0 (typedDAB anyType 16 17 18) && meets s (.max m0 16 17 18) m0 (typedDAB anyType 16 17 18) &&
    meets s (.neg m0 16 17) m0 (typedDA anyType 16 17)) = true := by decide +kernel

theorem witness_LongArithmeticComplete : ([typed 0, typed 6].all (fun s => [Instr.div m0 16 18 20, .rem m0 16 18 20].all fun i =>
      meets s i m0 (lateDAB anyType 16 18 20) (quiet s)) &&
    [Instr.sqrt m0 16 18, .rcp m0 16 18, .rsq m0 16 18, .exp2 m0 16 18, .log2 m0 16 18, .sin m0 16 18, .cos m0 16 18].all (fun i =>
      meets (typed 6) i m0 (lateDA floatType 16 18) (quiet (typed 6))) &&
    [true, false].all fun dec => meets (typed 6) (.fcvt m0 16 18 dec 0) m0
      (fun _ => { srcs := [opnd 18 1], dst := some (opnd 16 1), late := true }) (quiet (typed 6))) = true := by decide +kernel

theorem witness_IntegerDivision : intDiv false 8 false 7 0 = (255, evDiv0) ∧ intDiv true 8 false 0x80 0 = (0x80, evDiv0) ∧ intDiv false 8 false 255 1 = (255, 0) ∧
    intDiv true 8 true 0x80 0xFF = (0x7F, 0) ∧ intDiv true 8 false 0x80 0xFF = (0x80, 0) ∧ intRem true 8 0xF9 2 = (0xFF, 0) := by decide +kernel

/-! ## Witnesses: predicates, lanes, control transfer -/

theorem witness_PredicatesComplete : ([Instr.kand m0 1 2 3, .kor m0 1 2 3, .kxor m0 1 2 3, .knot m0 1 2, .kmov m0 0 2, .kany m0 7 2, .kall m0 1 2].all
      (fun i => meets base i m0 (fun _ => {})) &&
    meets base (.cmp m0 1 16 17 5) m0 (fun _ => { srcs := [opnd 16 1], srcB := some (opnd 17 1) }) (quiet base) &&
    meets (typed 6) (.cmp m0 1 16 17 7) m0 (fun f => { typed := condTyped f.g.type 7, srcs := [opnd 16 1], srcB := some (opnd 17 1) }) (quiet base) &&
    meets base (.cmpi m0 2 1 16 5) m0 (fun f => { typed := condTyped f.g.type 2, srcs := [opnd 16 1] }) (quiet base) &&
    meets base (.atst m0 1 16 3) m0 (fun _ => { srcs := [opnd 16 2] })) = true := by decide +kernel

/-- The needs of a cross-lane instruction. -/
def acrossNeed (f : Frag) : Need := { srcs := [opnd 18 (typeWords f.g.type)], srcB := some (opnd 20 1), dst := some (opnd 16 (typeWords f.g.type)) }

theorem witness_CrossLaneComplete : ([typed 0, typed 2].all fun s => meets s (.vote m0 16 1) m0 (fun _ => { dst := some (opnd 16 2) }) &&
    [Instr.xrot m0 16 18 20, .xxor m0 16 18 20, .xbc m0 16 18 20].all (fun i => meets s i m0 acrossNeed) &&
    [Instr.qswpx m0 16 18, .qswpy m0 16 18, .qswpd m0 16 18, .qbcst m0 16 18 3].all fun i => meets s i m0 (typedDA anyType 16 18)) = true := by decide +kernel

theorem witness_ScansAndDerivativesComplete : ([typed 0, typed 6].all (fun s => [0, 2].all fun op => [Instr.xred m0 16 18 op, .xscan m0 16 18 true op, .xscan m0 16 18 false op].all
      fun i => meets s i m0 (typedDA (fun t => scanTyped t op.toNat) 16 18) (quiet s)) &&
    [Instr.ddx m0 16 18 0, .ddx m0 16 18 1, .ddy m0 16 18 0, .ddy m0 16 18 1].all fun i =>
      meets (typed 6) i m0 (typedDA floatType 16 18) (quiet (typed 6))) = true := by decide +kernel

/-- A group whose K1 holds in lanes 0 and 2 only. -/
def split : State := withG base fun g => { g with regs := { g.regs with k := g.regs.k.set 1 5 } }

theorem witness_BranchesComplete : ([Instr.bra m0 false 1 3, .call m0 false 1 3].all (fun i =>
      meets base i m0 (fun _ => {}) (fun f => f.taken 1 false = 0) &&
      meets split i m0 (fun _ => {}) (fun f => f.taken 1 false ≠ 0 && f.taken 1 false ≠ f.sl.mask && aligned4 (branchTarget f.sl.pc 3) && f.g.dstack.length = 0 &&
        !f.g.regs.pend.contains 62 && !f.g.regs.pend.contains 63)) &&
    [Instr.bra m0 false 0 3, .call m0 false 0 3].all (fun i => meets base i m0 (fun _ => {}) (fun f => f.taken 0 false ≠ 0 && f.taken 0 false = f.sl.mask)) &&
    meets base (.brk m0 false 0 3 5) m0 (fun _ => {}) (fun f => f.taken 0 false = f.sl.mask) &&
    meets base (.brk m0 false 1 3 5) m0 (fun _ => {}) (fun f => f.taken 1 false = 0 && f.taken 1 false ≠ f.sl.mask) &&
    meets split (.brk m0 false 1 3 5) m0 (fun _ => {}) (fun f => f.taken 1 false ≠ 0 && f.taken 1 false ≠ f.sl.mask &&
      aligned4 (branchTarget f.sl.pc 3) && aligned4 (branchTarget f.sl.pc 5))) = true := by decide +kernel

/-- The same group with a second fragment in slot 1. -/
def twoSlots : State := withG split fun g => { g with slot0 := some (Slot.at 0x10000 0xFF none), slot1 := some (Slot.at 0x10040 0xFF00 none) }

theorem witness_DivergenceSplitsLanes : (atTurn split (fun f => f.sl.issued + 1 < 64 && f.g.slot? (otherSlot f.slot) = none) &&
    atTurn twoSlots (fun f => f.sl.issued + 1 < 64 && f.g.slot? (otherSlot f.slot) ≠ none)) = true := by decide +kernel

/-- A fragment of lanes 0 to 31 at a JOIN of a record that expects all lanes, of which `ar` have arrived; `addr` is the record's. -/
def joining (addr : Addr) (ar : LaneMask) (id : Option Nat) : State := withG base fun g =>
  { g with dstack := [DEntry.record 3 addr (BitVec.allOnes 64) ar none], slot0 := some (Slot.at 0x10000 0xFFFFFFFF id) }

theorem witness_JoinCompletes : (meets (joining 0x10000 0xFFFFFFFF00000000 (some 3)) (.join m0) m0 (fun _ => {}) (fun f =>
      f.sl.join.bind (findJoin f.g.dstack) = some (DEntry.record 3 f.sl.pc (0xFFFFFFFF00000000 ||| f.sl.mask) 0xFFFFFFFF00000000 none)) &&
    meets (joining 0x10000 0 (some 3)) (.join m0) m0 (fun _ => {}) (fun f =>
      f.sl.join.bind (findJoin f.g.dstack) = some (DEntry.record 3 f.sl.pc (BitVec.allOnes 64) 0 none) && 0 ||| f.sl.mask ≠ BitVec.allOnes 64) &&
    meets (joining 0x10004 0 (some 3)) (.join m0) m0 (fun _ => {}) (fun f => (f.sl.join.bind (findJoin f.g.dstack)).isSome && f.sl.pc ≠ 0x10004) &&
    meets (joining 0x10000 0 none) (.join m0) m0 (fun _ => {}) (fun f => f.sl.join.bind (findJoin f.g.dstack) = none)) = true := by decide +kernel

/-- A group with an address in G7:G6 and in N17:N16. -/
def linked (v : Nat) : State := withG base fun g => (g.setG 6 (BitVec.ofNat 32 v)).setN 0 (BitVec.allOnes 64) fun _ => BitVec.ofNat 32 v

/-- A group whose kernel declares N23. -/
def growing : State := withL base fun l => { l with kd := { l.kd with allot := 2 } }
def growNeed (s : State) (f : Frag) : Need := { legal := (s.launchOf f.g).any fun l => l.kd.allot = 2 }

theorem witness_JumpsComplete : ([0x10040, 0x10042].all (fun v =>
      meets (linked v) (.ret m0) m0 (fun _ => { srcs := [⟨62, 2⟩] }) (fun f => (f.g.gReg 6).toNat = v && f.g.gReg 7 = 0) &&
      meets (linked v) (.jmpi m0 16) m0 (fun _ => { srcs := [opnd 16 2] }) (fun f => f.src 16 2 f.low = v)) &&
    meets base (.exit m0) m0 (fun _ => {}) && meets base (.trap m0 1023) m0 (fun _ => {}) &&
    meets growing (.grow m0 2) m0 (growNeed growing) (fun f => !f.g.grown && f.g.slot? (otherSlot f.slot) = none) &&
    meets (withG growing fun g => { g with grown := true }) (.grow m0 2) m0 (growNeed growing) (·.g.grown)) =
    true := by decide +kernel

/-! ## Witnesses: memory -/

/-- A state whose N registers `r` and `r + 1` hold an address in each lane. -/
def pointing (s : State) (r : Nat) (a : Nat → Nat) : State :=
  withG s fun g => (g.setN r (BitVec.allOnes 64) fun l => BitVec.ofNat 32 (a l)).setN (r + 1) (BitVec.allOnes 64) fun l => BitVec.ofNat 32 (a l / 2 ^ 32)

/-- The lanes' accesses do not trap. -/
def clean (xs : List LaneAccess) : Bool := (lanesTrap 0 xs).isNone && (lanesTrap 1 xs).isNone

/-- A far atomic of group 3 on the line of 0x10100 that is not performed. -/
def farReq : Req := ⟨9, 3, 0, 0x10000, 0, 0, 1, 0xC0, false, 4, 0x10100, 0x10100, 16, false, 0, 1, 0, .silent, false, false, none, [], 0, [9]⟩
def farBefore (s : State) : State := s.setNet { s.net with origs := [farReq] }

/-- Lane addresses in the code page, 4 bytes apart, 16 bytes apart. -/
def memory : State := pointing base 0 fun l => 0x10100 + 4 * l
def memory16 : State := pointing base 0 fun l => 0x10100 + 16 * l

/-- A load's conditions. -/
def loadOk (s : State) (i : Instr) (d : Code) (size align bytes : Nat) (busy : Bool) : Bool :=
  meets s i m0 (fun _ => { srcs := [opnd 16 2], dst := some (opnd d (sizeWords size)), late := true, load := true }) fun f =>
    let xs := s.checkLanes f.g .rd [0, 1, 2, 3] align (sizeBytes size) (f.memAddr 16 1 bytes) (lanesOf f.active)
    clean xs && s.loadHeld f.g (xs.flatMap LaneAccess.pieces) == busy

theorem witness_LoadsComplete : ([(memory, false), (farBefore memory, true)].all fun (s, busy) =>
    loadOk s (.ld8 m0 20 16 1) 20 0 1 1 busy && loadOk s (.ld8s m0 20 16 1) 20 1 1 1 busy && loadOk s (.ld16 m0 20 16 1) 20 2 1 2 busy &&
    loadOk s (.ld16s m0 20 16 1) 20 3 1 2 busy && loadOk s (.ld32 m0 20 16 1) 20 4 1 4 busy && loadOk s (.ld64 m0 20 16 1) 20 5 1 8 busy &&
    loadOk s (.ld128 m0 20 16 1) 20 6 1 16 busy && loadOk s (.ldacq m0 20 16 6 4) 20 4 4 4 busy) = true := by decide +kernel

/-- A store's conditions: the data in N4 upward. -/
def storeOk (s : State) (i : Instr) (size align : Nat) (e : Frag → List LaneAccess → Bool) : Bool :=
  meets s i m0 (fun _ => { srcs := [opnd 20 (sizeWords size), opnd 16 2] }) fun f =>
    let n := sizeBytes size
    let xs := s.checkLanes f.g .wr [0, 1, 2, 3] align n (f.memAddr 16 0 n) (lanesOf f.writers)
    clean xs && !s.writeHeld f.g (xs.flatMap LaneAccess.pieces) && !s.farPending f.g true (linesOfLanes xs) && !s.relBusy f.g && !s.loadsOpen f.g &&
      !s.lateAhead f.g (memLines (xs.flatMap LaneAccess.pieces)) && e f xs

/-- The plain stores by size code, and STREL. -/
def stores : List (Instr × Nat) := [(.st8 m0 20 16 0, 0), (.st16 m0 20 16 0, 2), (.st32 m0 20 16 0, 4), (.st64 m0 20 16 0, 5), (.st128 m0 20 16 0, 6)]

theorem witness_StoresComplete : (stores.all (fun p => storeOk memory16 p.1 p.2 1 fun _ _ => true) &&
    storeOk memory (.strel m0 20 16 6 4) 4 4 fun _ _ => true) = true := by decide +kernel

theorem witness_StoresComplete_held : meets (farBefore memory16) (.st32 m0 20 16 0) m0 (fun _ => { srcs := [opnd 20 1, opnd 16 2] }) (fun f =>
    let xs := (farBefore memory16).checkLanes f.g .wr [0, 1, 2, 3] 1 4 (f.memAddr 16 0 4) (lanesOf f.writers)
    clean xs && (farBefore memory16).writeHeld f.g (xs.flatMap LaneAccess.pieces)) = true := by decide +kernel

/-- A group whose team has a scratchpad allocation of `n` bytes, and the lanes' addresses fill it with `w` bytes each. -/
def scratch (n w : Nat) : State := pointing ((base.setPads [⟨1, 0, 0, 0, n, []⟩]).setTeams (base.teams.map fun t => { t with pad := 1 })) 0 fun l => scratchBase + w * l

theorem witness_ScratchStoreFrame : (stores.all fun p =>
    let n := sizeBytes p.2
    let s := scratch (64 * n) n
    s.mem.wf && s.pads.all (fun p => p.bytes.wf) && s.net.origs = [] && storeOk s p.1 p.2 1 fun f _ => f.g.relScope.isNone &&
      ((s.teamOf f.g).bind fun t => s.pad? t.pad) = some ⟨1, 0, 0, 0, 64 * n, []⟩ &&
      (lanesOf f.writers).all fun l => scratchBase ≤ f.memAddr 16 0 n l && f.memAddr 16 0 n l + n ≤ scratchBase + 64 * n) = true := by decide +kernel

/-- The code page strongly ordered. -/
def ordered (s : State) : State := s.setMsys { s.msys with tlb := s.msys.tlb.map fun t => { t with kind := .so } }

theorem witness_SharedStoreFrame : (stores.all (fun p => let s := ordered memory16
      s.mem.wf && s.msys.l1.all (fun l => l.dirty = []) && s.net.origs = [] && storeOk s p.1 p.2 1 fun f xs => f.g.relScope.isNone &&
        xs.all fun y => y.pieces.all fun b => match b.spot with | .mem va t _ => t.kind = .so && !devicePa (t.pa va) | .pad _ _ => false) &&
    storeOk memory (.strel m0 20 16 6 4) 4 4 fun f xs => f.g.relScope.isNone &&
        xs.all fun y => y.pieces.all fun b => match b.spot with | .mem va t _ => !devicePa (t.pa va) | .pad _ _ => false) = true := by decide +kernel

theorem witness_FenceAndConvertComplete : ([1, 2, 3].all (fun k => meets base (.fence m0 6 (BitVec.ofNat 4 k)) m0 (fun _ => {}) (fun f => !base.relBusy f.g)) &&
    [memory, scratch 256 4].all fun s => meets s (.acvt m0 20 16 2) m0 (fun _ => { srcs := [opnd 16 2], dst := some (opnd 20 2), late := true }) fun f =>
      (lanesOf f.active).all fun l => ((s.decodeAddr (s.agentOf f.g) l (f.src 16 2 l) 1).map (·.1)).isSome) = true := by decide +kernel

/-! ## Witnesses: local atomics, barriers, rings, monitors, system instructions -/

/-- A local atomic's conditions. -/
def localOk (s : State) (i : Instr) (w : Nat) : Bool :=
  meets s i m0 (fun _ => { srcs := [opnd 16 2], srcB := some (opnd 22 w), dst := some (opnd 20 w), late := true }) fun f =>
    clean (s.checkLanes f.g .wr [1, 2] (4 * w) (4 * w) (f.src 16 2) (lanesOf f.writers)) && !s.loadsOpen f.g && !s.farBusy f.g &&
      f.active &&& f.g.helper = 0

theorem witness_LocalAtomicsComplete : ([Instr.aadd m0 20 16 22, .amin m0 20 16 22, .aminU m0 20 16 22, .amax m0 20 16 22, .amaxU m0 20 16 22, .aand m0 20 16 22,
      .aor m0 20 16 22, .axor m0 20 16 22, .axch m0 20 16 22].all (fun i => localOk (scratch 256 4) i 1) && localOk (scratch 512 8) (.amax64 m0 20 16 22) 2 &&
    meets (scratch 256 4) (.acas m0 20 16 22 0) m0
      (fun _ => { srcs := [opnd 16 2], srcB := some (opnd 22 1), srcC := some (opnd (cCode 20 0) 1), dst := some (opnd 20 1), late := true }) (fun f =>
      clean ((scratch 256 4).checkLanes f.g .wr [1, 2] 4 4 (f.src 16 2) (lanesOf f.writers)) &&
      !(scratch 256 4).loadsOpen f.g && !(scratch 256 4).farBusy f.g)) = true := by decide +kernel

/-- A group whose team has one barrier, with a value in N0. -/
def barred (b : Barrier) (v : Nat) : State := pointing (withT base fun t => { t with barriers := [b] }) 0 fun _ => v

theorem witness_BarriersComplete : ([1, 32].all (fun v => meets (barred ⟨2, 0, 0, false, false⟩ v) (.bari m0 16 0) m0 (fun _ => { srcs := [opnd 16 1] })
      (fun f => f.src 16 1 f.low = v && (barred ⟨2, 0, 0, false, false⟩ v).barrier? f.g 0 = some ⟨2, 0, 0, false, false⟩)) &&
    [0, 1].all (fun k => [Instr.bara m0 0, .barw m0 0].all fun i => meets (barred ⟨2, k, 0, false, false⟩ 0) i m0 (fun _ => {})
      fun f => k < 2 && !(barred ⟨2, k, 0, false, false⟩ 0).relBusy f.g) &&
    [0, 2 ^ 31 - 1].all fun v => meets (barred ⟨2, 0, 0, false, false⟩ v) (.barx m0 16 0) m0 (fun _ => { srcs := [opnd 16 1] })
      fun f => f.src 16 1 f.low = v && v < 2 ^ 31) = true := by decide +kernel

/-- A group with one fragment at B0, and one with a fragment in each slot, of which slot 1 alone waits for the phase that ends. -/
theorem witness_BarrierPhase : ([(some true, none), (some false, some true)].all fun (p : Option Bool × Option Bool) =>
    let at0 (b : Bool) : Slot := { Slot.at 0x10000 0xFF none with park := some (.barw 0 b 4) }
    let s := withG (barred ⟨2, 2, 0, true, false⟩ 0) fun g => { g with slot0 := p.1.map at0, slot1 := p.2.map at0 }
    s.teams.any (fun t => s.team? t.tid = some t && t.barriers.length = 1) && s.groups.any fun g => s.teams.any (fun t => g.tid = t.tid) &&
      [g.slot0, g.slot1].any fun o => o.any fun sl => sl.park = some (.barw 0 true 4) && sl.stop.isNone) = true := by decide +kernel

/-- A group whose team has ring Q1 with `n` filled slots, its head at slot 7. -/
def ringed (n : Nat) : State := withT base fun t => { t with ringMask := 2, rings := t.rings.set 1 { Ring.start with count := n, head := 7 } }

theorem witness_StageRingsComplete : ([0, 1, 7, 8].all fun n => meets (ringed n) (.srpost m0 16 1) m0 (fun _ => { srcs := [opnd 16 1] }) (fun f =>
      (((ringed n).ring? f.g 1).any fun r => r.count = n && r.mark.isNone) && !(ringed n).relBusy f.g) &&
    meets (ringed n) (.srtake m0 16 1) m0 (fun _ => { dst := some (opnd 16 1), late := true }) &&
    meets (ringed n) (.srwait m0 1) m0 (fun _ => {})) = true := by decide +kernel

/-- Ring Q1 has taken an instruction of a later issue slot in this cycle. -/
theorem witness_StageRingsComplete_turn : ([(Instr.srtake m0 16 1, ({ dst := some (opnd 16 1), late := true } : Need)), (.srpost m0 16 1, { srcs := [opnd 16 1] }), (.srwait m0 1, {})].all fun p =>
    let s := withT base fun t => { t with ringMask := 2, rings := t.rings.set 1 { Ring.start with count := 1, mark := some (0, 1) } }
    meets s p.1 m0 (fun _ => p.2) fun f =>
      (s.ring? f.g 1).any fun r => r.mark = some (0, 1) && s.clock (coreDie f.g.core) = 0 && f.g.islot < 1) = true := by decide +kernel

/-- WAITC's conditions, and whether a lane is left. -/
def waitOk (s : State) (c : BitVec 4) (left : Bool) : Bool :=
  meets s (.waitc m0 16 20 c) m0 (fun f => { typed := f.g.type < 4, srcs := [opnd 16 2], srcB := some (opnd 20 (typeWords f.g.type)) }) fun f =>
    let w : WaitFor := ⟨c.toNat, typeWords f.g.type, f.g.type % 2 = 0, (lanesOf f.active).map fun l => ⟨l, f.src 16 2 l, f.srcB 20 (typeWords f.g.type) l⟩⟩
    let xs := s.waitAccesses f.g w
    clean xs && !s.loadHeld f.g (xs.flatMap LaneAccess.pieces) && (((s.noteRead f.g (linesOfLanes xs)).waitRead f.g w xs).2.left == []) != left

/-- A group whose copy timeline has accepted 5 operations and completed 3. -/
def counted (v : Nat) : State := withG (pointing base 0 fun _ => v) fun g => { g with copy := ⟨5, 3, []⟩ }

theorem witness_MonitorsComplete : (waitOk memory 0 false && waitOk memory 1 true &&
    [3, 5].all (fun v => meets (counted v) (.tlwait m0 16 0 0) m0 (fun _ => { srcs := [opnd 16 2] }) fun f => f.src 16 2 f.low = v && f.src 16 2 f.low ≤ 5 &&
      (counted v).timeline? f.g 0 0 = some ⟨5, 3, []⟩) &&
    [3, 4].all (fun v => meets (counted v) (.tlwait m0 16 20 4) m0 (fun _ => { srcs := [opnd 16 2], srcB := some (opnd 20 1) }) fun f =>
      ((counted v).timeline? f.g 4 (f.srcB 20 1 f.low)).isSome) &&
    meets (counted 3) (.tlread m0 16 0 3) m0 (fun _ => { dst := some (opnd 16 2), late := true }) (fun f => ((counted 3).timeline? f.g 3 0).isSome)) = true := by decide +kernel

theorem witness_TimelineCounts : let t : Timeline := ⟨9, 3, [5, 7]⟩; (∀ k ∈ t.done, t.counter < k) ∧ t.done.Nodup ∧ t.counter < 4 := by decide

/-- A firmware group whose die holds a wake event or not. -/
def waking (b : Bool) : State := firm.modDie 0 fun d => { d with wakeHeld := b }

theorem witness_SystemComplete : (meets base (.mfs m0 16 0x054) m0 (fun _ => { dst := some (opnd 16 1) }) && meets firm (.mfs m0 16 0x104) m0 (fun _ => { priv := true, dst := some (opnd 16 1) }) &&
    meets base (.mts m0 16 0x013) m0 (fun _ => { srcs := [opnd 16 1] }) && meets firm (.mts m0 16 0x100) m0 (fun _ => { priv := true, srcs := [opnd 16 1] }) &&
    meets firm (.eret m0) m0 (fun _ => { priv := true }) (fun _ => (firm.die 0).fwepc.toNat % 4 = 0) &&
    [true, false].all (fun b => meets (waking b) (.halt m0) m0 (fun _ => { priv := true }) fun _ => ((waking b).die 0).wakeHeld = b) &&
    [Instr.cinv m0 16 0 0, .cwb m0 16 1 1].all (fun i => meets memory i m0 (fun _ => { srcs := [opnd 16 2] })) &&
    meets firm (.tlbi m0 16 20 1) m0 (fun _ => { priv := true, srcs := [opnd 16 2], srcB := some (opnd 20 1) }) &&
    meets memory (.rgrel m0 16) m0 (fun _ => { srcs := [opnd 16 2] }) (fun f => f.src 16 2 f.low < 2 ^ 56 && (memory.mappedPa f 16 f.low).any fun pa => pa < 2 ^ 46)) = true := by decide +kernel

theorem witness_SystemRegisters : atTurn base (fun f => (2 ^ 32 - 1 : Nat) < 2 ^ 32 && coreDie f.g.core < base.dies.length && (base.group? f.g.gid).isSome &&
    (base.teamOf f.g).isSome && (base.ctxOf f.g).any (fun c => c.fpx.length = 20 && c.fired.length = 20) && (base.frameOf f.g).isNone) = true := by decide +kernel

/-! ## Witnesses: far atomics, queues, tasks -/

/-- A far atomic's conditions. -/
def farOk (s : State) (i : Instr) (need : Need) (size : Nat) : Bool :=
  meets s i m0 (fun _ => need) fun f =>
    let xs := s.checkLanes f.g .far [3] size size (f.src 16 2) (lanesOf f.writers)
    clean xs && !s.loadsOpen f.g && !s.farAcross f.g (linesOfLanes xs) &&
      !s.lateAhead f.g (memLines (xs.flatMap LaneAccess.pieces))

def farTwo (w : Nat) (nr : Bool) : Need := { srcs := [opnd 16 2], srcB := some (opnd 22 w), dst := if nr then none else some (opnd 20 w), late := !nr }
def farThree (w : Nat) : Need := { srcs := [opnd 16 2], srcB := some (opnd 22 w), srcC := some (opnd (cCode 20 0) w), dst := some (opnd 20 w), late := true }

theorem witness_FarAtomicsComplete : ([false, true].all (fun n => let d : Code := if n then 0 else 20
      [Instr.madd m0 d 16 22 n 0, .mmin m0 d 16 22 n true 0, .mmax m0 d 16 22 n false 0, .mand m0 d 16 22 n 0, .mor m0 d 16 22 n 0, .mxor m0 d 16 22 n 0,
        .mxch m0 d 16 22 n 0].all (fun i => farOk memory i (farTwo 1 n) 4) &&
      [Instr.madd m0 d 16 22 n 1, .mmin m0 d 16 22 n true 1].all fun i => farOk memory16 i (farTwo 2 n) 8) &&
    [Instr.mcas m0 20 16 22 0, .mbim m0 20 16 22 0, .mpls m0 20 16 22 0].all (fun i => farOk memory i (farThree 1) 4) &&
    farOk memory16 (.mcas64 m0 20 16 22 0) (farThree 2) 8 &&
    farOk memory16 (.mfcs m0 20 16) { srcs := [opnd 16 2], dst := some (opnd 20 1), late := true } 8) = true := by decide +kernel

theorem witness_FarAtomicOperators : BitVec.allOnes 64 = (0xFFFFFFFFFFFFFFFF#64) ∧ (0#64) ≠ BitVec.allOnes 64 := by decide

theorem witness_FarAtomicOperators_combined : 0xC0 ≤ 0xC0 ∧ 0xC6 ≤ 0xC6 ∧ 0 < 32 ∧ farOp 0xC2 false 8 0x80 (farOp 0xC2 false 8 0x7F 1) = 0x7F := by decide +kernel

/-- A queue descriptor, HEAD, TAIL, the ring at 0x10800, the stamps at 0x10C00, LOG2N. -/
def queueBytes (head tail log2n : Nat) : List Byte := bytesOf head 8 ++ bytesOf tail 8 ++ bytesOf 0x10800 8 ++ bytesOf 0x10C00 8 ++ bytesOf log2n 8

/-- The queue at 0x10100 in N0, an entry at 0x10200 in N4. -/
def queued (head tail log2n : Nat) : State :=
  (pointing (pointing base 0 fun _ => 0x10100) 4 fun _ => 0x10200).setMem (Memory.write [] 0x10100 (queueBytes head tail log2n))

/-- The conditions of QENQ and QDEQ. -/
def queueOk (s : State) (i : Instr) (enq : Bool) : Bool :=
  meets s i m0 (fun _ => { srcs := [opnd 16 2], srcB := some (opnd 20 2), dst := some (opnd 22 2), late := true }) fun f =>
    let ls := lanesOf f.writers
    let xs := s.checkLanes f.g .wr [3] 64 64 (f.src 16 2) ls
    let ys := s.checkLanes f.g (if enq then .rd else .wr) [1, 2, 3] 8 32 (f.srcB 20 2) ls
    (pairTrap 1 (if enq then 0 else 1) xs ys).isNone && clean xs && clean ys && !s.relBusy f.g && (s.out? s.ctl.nextId).isNone

/-- Only lane 0 in the fragment. -/
def oneLane (s : State) : State := withG s fun g => { g with slot0 := g.slot0.map fun sl => { sl with mask := 1 } }

theorem witness_QueuesComplete : (queueOk (oneLane (queued 0 0 4)) (.qenq m0 22 16 20) true && queueOk (oneLane (queued 0 1 4)) (.qdeq m0 22 16 20) false &&
    [true, false].all fun flush =>
      let s := oneLane (pointing (scratch 4096 0) 4 fun _ => scratchBase + 0x100)
      meets s (.qpost m0 22 16 20 flush) m0 (fun _ => { srcs := [opnd 16 2], srcB := some (opnd 20 2), dst := some (opnd 22 1), late := true }) fun f =>
        let xs := s.checkLanes f.g .wr [1, 2] 64 64 (f.src 16 2) (lanesOf f.writers)
        let ys := s.checkLanes f.g .rd [1, 2, 3] 8 32 (f.srcB 20 2) (lanesOf f.writers)
        (pairTrap 1 0 xs ys).isNone && clean ys && !s.relBusy f.g) = true := by decide +kernel

/-- The descriptor read as QueueIndexes reads it, and where its counters can be written. -/
def descOk (head tail log2n : Nat) (p : Nat → Bool) : Bool :=
  let s := queued head tail log2n
  s.frag?.any fun f => match s.peekVa (s.agentOf f.g) 0x10100 64 with
    | .ok (u, v) => p v && [0, 8].all fun o => match u.pokeVa (s.agentOf f.g) (0x10100 + o) (bytesOf 1 8) with | .ok _ => true | .error _ => false
    | .error _ => false

theorem witness_QueueIndexes : (descOk 0 0 3 (fun v => v / 2 ^ 256 % 256 < 4) && descOk 0 0 21 (fun v => 20 < v / 2 ^ 256 % 256) && descOk 5 21 4 (fun v => v / 2 ^ 264 = 0) &&
    descOk 5 20 4 (fun v => v % 2 ^ 64 = 5 && v / 2 ^ 64 % 2 ^ 64 = 20) && descOk 5 5 20 (fun v => v / 2 ^ 256 % 256 = 20) && descOk 5 6 4 fun v => v / 2 ^ 264 = 0) = true := by decide +kernel

/-- A TCB at 0x10100 with a state, DEP 0, no successors, its pool at 0x10200; the pool's queue and its LIVE. -/
def tasked (st live tail : Nat) : State :=
  let s := pointing (pointing base 0 fun l => if l = 99 then 0 else 0x10100) 4 fun _ => 0x10280
  s.setMem (Memory.write (Memory.write (Memory.write [] 0x10104 [BitVec.ofNat 8 st]) 0x10118 (bytesOf 0x10200 8)) 0x10200
    (bytesOf 0 8 ++ bytesOf tail 8 ++ bytesOf 0x10800 8 ++ bytesOf 0x10C00 8 ++ bytesOf 4 8 ++ List.replicate 24 0 ++ bytesOf live 8))

/-- The address of a task instruction is clear. -/
def taskOk (s : State) (f : Frag) : Bool := clean (s.taskCheck f 64 (f.src 16 2 f.low)) && !s.relBusy f.g && !s.taskBusy f

def isOk {α : Type} (r : Except (Nat × Nat) α) (p : α → Bool := fun _ => true) : Bool := match r with | .ok x => p x | .error _ => false

/-- An access that reads leaves a value for which `p` holds. -/
def peeks (r : Except (Nat × Nat) (State × Nat)) (p : Nat → Bool := fun _ => true) : Bool := isOk r fun x => p x.2

theorem witness_TasksComplete : ([0, 1, 4].all (fun st => let s := tasked st 0 0
      meets s (.tkarm m0 22 16 18 1) m0 (fun _ => { srcs := [opnd 16 2], srcB := some (opnd 18 1), dst := some (opnd 22 1), late := true }) fun f =>
        let ag := s.taskAgent (s.ctxIdOf f.g) f.g.core
        let u := s.releaseAt ag 0x10100
        f.src 16 2 f.low = 0x10100 && f.srcB 18 1 f.low ≤ 65535 && taskOk s f && isOk (u.peekVa ag 0x10104 1) fun z => z.2 == st && isOk (z.1.pokeVa ag 0x10100 (bytesOf 1 4 ++ [1, 1]))) &&
    (let s := pointing (tasked 0 0 0) 2 fun _ => 65536
     meets s (.tkarm m0 22 16 18 1) m0 (fun _ => { srcs := [opnd 16 2], srcB := some (opnd 18 1), dst := some (opnd 22 1), late := true }) fun f =>
        let ag := s.taskAgent (s.ctxIdOf f.g) f.g.core
        65535 < f.srcB 18 1 f.low && taskOk s f && peeks ((s.releaseAt ag 0x10100).peekVa ag 0x10104 1) (· == 0)) &&
    [0, 2, 5].all (fun st => [true, false].all fun n => let s := tasked st 0 0
      meets s (.tkpost m0 22 16 n) m0 (fun _ => { srcs := [opnd 16 2], dst := some (opnd 22 2), late := true }) fun f =>
        let ag := s.taskAgent (s.ctxIdOf f.g) f.g.core
        let u := s.releaseAt ag 0x10100
        taskOk s f && isOk (u.peekVa ag 0x10104 1) fun y => y.2 == st && isOk (y.1.peekVa ag 0x10118 8) fun z => z.2 == 0x10200 &&
          isOk (z.1.addVa ag 0x10240 8 1)) &&
    (let s := withG (tasked 3 1 0) fun g => { g with task := some 0x10100 }
     meets s (.tkdone m0 22 16) m0 (fun _ => { srcs := [opnd 16 2], dst := some (opnd 22 1), late := true }) fun f =>
        let ag := s.taskAgent (s.ctxIdOf f.g) f.g.core
        let u := s.releaseAt ag 0x10100
        f.g.task = some (f.src 16 2 f.low) && taskOk s f && isOk (u.putVa ag 0x10104 1 4) fun y =>
          isOk ((y.relLine ag f.g.relScope 0x10100).peekVa ag 0x10108 8) fun y1 => isOk (y1.1.peekVa ag 0x10110 2) fun y2 =>
            isOk (y2.1.peekVa ag 0x10118 8) fun t => (t.1.group? f.g.gid).isSome) &&
    [(1, 1), (0, 0), (0, 1)].all fun (tail, live) => let s := pointing (pointing (tasked 0 live tail) 0 fun _ => 0x10200) 4 fun _ => 0x10300
      meets s (.tkget m0 22 16 20) m0 (fun _ => { srcs := [opnd 16 2], srcB := some (opnd 20 2), dst := some (opnd 22 2), late := true }) fun f =>
        let ag := s.taskAgent (s.ctxIdOf f.g) f.g.core
        let xs := s.taskCheck f 128 0x10200
        let ys := s.checkLanes f.g .wr [1, 2, 3] 8 32 (fun _ => 0x10300) [f.low]
        !s.holdsTask f && (pairTrap 1 1 xs ys).isNone && clean xs && clean ys && !s.relBusy f.g && !s.taskBusy f &&
          isOk ((s.dropMonitors (Monitor.isTkget f.g.gid f.slot)).reserve ag 0x10200 false) fun x =>
            (x.2.2 < queueBad) == (tail == 1) && peeks (x.1.peekVa ag 0x10240 8) (· == live)) = true := by decide +kernel

/-- The group's own task work is under way. -/
theorem witness_TasksComplete_busy : (let s := pointing (pointing (tasked 0 1 1) 0 fun _ => 0x10200) 4 fun _ => 0x10300
    let s := s.setOuts [⟨7, 3, 0, 24, 2, 1, [], 1, .post ⟨0x10100, [], some 0x10100, none, 0, 0, 1, 0, none⟩, 0x10000, false⟩]
    meets s (.tkget m0 22 16 20) m0 (fun _ => { srcs := [opnd 16 2], srcB := some (opnd 20 2), dst := some (opnd 22 2), late := true }) fun f =>
      !s.holdsTask f && (pairTrap 1 1 (s.taskCheck f 128 0x10200) (s.checkLanes f.g .wr [1, 2, 3] 8 32 (fun _ => 0x10300) [f.low])).isNone &&
        !s.relBusy f.g && s.taskBusy f) = true := by decide +kernel

/-! ## Witnesses: copies and the matrix engine -/

/-- A copy command's conditions, its descriptor at 0x10100. -/
def copyOk (desc : List Byte) (i : Instr) (op x : Nat) : Bool :=
  let s := (pointing (scratch 4096 0) 0 fun _ => 0x10100).setMem (Memory.write [] 0x10100 desc)
  meets s i m0 (fun f => { role := f.g.role.copies, srcs := [opnd 16 2], dst := some (opnd 20 2), late := true }) fun f =>
    let xs := s.checkLanes f.g .rd [1, 2, 3] (copyDescSize op) (copyDescSize op) (fun _ => f.src 16 2 f.low) [f.low]
    let bits := xs.flatMap LaneAccess.pieces
    let u := bits.foldl (fun (u : State) b => u.bringBit (u.agentOf f.g) true b) s
    let o : CopyOp := ⟨0, op, u.readBits f.g.core bits, x, [], [], none, false⟩
    f.g.copyOps.length < 32 && clean xs && !s.relBusy f.g && u.copyLegal f.g o && (u.copyAperture f.g o).isNone

/-- Descriptors: linear, tiled to an address, by elements. -/
def linear (src : Nat) : List Byte := bytesOf src 8 ++ bytesOf 0x10200 8 ++ bytesOf 64 4
def tiled (dst : Nat) : List Byte := bytesOf 0x10400 8 ++ bytesOf dst 8 ++ bytesOf 64 4 ++ bytesOf 2 4 ++ bytesOf 64 4 ++ bytesOf 64 4
def elements : List Byte := bytesOf 0x10400 8 ++ bytesOf 0x10600 8 ++ bytesOf 0x10800 8 ++ bytesOf 5 8 ++ bytesOf 0 8 ++ bytesOf 3 1 ++ bytesOf 2 1

theorem witness_CopiesComplete : (copyOk (linear 0x10400) (.cpy m0 20 16 true) 0xD8 1 && copyOk (tiled scratchBase) (.cpym m0 20 16 1) 0xD9 1 &&
    copyOk (linear 7) (.cpys m0 20 16 false) 0xDA 0 && copyOk (tiled 0x10800) (.cpyt m0 20 16 false) 0xDB 0 && copyOk elements (.cpyg m0 20 16 true true) 0xDC 3 &&
    copyOk elements (.cpyx m0 20 16 false false) 0xDD 0 &&
    meets memory (.cbmrd m0 20 16) m0 (fun f => { role := f.g.role.copies, srcs := [opnd 16 2], dst := some (opnd 20 2), late := true }) (fun f =>
      let ys := memory.checkLanes f.g .rd [1, 2, 3] 8 8 (fun _ => f.src 16 2 f.low) [f.low]
      f.g.copyOps.length < 32 && clean ys && !memory.loadHeld f.g (ys.flatMap LaneAccess.pieces))) = true := by decide +kernel

/-- A gang of one member, group 3, and the group with 40 N registers; G3:G2 points into the scratchpad. -/
def solo : Gang := ⟨50, 0, 1, 1, 0, 0, 1, [(0, 3)], [], true, false, []⟩
def ganged : State := (withG (scratch 8192 0) fun g => { ((g.setG 2 0).setG 3 0xFF000000) with gang := some 50, allot := 40, grown := true }).setGangs [solo]

/-- A gang instruction's conditions. -/
def gangOk (i : Instr) (x : Nat) (insn : FSlot → GangInsn) (needB : Bool) : Bool :=
  meets ganged i m0 (fun f => let nb := if needB then ganged.bRegs f.g (ganged.fslot f.g x) else 0
      { role := f.g.role.matrices, srcs := if (insn (fslotOf 0)).hasBlock then [opnd 58 2] ++ if nb = 0 then [] else [opnd 20 nb] else [] }) fun f =>
    let j := insn (ganged.fslot f.g x)
    !ganged.gangFull && !ganged.relBusy f.g && ganged.gangOf f.g = some solo && ganged.mayOwn 0 1 j.tiles && (ganged.teamOf f.g).any (fun t => t.ctx = 1) &&
      (!j.hasBlock || (match ganged.checkAccess (ganged.agentOf f.g) .wr [1, 2] 64 0 (f.src 58 2 f.low) (j.touchLen 1 0) with | .ok _ => true | .error _ => false)) &&
      !(j.hasBlock && j.q.wide && j.t % 2 = 1) && j.q.scale < 2

/-- A gang operation of which the group has issued nothing is issued to the engine; one whose number has been discarded is not. -/
theorem witness_MatrixComplete_over : (ganged.groups.all (fun g => !g.gangOver (g.gangTl.accepted + 1)) &&
    meets (withG ganged fun g => { g with gangTl := { g.gangTl with done := [1] } }) (.mfree m0 4) m0 (fun f => { role := f.g.role.matrices })
      (fun f => f.g.gangOver (f.g.gangTl.accepted + 1))) = true := by decide +kernel

theorem witness_MatrixComplete : (gangOk (.mma m0 4 58 20 0) 0 (fun q => ⟨0xE1, 4, 0, q⟩) true && gangOk (.mmaz m0 4 58 20 0) 0 (fun q => ⟨0xE1, 4, 8, q⟩) true &&
    gangOk (.accld m0 4 58 0) 0 (fun q => ⟨0xE2, 4, 0, q⟩) false && gangOk (.accst m0 4 58 0) 0 (fun q => ⟨0xE3, 4, 0, q⟩) false &&
    gangOk (.mfree m0 4) 0 (fun _ => ⟨0xE6, 4, 0, fslotOf 0⟩) false &&
    meets base (.gang m0 16 1) m0 (fun f => { role := f.g.role.matrices, srcs := [opnd 16 1] }) (fun f => !base.gangHeld f.g &&
      base.gangLegal f.g (f.src 16 1 f.low) 1 && base.gangsAwaiting f.g = []) &&
    [0, 1].all (fun w => meets base (.accrd m0 16 4 (BitVec.ofNat 6 w) 15) m0 (fun f => { role := f.g.role.matrices, dst := some (opnd 16 (w + 1)), late := true }) fun f =>
      base.mayOwn (coreCluster f.g.core) (base.ctxIdOf f.g) (if w = 1 then [4, 5] else [4])) &&
    meets base (.mburst m0 3) m0 (fun f => { role := f.g.role.matrices })) = true := by decide +kernel

/-! ## Witnesses: graphics -/

/-- A view of one tile of 16 by 16 samples and pixels, one strip, that hands its egress to 0x10400. -/
def view1 : View :=
  { m := List.replicate 16 0, wd := 16, hd := 16, tx := 1, ty := 1, flags := 0, cx := 0, cy := 0, lens := 0,
    xk := (0, 256) :: List.replicate 7 (16, 256), yk := (0, 256) :: List.replicate 7 (16, 256), strips := [⟨0, 0, 1000⟩],
    target := ⟨0x10400, 0, 1, 0x10400, 1024, 64, 0⟩, frameNo := 1, frameNoDone := true, repaired := false }

/-- A frame of that view on core 0, whose pool is allocation 1; its tile's area is open for strip 0. -/
def frame1 : Frame :=
  { fid := 10, lid := 1, ctx := 1, die := 0, vset := 0, cores := [0], views := [view1], primRing := 0x10800, primSlots := 4, setupRing := 0x10C00,
    setupSlots := 4, stq := 0, fkAddr := 0, fk := ⟨1, 0, 0, 15, 3, 0, 0, 0, 0x10000, 0, 0, []⟩, fargs := 0, stats := 0, qrange := [], prims := [],
    tris := [], setups := 0, areas := [⟨0, 0, 0, 0, some 0, [], []⟩], batches := [], blends := [], ends := [], queued := [], claimed := [], deadlines := [],
    counters := [], errPrim := 0, emitErrs := [], occ := [], pads := [(0, 1)], meshDone := false, fault := none, repaired := false }

/-- Strip 0 of view 0 latched, or not. -/
def latched (b : Bool) (s : State) : State :=
  s.modDie 0 fun d => { d with viewSets := d.viewSets.modify 0 fun x => { x with latches := [⟨0, 0, 0, 0, 0⟩], latched := if b then [(0, 0)] else [] } }

/-- Group 3 as meshlet 0 of that frame; N0 is the handle of view 0, strip 0, tile 0, or an address. -/
def drawing (s : State) : State :=
  latched true (withG ((withL s fun l => { l with kind := .meshlets 10 }).setFrames [frame1]) fun g => { g with part := .meshlet 10 0 })

theorem witness_SystemRegisters_frame : atTurn (drawing base) (fun f => ((drawing base).frameOf f.g).any fun fr =>
    fr.die < (drawing base).dies.length && fr.vset < ((drawing base).die fr.die).viewSets.length &&
    !(fr.viewSetRegs (drawing base)).gzx.isEmpty && !(fr.viewSetRegs (drawing base)).gzy.isEmpty) = true := by decide +kernel

def emitvNeed (x : Nat) (f : Frag) : Need :=
  { role := f.g.role.vectors, legal := f.sl.lit.isNone && f.g.meshlet?.isSome, srcs := [opnd 16 4], srcB := if x = 0 then none else some (opnd 20 (4 * x)) }

theorem witness_EmitsComplete : ([0, 1].all (fun x => meets (drawing base) (.emitv m0 16 (if x = 0 then 0 else 20) (BitVec.ofNat 4 x)) m0 (emitvNeed x)) &&
    meets (pointing (drawing base) 0 fun _ => 0x020100) (.emitp m0 16 20) m0
      (fun f => { role := f.g.role.vectors, legal := f.g.meshlet?.isSome, srcs := [opnd 16 1], srcB := some (opnd 20 1) })
      (fun f => (lanesOf f.sl.mask).all fun l => !emitReserved (f.src 16 1 l) (f.srcB 20 1 l))) = true := by decide +kernel

/-- The samples that every lane of a group names lie in its own tile, and its handles are valid. -/
def tileOk (s : State) (f : Frag) (ls : List Nat) : Bool :=
  s.badHandles f.g (f.src 16 1) ls = [] && (s.goodHandles f.g (f.src 16 1) ls).length = 64 && (s.goodHandles f.g (f.src 16 1) ls).all fun y =>
    y.2.1.inTile y.2.2 (sampleU (f.srcB 20 1 y.1)) (sampleV (f.srcB 20 1 y.1)) && y.2.1.owner y.2.2.view y.2.2.tile = f.g.core

/-- Sample (15, 15) in N4. -/
def sampled : State := pointing (drawing (scratch 8192 0)) 4 fun _ => 0x000F000F
def handled : State := pointing sampled 0 fun _ => 0

def fbrdNeed (x : Nat) (f : Frag) : Need :=
  { role := f.g.role.vectors, srcs := [opnd 16 1], srcB := if x = 2 then none else some (opnd 20 1), dst := some (opnd 22 (if x = 0 then 1 else 2)), late := true }

theorem witness_FramebufferComplete : ([0, 1, 2].all (fun x => meets handled (.fbrd m0 22 16 (if x = 2 then 0 else 20) (BitVec.ofNat 4 x)) m0 (fbrdNeed x) (fun f => tileOk handled f (lanesOf f.sl.mask))) &&
    meets handled (.fbwr m0 22 16 20 1) m0 (fun f => { role := f.g.role.vectors, srcs := [opnd 22 1, opnd 16 1], srcB := some (opnd 20 1) })
      (fun f => tileOk handled f (lanesOf (f.sl.mask &&& ~~~f.g.helper)) && !handled.farBusy f.g && !handled.loadsOpen f.g)) = true := by decide +kernel

def tretNeed (f : Frag) : Need := { role := f.g.role.vectors, srcs := [opnd 16 1], dst := some (opnd 22 1), late := true }
def egrsNeed (f : Frag) : Need := { role := f.g.role.vectors, srcs := [opnd 16 1], srcB := some (opnd 20 2), dst := some (opnd 22 2), late := true }

/-- The handle of a fragment names a live tile of its own core, or one whose strip has not latched. -/
def handleOk (s : State) (f : Frag) (b : Bool) : Bool := match s.handleOf f.g (f.src 16 1 f.low) with
  | some (fr, h) => match s.warpOf fr h.view h.strip with
    | some p => b && p.tileLive h.tile && fr.owner h.view h.tile = f.g.core && (p.display h.tile).2.2.1 = 16 && (p.display h.tile).2.2.2 = 16
    | none => !b
  | none => false

/-- A scratchpad address for 1024 bytes in N4. -/
def imaged : State := pointing handled 4 fun _ => scratchBase + 4096

/-- The same with the tile retired by an earlier TRET and handed over. -/
def closed : State := imaged.setFrames [{ frame1 with areas := [⟨0, 0, 0, 0, some 1, [0], [0]⟩] }]

theorem witness_TilesComplete : ([true, false].all (fun b => meets (latched b imaged) (.tret m0 22 16) m0 tretNeed (fun f => handleOk (latched b imaged) f b) &&
      meets (latched b imaged) (.egrs m0 22 16 20 3) m0 egrsNeed fun f => handleOk (latched b imaged) f b && (imaged.imagePlace f.g (f.srcB 20 2 f.low) 1024).isSome &&
        ((imaged.ctx? (imaged.ctxIdOf f.g)).bind fun c => c.streams[3]?).isSome && f.srcB 20 2 f.low % 4 = 0) &&
    meets imaged (.tret m0 22 16) m0 tretNeed (fun _ => !imaged.tretClosed frame1 (frame1.area 0 0) 0) &&
    meets closed (.tret m0 22 16) m0 tretNeed (fun f => handleOk closed f true && closed.frames.all fun fr => closed.tretClosed fr (fr.area 0 0) 0) &&
    meets imaged (.late m0 22 16) m0 tretNeed (fun f => (imaged.handleOf f.g (f.src 16 1 f.low)).isSome)) = true := by decide +kernel

/-- A sampler record at 0x10100 in N6: an RGBA8 image of 4 by 4 texels at 0x10400. -/
def sampler : State := (pointing base 6 fun _ => 0x10100).setMem (Memory.write [] 0x10100
  (bytesOf 0x10400 8 ++ bytesOf 4 2 ++ bytesOf 4 2 ++ bytesOf 16 4 ++ [0, 0, 0, 1, 1]))

/-- The conditions of TEX and TEXG. -/
def sampleOk (i : Instr) (gather : Bool) (x : Nat) : Bool :=
  meets sampler i m0 (fun f => { role := f.g.role.vectors, srcs := [opnd 16 2], srcB := some (opnd 22 2), dst := some (opnd 18 4), late := true }) fun f =>
    let xs := sampler.checkLanes f.g .rd [1, 2, 3] 64 64 (fun _ => f.srcB 22 2 f.low) [f.low]
    let bits := xs.flatMap LaneAccess.pieces
    let u := bits.foldl (fun (u : State) b => u.bringBit (u.agentOf f.g) true b) sampler
    let r := u.readBits f.g.core bits
    let q := samplerOf r
    let n := samplerArgWords q gather x
    f.g.sampOps.length < 32 && clean xs && !sampler.relBusy f.g && q.ok r gather && (opnd 16 n).inAllot f.g.allot &&
      q.badAperture.isNone && (f.readTrap [opnd 16 n]).isNone

/-- A ray's conditions: the header's address in N6; with `v`, a handle in N0 whose strip has latched. -/
def rayOk (i : Instr) (v : Bool) (w : Nat) : Bool :=
  let s := withG (pointing (if v then handled else base) 6 fun _ => 0x10100) fun g => { g with allot := 40, grown := true }
  meets s i m0 (fun f => { role := f.g.role.vectors, srcs := [opnd 16 (if v then 4 else 8)], srcB := some (opnd 22 2), dst := some (opnd 24 w), late := true }) fun f =>
    let hs := s.goodHandles f.g (fun l => f.src 16 (if v then 4 else 8) l % 2 ^ 32) (lanesOf f.sl.mask)
    f.g.rayOps.length < 32 && !s.relBusy f.g && f.srcB 22 2 f.low = 0x10100 && (!v || (hs.length = 64 && hs.all fun z => (s.warpOf z.2.1 z.2.2.view z.2.2.strip).isSome))

def rgrpNeed (f : Frag) : Need :=
  { role := f.g.role.vectors, late := true, legal := (Opnd.mk 16 2).inAllot f.g.allot && (f.g.slot? (1 - f.slot)).isNone, srcs := [opnd 16 1, ⟨16, 2⟩] }

theorem witness_SamplingComplete : ([0, 1].all (fun x => sampleOk (.tex m0 18 16 22 (BitVec.ofNat 2 x)) false x) && sampleOk (.texg m0 18 16 22 3) true 3 &&
    [true, false].all (fun v => rayOk (.ray m0 24 16 22 v) v 4 && rayOk (.rayq m0 24 16 22 v) v 1) &&
    [true, false].all fun v => let s := withL base fun l => { l with clsize := 1 }
      meets s (.rgrp m0 v 16 1) m0 rgrpNeed fun f => (s.launchOf f.g).any (fun l => l.clsize ≠ 0) && (s.groupsOf f.g.tid).all fun h => h.gid = f.g.gid) = true := by decide +kernel

/-! ## Witnesses: events of the core and the fabric -/

/-- A result of two words at N4 under way for group 3. -/
def outstanding (k : OutKind) (left : Nat) : Outst := ⟨7, 3, 0, 20, 2, 0xFF, List.replicate 64 5, left, k, 0x10000, false⟩

theorem witness_ResultLands : ([OutKind.alu, .far, .engine, .narrow [0, 1, 0, 0, 0]].all fun k => let s := base.setOuts [outstanding k 0]
    s.out? 7 = some (outstanding k 0) && (s.group? 3).any fun g => !g.ended) = true := by decide +kernel

/-- Page tables at 0: a 1 GiB page at virtual address 0, one table below the root's first entry. -/
def paged : State := base.setMem (Memory.write (Memory.write [] 0 (bytesOf 0x1001 8)) 0x1000 (bytesOf 0x1F 8))

/-- A shootdown of one address space, and far atomics of none. -/
def shooting : State := base.setMsys { base.msys with shootdowns := [⟨5, 1, 0, 0, none⟩] }

theorem witness_FabricEventsComplete :
    (let s := withG growing fun g => { g with slot0 := g.slot0.map fun sl => { sl with park := some (.grow 4) } }
     (s.group? 3).any (fun g => s.growDue g && s.growRoom g) && decide (383 < base.cores.length) &&
     (let s := base.setCtl { base.ctl with cycle := 4096 }
      decide ((s.core 5).ldWindow + 4096 ≤ s.clock (coreDie 5))) &&
     (paged.contexts.find? fun c => c.asid = 0 && !c.killed).any (fun c => (paged.tlbHit (c.agent 1000 5) 0x20000).isNone && (paged.walk (c.agent 1000 5) 0x20000).isSome) &&
     (shooting.msys.shootdowns.find? fun x => x.sid = 5).any fun d => !shooting.shootdownBusy d) = true := by decide +kernel

/-- A request at `route`, faulted or not, of lane 4 of result 7. -/
def req (rid : Nat) (route : List Hop) (faulted : Bool) : Req :=
  ⟨rid, 3, 0, 0x10000, 0, 0, 1, 0xC0, false, 4, 0x10100, 0x10100, 16, false, 4, 1, 0, .lane 7 4, false, faulted, none, route, 0, [rid]⟩

def netted (rs : List Req) (bad : List Nat) : State :=
  (base.setNet { base.net with requests := rs, origs := rs }).setMsys { base.msys with badLines := bad }

/-- The first request of a state is found under its number, and is the first at its point. -/
def reqOk (s : State) (r : Req) (bad : Bool) : Bool :=
  (s.net.requests.find? fun q => q.rid = r.rid) = some r && s.net.isFirst r && s.net.clear r && s.classTurn r && !devicePa r.pa && s.homeFaults r.pa == bad

theorem witness_NetworkEventsComplete : ([false, true].all (fun bad => reqOk (netted [req 9 [] false] (if bad then [0x404] else [])) (req 9 [] false) bad &&
      reqOk (netted [req 9 [] true] (if bad then [0x404] else [])) (req 9 [] true) bad) &&
    (netted [req 9 [] true] [0x404]).groups.any (fun g => g.gid = 3 && !g.ended && g.phase = .none) &&
    (netted [req 9 [] false] []).net.origs.all (fun o => o.release.isNone) && reqOk (netted [req 9 [⟨201, 3⟩] false] []) (req 9 [⟨201, 3⟩] false) false &&
    ([req 10 [⟨201, 4⟩] false, { req 10 [⟨201, 2⟩] false with gid := 4, core := 9, lane := 1 }].all fun y =>
     let x := req 9 [⟨201, 3⟩] false
     let s := netted [x, y] []
     x.matches y && s.clock (pointDie 201) ≤ x.entry + 4 && s.net.mayJoin x y && !s.net.before y x && !s.net.before (if y.gid = 3 then y else x) (if y.gid = 3 then x else y) &&
       decide ((s.net.waits.filter fun w => (waitPool w.point).1 = (waitPool 201).1).length < (waitPool 201).2)) &&
    (let w : WaitEntry := ⟨6, .lane 7 4, .silent, 1, 0xC0, false, 4, 201, some 5⟩
     let s := base.setNet { base.net with waits := [w] }
     (s.net.waits.find? fun x => x.wid = 6) = some w && w.reply = some 5)) = true := by decide +kernel

/-- Group 3 parked, with a watch that has fired. -/
def parked (p : Park) (w : Watcher) (s : State) : State :=
  (withG s fun g => { g with slot0 := g.slot0.map fun sl => { sl with park := some p } }).setMsys { s.msys with monitors := [⟨w, none, 0x10100, 4, true⟩] }

/-- A shadow at offset 0 of allocation 1, with entries posted. -/
def shadowed (x : Shadow) (cycle : Nat) : State :=
  let s := (scratch 4096 0).setCtl { (scratch 4096 0).ctl with cycle := cycle }
  s.modCluster 0 fun c => { c with shadows := [x] }

theorem witness_WaitEventsComplete :
    ([0, 1].all (fun c => let w : WaitFor := ⟨c, 1, true, [⟨0, 0x10100, 0⟩]⟩
      let s := parked (.waitc w 4) (.waitc 3 0) base
      (s.group? 3).any (fun g => (g.slot? 0).any (fun sl => sl.park = some (.waitc w 4) && sl.stop.isNone) && s.mayIssue g && (lanesTrap 0 (s.waitAccesses g w)).isNone) &&
        s.msys.monitors.any fun m => m.isWaitc 3 0 && m.fired) &&
     [true, false].all (fun turn => (parked (.tkget 4 turn false) (.tkget 3 0) base).msys.monitors.any (fun m => m.isTkget 3 0 && m.fired)) &&
     (let k : OutKind := .post ⟨0x10100, [], some 0x10100, none, 0, 0, 1, 0, none⟩
      ((base.setOuts [outstanding k 1]).out? 7).any fun r => r.kind.work?.isSome && r.left ≠ 0) &&
     (let x : Shadow := ⟨1, 0, 2, 1, [(0, 0)], true, false, none, false, none, none⟩
      let s := shadowed x 128
      s.shadow? 1 0 = some (0, x) && x.fault.isNone && s.shadowDue x && (s.cluster 0).shadows = [x] && x.posted ≠ [] && decide (x.oldest + 128 ≤ s.clock 0))) = true := by decide +kernel

/-- Group 3 with one operation in its copy context, its sampler queue, its ray-query context. -/
def copying (o : CopyOp) : State := withG (scratch 4096 0) fun g => { g with copyOps := [o] }
def copy1 (done : List Nat) (tcb : Nat) : CopyOp := ⟨1, 0xD8, linear 0x10400 ++ bytesOf 0 4 ++ bytesOf tcb 8, 0, done, [], none, false⟩
def sample1 : SampOp := ⟨1, 7, false, 1, bytesOf 0x10400 8 ++ bytesOf 4 2 ++ bytesOf 4 2 ++ bytesOf 16 4 ++ [0, 0, 0, 1, 1] ++ List.replicate 43 0, List.replicate 64 0, 1, false, none, false⟩
def ray1 : RayOp := ⟨1, 7, false, false, 0x10100, List.replicate 64 (2 ^ 256), 3, none, false⟩
def gangDone : Gang := { solo with ops := [⟨1, 0, 0xE6, 4, 0, [0], [(0, 0)], [], [(0, [])], []⟩] }

/-- The fault that holds a copy. -/
def held1 (a : Nat) (repaired : Bool) : State := copying { copy1 [] 0 with fault := some (a, true), repaired := repaired }

theorem witness_EngineEventsComplete :
    ((copying (copy1 [] 0)).groups.any (fun g => (copying (copy1 [] 0)).engineRuns g && (copy1 [] 0).todo.contains 0 && (copying (copy1 [] 0)).partReady g (copy1 [] 0) 0 && !(copy1 [] 0).started &&
       (copying (copy1 [] 0)).engineTurn 0 (copyEngine 0) 1 ((((copying (copy1 [] 0)).engineGroups 0).filter (copying (copy1 [] 0)).copyWaits).map (copying (copy1 [] 0)).ctxIdOf)) &&
     decide ((copy1 [0] 0).todo = [] ∧ (copy1 [0] 0).parts ≠ [] ∧ (copy1 [0] 0).tcb = 0 ∧ (copy1 [0] 0x10200).tcb ≠ 0) &&
     (copying (copy1 [0] 0x10200)).groups.any (fun g => isOk ((copying (copy1 [0] 0x10200)).reportResidency g 0x10200) fun u => (u.group? 3).isSome) &&
     (let s := withG base fun g => { g with sampOps := [sample1] }
      s.groups.any fun g => s.engineTurn 0 (textureUnit 0) (s.ctxIdOf g) (s.samplersWaiting 0) && (match s.samplerReads g sample1 (samplerOf sample1.record) with | .ok _ => true | .error _ => false) &&
        (match s.sample g sample1 (samplerOf sample1.record) with | .ok _ => true | .error _ => false)) &&
     (let s := withG base fun g => { g with rayOps := [ray1] }
      s.groups.any fun g => s.engineTurn 0 (rayUnit 0) (s.ctxIdOf g) (s.raysWaiting 0) && (lanesOf ray1.mask).all fun l => match (s.laneQuery g ray1 l).q with | .best _ => true | _ => false) &&
     (let s := ganged.setGangs [gangDone]
      s.gangsWaiting 0 == [1] && s.engineTurn 0 (matrixEngine 0) 1 (s.gangsWaiting 0) && gangDone.ops.all fun o => gangDone.eligible o && !s.tileBehind gangDone o && !gangDone.arraysBehind o) &&
     (let s := (base.modCluster 0 fun c => { c with arrays := c.arrays.set 0 ⟨.up 0, 0, 5⟩ }).setCtl { base.ctl with cycle := 256 }
      (s.cluster 0).arrays[0]?.any fun a => a.ramp = .up 0 && decide (0 + 64 ≤ s.clock 0 ∧ a.lastMma + 256 ≤ s.clock 0 ∧ a.hold ≤ s.clock 0 ∧ a.hold ≠ 0)) &&
     [(0x40000, true), (2 ^ 56, false)].all (fun p => ((held1 p.1 false).heldFault (.copy 3 1)).any fun h =>
        !h.repaired && (held1 p.1 false).events.waiting = [] && ((held1 p.1 false).faultKind h).2 == p.2 && decide (h.die < base.dies.length)) &&
     ((held1 0x40000 true).heldFault (.copy 3 1)).any (·.repaired)) = true := by decide +kernel

/-- A copy of two pieces of which one is done; a shadow whose batch is reserved. -/
theorem witness_EngineEventsComplete_started : (let o : CopyOp := ⟨1, 0xD8, bytesOf 0x10400 8 ++ bytesOf 0x10200 8 ++ bytesOf 128 4 ++ bytesOf 0 12, 0, [0], [], none, false⟩
    (copying o).groups.any fun g => (copying o).engineRuns g && o.started && o.todo.any fun piece => (copying o).partReady g o piece) = true := by decide +kernel
theorem witness_WaitEventsComplete_batch : (let x : Shadow := ⟨1, 0, 2, 1, [(0, 0)], true, false, none, false, some (0, 0, 1), none⟩
    (shadowed x 128).shadow? 1 0 = some (0, x) && x.asked.isNone && x.fault.isNone && x.batch = some (0, 0, 1)) = true := by decide +kernel

/-! ## Witnesses: events of the graphics path -/

/-- One primitive, its fan triangle, a batch that has ended and its held write. -/
def prim1 (projected : Bool) : Prim := ⟨0, 1, [⟨true, [], []⟩, ⟨true, [], []⟩, ⟨true, [], []⟩], none, projected⟩
def tri1 (x : Int) : Tri := ⟨0, 0, 0, 0, [x, x + 256, x], [0, 0, 256], [0, 0, 0], [0, 0, 0], 65536, [], []⟩
def batch1 : Batch := ⟨5, 0, 0, 0, 0, 0, [(0, 0)], 1, true⟩
def blend1 : Blend := ⟨0, 5, 0, 0, 0, 0, 0, 0, 0, 7, none⟩

/-- A state with a frame, strip 0 latched with a CLS_AREA, at a cycle. -/
def showing (fr : Frame) (area cycle : Nat) : State :=
  let s := (drawing (scratch 8192 0)).setFrames [fr]
  (s.modDie 0 fun d => { d with viewSets := d.viewSets.modify 0 fun x => { x with latches := [⟨0, 0, 0, 0, area⟩], latched := [(0, 0)] } }).setCtl { s.ctl with cycle := cycle }

/-- The frame that each clause of the raster path needs. -/
def withTri (x : Int) (shade : Bool) (slots : Nat) : Frame :=
  { frame1 with prims := [prim1 true], tris := [tri1 x], views := [{ view1 with flags := if shade then 1 else 0 }], setupSlots := slots }

/-- A triangle's conditions, and which of the four cases it is in. -/
def triOk (x : Int) (shade : Bool) (area : Nat) (reaches small : Bool) : Bool :=
  let fr := withTri x shade 0
  let s := showing fr area 0
  s.frame? 10 = some fr && fr.fault.isNone && (tri1 x).delivered = [] && (fr.area 0 0).strip = some 0 && !(fr.area 0 0).over 0 && (s.latchOf fr 0 0).isSome && fr.queued = [] &&
    s.engineTurn 0 (rasterEngine 0) 1 (s.rasterWaiting 0) && match s.warpOf fr 0 0 with
    | some p => (tri1 x).reaches p 0 == reaches && (!reaches || (tri1 x).small p 0 area == small) &&
      (!(reaches && small) || let u := s.engineServe 0 (rasterEngine 0) 1 true
        (u.deliverSmall fr (tri1 x) 0 0 ≠ u && (u.deliverSmall fr (tri1 x) 0 0).frames.all fun y => y.fault.isNone))
    | none => false

theorem witness_GraphicsEventsComplete : (triOk 100000 false 0 false false && triOk 0 false 100 true true && triOk 0 false 0 true false && triOk 0 true 0 true false) = true := by
  decide +kernel

theorem witness_GraphicsEventsComplete_path :
    ((let s := latched false (showing frame1 0 0)
      view1.startOf 0 ≤ s.viewClock frame1 && (s.latchOf frame1 0 0).isNone && decide (0 < view1.nstrips)) &&
     [0, 4].all (fun n => let fr := { frame1 with prims := [prim1 false], primSlots := n }
       let s := showing fr 0 0
       (fr.prims.find? fun p => p.pid = 0) = some (prim1 false) && fr.fault.isNone && !s.meshletOpen fr (prim1 false) && (decide (fr.primSlots ≤ fr.recordsUsed) == decide (n = 0)) &&
         isOk (s.pokeVa (s.rasterAgent fr) fr.primRing (prim1 false).bytes)) &&
     (let fr := { withTri 100000 false 0 with meshDone := true }
      fr.ends = [] && (fr.views.any fun w => 0 < w.nstrips) && (showing fr 0 0).stripDelivered fr 0) &&
     (let fr := { frame1 with areas := [] }
      let s := showing fr 0 0
      s.nextStrip fr (fr.area 0 0) (List.range view1.nstrips) = some 0 && (fr.pool (fr.area 0 0).core).isSome && (fr.area 0 0).strip.isNone && (s.warpOf fr 0 0).isSome) &&
     (let fr := { frame1 with meshDone := true, batches := [batch1], blends := [blend1] }
      (showing fr 0 0).mayRetire fr blend1) &&
     (let frame1 := { frame1 with meshDone := true }
      let s := (showing frame1 0 0).setOuts [outstanding (.tret 10 0 0 0) 1]
      (frame1.area 0 0).strip = some 0 && (s.warpOf frame1 0 0).isSome && s.tileComplete frame1 ⟨0, 0, 0⟩ && s.groups.any fun g => g.gid = 3 && !s.farBusy g) &&
     (let o : EgrOp := ⟨1, 10, 0, 0, 0, 0, 1, 0, false, none, false, none⟩
      let s := (showing frame1 0 0).modStream 1 3 fun x => { x with ops := [o] }
      (s.ctx? 1).any (fun c => c.streams[3]?.any fun x => x.ops = [o]) && view1.frameNoDone && s.egressReady o && s.engineTurn 0 selvedge 1 (s.egressWaiting 0)) &&
     (let s := withC ((showing frame1 0 1000000).setMem paged.mem) fun c => { c with cls := 0 }
      match s.deadline frame1 0 0 with | .ok (some _) => true | _ => false) &&
     (let fr := { frame1 with meshDone := true, areas := [⟨0, 0, 0, 0, some 0, [0], [0]⟩], ends := [0] }
      let s := showing fr 0 0
      s.launches.any fun l => l.lid = 1 && l.held.isNone && (s.contexts.all fun c => c.streams.all fun x => x.ops.isEmpty) && s.launches.all (fun m => m.lid = l.lid) && (fr.views.mapIdx fun v w => s.viewOver fr v w).all id)) = true := by decide +kernel

/-- A frame behind a full queue; an entry that waits for room; an image that has arrived; an operation without effect whose tile is handed over. -/
theorem witness_GraphicsEventsComplete_waits :
    (let fr := { withTri 0 false 0 with queued := [(0, [])] }
     let s := showing fr 100 0
     fr.queued ≠ [] && fr.fault.isNone && s.frame? 10 = some fr) = true ∧
    ([(false, [], some (7, [])), (true, [0], none)].all fun p =>
      let o : EgrOp := ⟨1, 10, 0, 0, 0, 0, 1, 0, p.1, none, false, p.2.2⟩
      let s := (showing { frame1 with areas := [⟨0, 0, 0, 0, some 0, [], p.2.1⟩] } 0 0).modStream 1 3 fun x => { x with ops := [o] }
      s.egressReady o && (o.arrived.isSome || s.engineTurn 0 selvedge 1 (s.egressWaiting 0))) = true := by decide +kernel

/-! ## Witnesses: events of placement, pre-emption and firmware -/

/-- The launch, the team and the context of the small states are stored under their names. -/
def known (s : State) : Option (Launch × Team × Ctx) :=
  match s.launch? 1, s.team? 2, s.ctx? 1 with
  | some l, some t, some c => if t.lid = 1 && t.ctx = 1 && l.lid = 1 && t.tid = 2 then some (l, t, c) else none
  | _, _, _ => none
def placing (s : State) (e : Launch → Team → Ctx → Bool) : Bool := (known s).any fun p => e p.1 p.2.1 p.2.2

/-- A grid of two teams, the first placed. -/
def two : State := withL base fun l => { l with gx := 2 }

theorem witness_TeamEventsComplete_place : placing two (fun l _ _ =>
    two.mayPlace two.levels l && (two.placeNext l).isSome && two.nextDie l = some 0 && nextTurn (two.die 0).lastLaunch ((two.launches.filter fun m =>
      two.levels.launch m.lid = two.levels.launch l.lid && two.couldPlace two.levels m 0).map (·.lid)) = some l.lid) = true := by
  decide +kernel

/-- A reserved cluster whose four cores have no barrier left. -/
def fullCluster : State :=
  let s := withC base fun c => { c with resv := [0] }
  let s := withT (withL s fun l => { l with kd := { l.kd with nbar := 512 } }) fun t => { t with barriers := List.replicate 512 (Barrier.start 1) }
  s.setTeams (s.teams.flatMap fun t => [t, { t with tid := 11, core := 1 }, { t with tid := 12, core := 2 }, { t with tid := 13, core := 3 }])

/-- A launch of a higher level that finds no room in it. -/
def outbid : State :=
  fullCluster.setLaunches (fullCluster.launches.flatMap fun l => [l, { l with lid := 9, next := 0, prio := 1 }])

/-- An ORDERED grid with a saved team that finds no room in it, while its first team waits in WAITC. -/
def spinning : State :=
  let s := withL fullCluster fun l => { l with gx := 2, next := 2, kd := { l.kd with gflags := 1 } }
  let s := withG s fun g => { g with slot0 := g.slot0.map fun sl => { sl with park := some (.waitc ⟨0, 1, false, [⟨0, 0, 0⟩]⟩ 4) } }
  s.setTeams (s.teams.flatMap fun t => if t.tid = 2 then [{ t with linear := 1 }, { t with tid := 20, place := .saved, clusterNo := 1 }] else [{ t with lid := 8 }])

theorem witness_TeamEventsComplete_request :
    (placing outbid (fun _ _ _ => outbid.launches.any fun m => outbid.starved outbid.levels m && !outbid.askedFor m &&
        (chooseVictim outbid.levels (outbid.victims outbid.levels m) = outbid.team? 2)) &&
     placing spinning (fun _ t _ => spinning.launches.any fun m => spinning.starved spinning.levels m && !spinning.askedFor m &&
        spinning.orderedVictim m = some t)) = true := by
  decide +kernel

/-- The team is asked to stop at cycle 0, and its slot has stopped; the cycle is now 20000. -/
def asked (gflags : Nat) (stopped : Bool) : State :=
  let s := withL (withT base fun t => { t with preempt := some 0 }) fun l => { l with kd := { l.kd with gflags := gflags } }
  let s := withG s fun g => { g with slot0 := g.slot0.map fun sl => { sl with stop := if stopped then some 0 else none } }
  s.setCtl { s.ctl with cycle := 20000 }

/-- The team saved; and a team of a harvest context on a lent reserved cluster, running, or revoked with some spans lost. -/
def savedTeam : State := (asked 0 true).setTeams ((asked 0 true).teams.map fun t => { t with place := .saved, preempt := none })
def harvested (place : TeamPlace) (lost : List Nat) : State :=
  let s := withT (withC base fun c => { c with cls := 3 }) fun t => { t with harvest := true, place := place, lost := lost, pad := 77 }
  let c := (s.ctx? 1).map fun c => { c with ctxid := 2, cls := 1, resv := [0], lend := 96 }
  (s.setContexts (s.contexts ++ c.toList)).addPad ⟨77, 0, 0, 0, 4096, []⟩
/-- The same core with an EXCLUSIVE launch on it. -/
def excluded : State :=
  let s := harvested .running []
  s.setLaunches (s.launches.flatMap fun l => [l, { l with lid := 9, ctx := 2, lflags := 8, cores := [0] }])

theorem witness_TeamEventsComplete_save : (placing (asked 0 true) (fun _ t c => let s := asked 0 true; let us := s.unitOf t
      t.place = .running && s.unitStopped us && s.unitDrained us && s.imagesFit c us) &&
    [0, 2].all (fun k => placing (asked k false) fun l t c => let s := asked k false; let us := s.unitOf t
      t.preempt = some 0 && t.place = .running && 0 + 20000 ≤ s.clock (coreDie t.core) && !s.unitHalted c us && l.kd.gflags / 2 % 2 = k / 2 &&
        ((us.foldl (fun (s : State) u => s.killTeam u .replay) s).launch? l.lid).isSome) &&
    placing savedTeam (fun l t c => let s := savedTeam
      t.place = .saved && !l.killed && s.underLimit l (s.unitOf t).length && !s.evictedYet (s.unitOf t) && !s.outranked s.levels l true &&
        (s.resumeUnit c l (s.unitOf t)).any fun u => (u.team? t.tid).any fun x => s.launchTurn s.levels (s.levels.launch l.lid) (coreDie x.core) == some l.lid)) = true := by
  decide +kernel

theorem witness_TeamEventsComplete_harvest : (placing excluded (fun _ t _ => t.harvest && t.place = .running && excluded.mustRevoke t) &&
    placing (harvested .revoked []) (fun l t _ => let r := (harvested .revoked []).reapPads
      r.mayReturn l (r.unitOf t) && (r.unitOf t).all fun u => u.lost = []) &&
    placing (harvested .revoked [0]) (fun l t _ => let r := (harvested .revoked [0]).reapPads
      r.mayReturn l (r.unitOf t) && ((r.unitOf t).any fun u => u.lost ≠ []) && (r.unitOf t).all fun u => r.forwarded u && (r.groupsOf u.tid).all r.issuedDone)) = true := by
  decide +kernel

theorem witness_TeamEventsComplete_drained : [LaunchKind.grid, .meshlets 10, .fragment 10 5].all (fun k =>
    let s := withT (withL (drawing base) fun l => { l with kind := k }) fun t => { t with place := .gone }
    placing s fun l _ _ => !l.killed && l.held.isNone && s.launchDrained l && (s.frame? 10).isSome) = true := by
  decide +kernel

/-- Group 3 trapped at its first word, at a phase, its die's firmware told of it. -/
def trapped (code aux : Nat) (phase : TrapPhase) (s : State) : State :=
  (withG s fun g => { g with phase := phase, trap := ⟨code, aux, 0, 0x10000, 0x10100, 1⟩ }).modDie 0 fun d => { d with notices := [3] }

/-- The trapped group of a state. -/
def byGroup (s : State) (e : Group → Bool) : Bool := (s.group? 3).any fun g => s.mayHandle g && g.gid = 3 && e g

/-- A group with a task in a pool that has RESTART, whose FAULTCNT is 0. -/
def tasking (phase : TrapPhase) : State :=
  let s := trapped 0x09 0 phase (withG (tasked 3 1 0) fun g => { g with task := some 0x10100 })
  s.setMem (Memory.write s.mem 0x10248 (bytesOf 1 4))

/-- A group whose MMAZ names tile 4, which another context owns. -/
def denied : State :=
  let s := trapped 0x0D 4 .notified (base.setMem (Memory.write [] 0x10000 (bytesOf 0b0_0_11100001_000101_010010_010100_1_011 4)))
  s.modCluster 0 fun c => { c with tiles := c.tiles.set 4 { Tile.reset with owner := some 9 } }

theorem witness_FirmwareEventsComplete :
    (base.frag?.any (fun f => !f.g.fw && coreDie f.g.core < base.dies.length &&
        (match decodeWord 0 0 with | .error .unassigned => true | _ => false) && (match decodeWord 0b0_0_00100000_010000_010001_010010_0001#32 0 with | .error .badField => true | _ => false) &&
        (match base.fetchWord f.g (0x20000#64).toNat with | .error k => k = 8 | .ok _ => false)) &&
     base.groups.all (fun h => !h.fw) &&
     (withG firm fun g => { g with slot0 := g.slot0.map fun sl => { sl with park := some (.halt 4) } }).groups.any (fun h =>
       h.fw && coreDie h.core = 0 && h.slot1.isNone && h.slot0.any fun sl => sl.park = some (.halt 4) && sl.stop.isNone) &&
     [(0x02, TrapPhase.notified), (0x08, .declined)].all (fun p => let s := trapped p.1 0 p.2 base
       (s.groups.find? fun h => !h.fw && s.ctxIdOf h = 1 && (h.phase = .declined || (h.phase = .notified && s.byTable h && s.killsFor h))).isSome) &&
     byGroup (trapped 0x08 0 .repaired base) (fun g => g.phase = .repaired) &&
     [0x08, 0x12, 0x11].all (fun c => byGroup (trapped c 0 .notified base) fun g => g.phase = .notified && (trapped c 0 .notified base).byTable g && g.trap.code = c) &&
     (let s := trapped 0x09 4 .notified (withL base fun l => { l with kd := { l.kd with gflags := 4 } })
      byGroup s fun g => g.phase = .notified && s.byTable g && s.restarts g && s.issuedDone g)) = true := by decide +kernel

theorem witness_FirmwareEventsComplete_tasks :
    (byGroup (tasking .notified) (fun g => let s := tasking .notified
       g.task = some 0x10100 && s.issuedDone g && g.phase = .notified && (match s.underRestart g with | .ok true => true | _ => false) &&
         (s.markFaulted g 0x10100).2.1.isNone) &&
     byGroup (tasking .taskRepaired) (fun g => let s := tasking .taskRepaired
       g.task = some 0x10100 && s.issuedDone g && g.phase = .taskRepaired && match s.repostTask g 0x10100 with | .ok _ => true | .error _ => false) &&
     [0, 1].all (fun k => let s := (tasking (.taskPosting 7)).setOuts [{ outstanding (.post ⟨0x10100, [], none, none, 0, 0, 1, 0, none⟩) k with gid := 0 }]
       byGroup s fun g => g.task = some 0x10100 && s.issuedDone g && g.phase = .taskPosting 7 && (s.out? 7).any fun r => r.left = k) &&
     byGroup denied (fun g => let s := denied; let ts := s.trapTiles g
       ts = [5] && g.phase = .notified && g.trap.code = 0x0D && (s.die (coreDie g.core)).notices.find? (s.wantsTile 0 ts) = some g.gid && s.gangs.all (fun x => x.cluster ≠ 0) &&
         ((ts.foldl (fun (s : State) t => s.transferTile (s.ctxIdOf g) (coreCluster g.core) t) s).group? g.gid).isSome)) = true := by decide +kernel

/-! ## Witnesses: queues and packets -/

/-- Bytes written at addresses, from last to first. -/
def laid (m : Memory) (xs : List (Nat × List Byte)) : Memory := xs.foldr (fun p m => Memory.write m p.1 p.2) m

/-- A queue of four slots at 0x200000 of context 1 on die 0. -/
def queue1 : Queue :=
  { qid := 0, die := 0, ring := 0x200000, ridxAddr := 0x201000, widxAddr := 0x201008, notify := 0x201010, log2sz := 8, prio := 0, cls := 1, state := 1,
    asid := 0, qflags := 1, ctxid := 1, errrec := 0x201040, ridx := 0, awake := true, indirect := none, waiting := none, held := none, repaired := false, idleSince := 0 }

/-- A packet: its header and body. -/
def packet (op : Nat) (body : List (Nat × List Byte)) : List Byte :=
  bytesOf (ofBytes (Memory.read (laid [] ((0, [1, BitVec.ofNat 8 op]) :: body)) 0 64)) 64

/-- The queue with a packet at its first slot; a kernel of one ANY group with 4096 bytes at 0x202000; a view set of one view at 0x203000, its egress
target at 0x204000, its small-triangle queues at 0x205000. -/
def withPacket (p : List Byte) : State :=
  let x := (0, 256) :: List.replicate 7 (16, 0)
  let knots : List Byte := x.flatMap fun k => bytesOf k.1 2 ++ bytesOf k.2 2
  (paged.setMem (laid paged.mem [(0x200000, p), (0x202000, bytesOf 1 4 ++ [1, 0, 0, 15] ++ bytesOf 3 4 ++ bytesOf 4096 4),
    (0x203000, bytesOf 1 4 ++ bytesOf 1 4 ++ bytesOf 1 8 ++ bytesOf 0x206000 8 ++ bytesOf 4 4 ++ bytesOf 4 4 ++ bytesOf 0x207000 8 ++ bytesOf 0x205000 8 ++ bytesOf 0x202000 8),
    (0x203140, bytesOf 16 2 ++ bytesOf 16 2 ++ bytesOf 1 2 ++ bytesOf 1 2 ++ bytesOf 0 4 ++ bytesOf 1 1), (0x203160, bytesOf 0x204000 8),
    (0x203180, knots ++ knots), (0x2031C8, bytesOf 1000 4),
    (0x204000, bytesOf 0x100 8 ++ bytesOf 0x208000 8 ++ bytesOf 1024 8 ++ bytesOf 64 8),
    (0x205020, [4]), (0x205060, [4]), (0x2050A0, [4]), (0x2050E0, [4])])).setQueues [queue1]

/-- A packet in its turn, its header and body good, whose effect succeeds and which can be consumed. -/
def serves (p : List Byte) (op : Nat) (used : List (Nat × Nat)) (effect : State → Packet → Option State) : Bool :=
  let s := withPacket p
  (s.turn 0).any fun x => x.headerOk && x.op = op && x.bodyOk used && (effect (s.tookTurn x.q) x).any fun u => match u.consume x.q.qid with | .ok _ => true | .error _ => false

def effectNone (s : State) (_ : Packet) : Option State := some s
def effectDispatch (s : State) (p : Packet) : Option State :=
  if p.launchOk && p.f 6 1 ≤ 4 && p.f 0x28 8 % 4096 = 0 then match s.packetKernel p (p.f 8 8) with
    | .ok (s1, k) =>
      let l := p.launch s1.ctl.nextId .grid k (p.f 6 1) (16 * (p.f 0x24 2 + 1)) (p.f 0x26 2) (p.f 0x28 8)
      if gridOk p.c k l.total l.clsize then some ((s1.setCtl { s1.ctl with nextId := s1.ctl.nextId + 1 }).startLaunch l) else none
    | .error _ => none
  else none
def effectFrame (s : State) (p : Packet) : Option State :=
  if p.launchOk && p.f 7 1 < 16 && p.f 0x24 2 ≤ 15 && p.f 0x28 8 % 256 = 0 then match s.packetKernel p (p.f 8 8) with
    | .ok (s1, k) =>
      let s2 := s1.setCtl { s1.ctl with nextId := s1.ctl.nextId + 2 }
      let l := p.launch s1.ctl.nextId (.meshlets (s1.ctl.nextId + 1)) k 0 0 0 0
      if gridOk p.c k l.total 0 && l.total * k.ngroups < 2 ^ 25 then match s2.readFrame p (p.f 0x28 8) with
        | .ok (s3, fr) => some ((s3.startLaunch l).startFrame { fr with fid := s1.ctl.nextId + 1, lid := s1.ctl.nextId } l.prio)
        | .error _ => none
      else none
    | .error _ => none
  else none
def effectPool (s : State) (p : Packet) : Option State :=
  match s.pokeVa p.ag (p.f 8 8 + 0x40) (bytesOf (p.f 0x10 8) 8 ++ bytesOf (p.f 0x18 4) 4 ++ bytesOf 0 4) with | .ok u => some u | .error _ => none

theorem witness_PacketsComplete_served : (serves (packet 0 []) 0 [] effectNone &&
    serves (packet 1 [(8, bytesOf 0x202000 8), (0x18, bytesOf 1 4)]) 1 [(4, 60)] effectDispatch &&
    serves (packet 2 [(8, bytesOf 0x202000 8), (0x28, bytesOf 0x203000 8)]) 2 [(4, 2), (7, 29), (0x24, 2), (0x28, 24)] effectFrame &&
    serves (packet 6 [(8, bytesOf 0x209000 8), (0x10, bytesOf 3 8)]) 6 [(8, 20)] effectPool &&
    serves (packet 7 [(8, bytesOf 15 4), (0xC, bytesOf 0x8001 2)]) 7 [(8, 6), (0x10, 8)] (fun s p => if p.f 8 4 ≤ 15 then some s else none) &&
    serves (packet 8 [(8, [6, 6]), (0xC, bytesOf 1 4), (0x10, [16])]) 8 [(8, 2), (0xC, 5)]
      (fun s p => if p.q.qflags % 2 = 1 && p.f 8 1 + p.f 9 1 ≤ 12 && p.f 0x10 1 ≤ 16 then some s else none)) = true := by decide +kernel

/-- The queue waits in a packet. -/
def waitingIn (p : List Byte) : State := (withPacket p).setQueues [{ queue1 with awake := false, waiting := some p }]

theorem witness_PacketsComplete_waits :
    ([(3, [(8, 40), (0x38, 8)]), (5, [(8, 16)])].all (fun o => ((withPacket (packet o.1 [(8, bytesOf 0x201080 8)])).turn 0).any fun p =>
       p.headerOk && p.op = o.1 && p.bodyOk o.2 && p.f (if o.1 = 3 then 0x38 else 8) 8 % 8 = 0) &&
     ((withPacket (packet 4 [(8, bytesOf 0x20A000 8), (0x10, bytesOf (2 ^ 24) 4)])).turn 0).any (fun p =>
       p.headerOk && p.op = 4 && p.q.indirect.isNone && p.bodyOk [(8, 12)] && p.f 8 8 % 64 = 0 && p.f 0x10 4 % 64 = 0 && p.f 0x10 4 ≤ 2 ^ 24) &&
     ((withPacket (packet 9 [])).turn 0).any (fun p => 9 ≤ p.op) &&
     [3, 5].all (fun o => ((waitingIn (packet o [(8, bytesOf 0x201080 8)])).waitingPacket 0).any fun p =>
       (waitingIn (packet o [(8, bytesOf 0x201080 8)])).waitState p = .met && p.op = o && p.q.held.isNone) &&
     (let s := (withPacket []).setMsys { base.msys with monitors := [⟨.packet 0, none, 0x200000, 8, true⟩, ⟨.notify 0, none, 0x201010, 8, true⟩] }
      s.msys.monitors.any (fun m => m.isPacket 0 && m.fired) && s.msys.monitors.any (fun m => m.isNotify 0 && m.fired) &&
        !s.noRoom 0 && (s.queue? 0).any fun q => q.state ≤ 1)) = true := by decide +kernel

/-! ## Witnesses: the host and other modules -/

/-- Both dies run firmware. -/
def running (s : State) : State := s.setDies (s.dies.map fun d => { d with boot := 3 })
def event1 : Event := ⟨3, 0, 1, 0, 0⟩
/-- An event waits on die 0; the ring is off, on, or full; events are held, or none. -/
def evented (ctl widx : Word) (held : List (Nat × Event)) : State :=
  let s := (running State.reset).modDie 0 fun d => { d with raised := [event1] }
  (s.setHost { s.host with eqctl := ctl, eqwidx := widx }).setEvents { s.events with held := held }

/-- A host that has laid an image of 8 KiB with a good header at host memory 0x1000. -/
def imageLaid : State :=
  let s := State.reset.modDie 1 fun d => { d with boot := 1 }
  (s.setHost { s.host with bootaddr := 0x1000, bootlen := 0x2000 }).setMem
    (Memory.write [] (hostPa 0x1000) (bytesOf 0x4B4C5A4E 4 ++ bytesOf 1 4 ++ bytesOf 0x40 4 ++ bytesOf 0x800 4 ++ bytesOf 0x1800 4))

theorem witness_HostEventsComplete_image : ((imageLaid.die 1).boot = 1 && imageLaid.imageOk imageLaid.bootImage) = true := by decide +kernel

theorem witness_HostEventsComplete :
    (plainRange 0x100000000000 64 && plainRange 0x7735940000 0 && !State.reset.host.mbxgo &&
     (let s := running State.reset; !s.host.mbxgo && s.booted 0 && s.booted 1 && (1#64).getLsbD 0) &&
     (List.range 2).all (fun d => (State.reset.die d).boot ≠ 1 && (State.reset.die d).boot ≠ 2) &&
     State.reset.dies.length = 2 && (let s := State.reset.modDie 1 fun d => { d with boot := 1 }
      (s.die 1).boot = 1 && !s.imageOk s.bootImage) &&
     [(0, false), (0x81, true)].all (fun p => [true, false].all fun w => let s := (State.reset.modDie 1 fun d => { d with boot := 2, wakeHeld := w }).modDie 0 fun d => { d with boot := p.1 }
      (s.die 1).boot = 2 && (s.die 1).wakeHeld = w && decide (0x80 ≤ (s.die 0).boot) = p.2) &&
     [evented 0 0 [], evented 0x80000004 15 [], evented 0x80000004 16 [], evented 0x80000004 0 [(0, event1)]].all (fun s => (s.die 0).raised = [event1] && s.booted 0) &&
     !(evented 0 0 []).host.eqOn && (evented 0x80000004 15 []).host.eqOn && !(evented 0x80000004 15 []).host.eqFull && (evented 0x80000004 16 []).host.eqFull &&
     (let s := evented 0x80000004 0 [(0, event1)]
      s.events.held ≠ [] && s.host.eqOn && !s.host.eqFull && (s.events.held.filter fun h => h.2.die = 0).length < 256) &&
     remoteBase ≤ modulePa State.reset 1 (0x40 / 64 * 64)) = true := by decide +kernel

/-- A request at host memory 0x1000 for a reply at 0x2000: OP, RLEN, body. -/
def mailed (s : State) (op : Nat) (body : List Byte) : State :=
  let h := bytesOf op 2 ++ bytesOf 0 2 ++ bytesOf body.length 4 ++ bytesOf 77 8 ++ bytesOf 0x2000 8 ++ bytesOf 8192 4 ++ bytesOf 0 4
  ((running s).setHost { s.host with mbxgo := true, mbxreq := 0x1000 }).setMem (Memory.write s.mem (hostPa 0x1000) (h ++ body))

/-- A request that is ready, clean and good, of an OP whose action on it succeeds. -/
def mailOk (s : State) (op n : Nat) (used : List (Nat × Nat)) (act : State → MailReq → MailAct) : Bool :=
  let r := s.mailReq
  s.mailReady (· = op) && 32 + n ≤ r.rlen && r.clean && r.bodyOk used && match act (s.setHost { s.host with mbxgo := false }) r with | .ok _ => true | .error _ => false

def contextBody : List Byte :=
  [1, 0] ++ bytesOf 9 2 ++ bytesOf 0 4 ++ bytesOf 0x100000 8 ++ bytesOf 0x400000 8 ++ bytesOf 0x200000 8 ++ bytesOf 3 8 ++ bytesOf 0 8 ++ bytesOf 96 4 ++ bytesOf 1 4 ++ bytesOf 0 8

theorem witness_MailboxComplete : (mailOk (mailed base 1 contextBody) 1 4
      [(0, 1), (2, 2), (8, 8), (0x10, 8), (0x18, 8), (0x20, 8), (0x28, 8), (0x30, 1), (0x34, 4), (0x38, 8)] State.createContext &&
    mailOk (mailed base 2 (bytesOf 1 4)) 2 0 [(0, 4)] State.destroyContext &&
    mailOk (mailed base 3 (bytesOf 1 4 ++ [1, 15, 12, 1] ++ bytesOf 0x1000 8)) 3 4 [(0, 4), (4, 1), (5, 1), (6, 1), (7, 1), (8, 8), (0x10, 8), (0x18, 8), (0x20, 8), (0x28, 8)]
      State.createQueue &&
    (let s := mailed (withPacket []) 4 (bytesOf 0 4)
     mailOk s 4 0 [(0, 4)] (fun s r => match s.queue? (r.f 0 4) with | none => .error 4 | some q => .ok (s.removeQueue q, []))) &&
    mailOk (mailed ((withPacket []).setQueues [{ queue1 with state := 2 }]) 5 (bytesOf 0 4 ++ [1])) 5 8 [(0, 4), (4, 1)] State.enableQueue &&
    mailOk (mailed (base.setEvents { base.events with waiting := [⟨1, 0x30000, none, 3⟩] }) 6 (bytesOf 1 4 ++ bytesOf 0 4 ++ bytesOf 0x30000 8)) 6 0 [(0, 4), (4, 1), (8, 8)]
      (fun s r => if s.events.waiting.filter (fun w => w.ctx = r.f 0 4 && w.addr = r.f 8 8) = [] then .error 4 else .ok (s, [])) &&
    (let s := mailed base 7 (bytesOf 9 2 ++ [3])
     !s.shootdownBusy ⟨0, s.mailReq.f 2 1, s.mailReq.f 0 2, s.mailReq.f 8 8, none⟩ && mailOk s 7 0 [(0, 2), (2, 1), (8, 8)] (fun s _ => .ok (s, []))) &&
    mailOk (mailed base 8 (List.replicate 32 5)) 8 5517 [(0, 32)] (fun s _ => .ok (s, [])) &&
    [0, 9].all fun op => (mailed base op []).mailReady (fun k => k = 0 || 8 < k)) = true := by decide +kernel

/-! ## Witnesses: the machine as a whole -/

/-- The next turn is an issue slot's, whose word is an ADD with a LIT before it; and an event's. -/
def toIssue : State := (base.setMem (Memory.write [] 0x10000 (bytesOf 0x00800000 4 ++ bytesOf 7 4 ++ bytesOf 0x08104800 4))).setCtl { base.ctl with agenda := [.issue 3 0] }

theorem witness_StepRunsDecoded :
    (let s1 := toIssue.setCtl { toIssue.ctl with agenda := [] }
     (s1.group? 3).any fun g => s1.alone g 0 &&
       let s2 := s1.turned g 0
       s2.frag?.any fun f => (match s2.fetchWord f.g f.sl.pc.toNat, s2.fetchWord f.g (f.sl.pc.toNat + 4) with
         | .ok w, .ok x => takesExt (opOf w) && (match decodeWord w x with | .ok (.lit _ v) => v = 7 | _ => false)
         | _, _ => false)) = true ∧ isEvent .reset = true ∧ isEvent (.teamPlace 0) = true := by decide +kernel

/-- Two groups on one issue slot, the second at 0x10040; each word is a NOP but for what `w` puts at 0x10040. -/
def sharing (w : Word) : State :=
  let s := base.setMem (Memory.write (Memory.write [] 0x10000 (bytesOf 0x00400000 4)) 0x10040 (bytesOf w.toNat 4))
  (s.setGroups (s.groups.flatMap fun g => [g, { g with gid := 4, resid := 1, slot0 := some (Slot.at 0x10040 0xFF none) }])).setCtl { s.ctl with agenda := [] }

/-- The second group is next in turn behind the first, and the first behind the second; with neither ready no group is. -/
theorem witness_StepRunsDecoded_shared :
    (let s := sharing 0x00400000
     (s.group? 3).any (fun g => !s.alone g 0 && (s.winner g).any (fun h => h.gid = 4) && s.picks g 0) &&
     (s.group? 4).any (fun g => (s.winner g).any (fun h => h.gid = 4) && s.picks g 0 && ((s.turned g 0).winner g).any fun h => h.gid = 3) &&
     (let t := s.setGroups (s.groups.map fun g => { g with slot0 := g.slot0.map fun sl => { sl with stop := some 1 } })
      (t.group? 3).any fun g => !t.alone g 0 && (t.winner g).isNone)) = true := by decide +kernel

theorem witness_DecodeEncode : encode (.nop m0) = [0x00400000] ∧ encode (.lit m0 5) ≠ [] ∧ encode .reset = [] ∧ encode (.notAnInstruction 0) = [] ∧
    decodeWord 0x00400000 0 = .ok (.nop m0) := by decide +kernel

theorem witness_MemoryStaysCanonical : ((match step toIssue with | .next _ => true | _ => false) && toIssue.mem.wf && toIssue.pads.all fun p => p.bytes.wf) = true := by
  decide +kernel

/-- How a gate answers in a state; which of its conditions hold. -/
def gateIs (s : State) (i : Instr) (m : Marks) (n : Need) (x : Gate) (e : Frag → Bool := fun _ => true) : Bool := atTurn s fun f => s.gate f i m n = x && e f

/-- The group with some loads under way. -/
def busyWith (n : Nat) : State := withG base fun g => { g with oscount := n }
/-- The group with an entry in its queue; with a pending register. -/
def withEntry (e : QEntry) : State := withG base fun g => { g with q0 := List.replicate 4 e }
def entry (pend transient : Bool) : QEntry := ⟨List.replicate 64 0, none, pend, transient⟩
def pendingOn (r : Nat) : State := withG base fun g => { g with regs := { g.regs with pend := [r] } }

theorem witness_GateOrder :
    (gateIs (busyWith 1) (.nop ⟨true, false⟩) ⟨true, false⟩ {} .hold && gateIs (busyWith 63) (.nop m0) m0 { late := true } .hold &&
     gateIs (base.modCore 0 fun c => { c with ldcap := 0 }) (.nop m0) m0 { load := true } .hold (fun f => !(base.modCore 0 fun c => { c with ldcap := 0 }).mayLoad f.g) &&
     gateIs base (.nop m0) m0 { role := false } (.trap 0x01) && gateIs base (.nop m0) m0 { priv := true } (.trap 0x0B) &&
     gateIs base (.mov m0 2 16) m0 {} (.trap 0x02) && gateIs base (.nop m0) m0 { legal := false } (.trap 0x02) && gateIs base (.nop m0) m0 { srcs := [⟨30, 1⟩] } (.trap 0x02) &&
     gateIs base (.nop m0) m0 { typed := false } (.trap 0x03) && gateIs base (.mov m0 16 0) m0 { srcs := [⟨0, 1⟩] } (.trap 0x05) (fun f => f.wordTrap 0 = some 0x05) &&
     gateIs (withEntry (entry false true)) (.mov m0 16 3) m0 { srcs := [⟨3, 1⟩] } (.trap 0x06) &&
     gateIs (withEntry (entry false true)) (.mov m0 16 2) m0 { srcs := [⟨2, 1⟩] } .go &&
     gateIs (withEntry (entry true false)) (.mov m0 16 2) m0 { srcs := [⟨2, 1⟩] } (.trap 0x04) &&
     gateIs (pendingOn 16) (.mov m0 16 17) m0 { srcs := [⟨17, 1⟩], dst := some ⟨16, 1⟩ } (.trap 0x04) (fun f => f.wordTrap 16 = some 0x04 && (f.wordTrap 17).isNone)) = true := by decide +kernel

/-- A gate traps an instruction of a group that is not firmware's. -/
def stopsAt (s : State) (i : Instr) (n : Frag → Need) (c : Nat) : Bool :=
  atTurn s fun f => s.gate f i m0 (n f) = .trap c && !f.g.fw && coreDie f.g.core < s.dies.length

theorem witness_TrapsAtIssue : (stopsAt base (.and m0 16 0 17) (needDAB 16 0 17) 0x05 && stopsAt (typed 9) (.add m0 16 17 18) (typedDAB anyType 16 17 18) 0x03 == false &&
    stopsAt (pendingOn 17) (.add m0 16 17 18) (typedDAB anyType 16 17 18) 0x04 && stopsAt base (.div m0 1 17 18) (lateDAB anyType 1 17 18) 0x02 &&
    stopsAt base (.cmp m0 8 16 17 0) (fun f => { typed := condTyped f.g.type 0, srcs := [opnd 16 (typeWords f.g.type)], srcB := some (opnd 17 (typeWords f.g.type)) }) 0x02 &&
    stopsAt base (.xrot m0 16 0 17) (fun f => { srcs := [opnd 0 (typeWords f.g.type)], srcB := some (opnd 17 1), dst := some (opnd 16 (typeWords f.g.type)) }) 0x05 &&
    stopsAt base (.jmpi m0 0) (fun _ => { srcs := [opnd 0 2] }) 0x05 &&
    stopsAt base (.ld32 m0 1 16 0) (fun _ => { srcs := [opnd 16 2], dst := some (opnd 1 1), late := true, load := true }) 0x02 &&
    stopsAt base (.st32 m0 0 16 0) (fun _ => { srcs := [opnd 0 1, opnd 16 2] }) 0x05 &&
    stopsAt base (.madd m0 20 0 22 false 0) (fun _ => { srcs := [opnd 0 2], srcB := some (opnd 22 1), dst := some (opnd 20 1), late := true }) 0x05 &&
    stopsAt base (.mts m0 16 0x100) (fun _ => { priv := true, srcs := [opnd 16 1] }) 0x0B && stopsAt base (.eret m0) (fun _ => { priv := true }) 0x0B &&
    stopsAt base (.qenq m0 20 0 22) (fun _ => { srcs := [opnd 0 2], srcB := some (opnd 22 2), dst := some (opnd 20 2), late := true }) 0x05 &&
    stopsAt (withG base fun g => { g with role := .matrix }) (.cpy m0 20 16 false) (fun f => { role := f.g.role.copies, srcs := [opnd 16 2], dst := some (opnd 20 2), late := true }) 0x01 &&
    stopsAt (withG base fun g => { g with role := .vector }) (.mma m0 0 58 20 0)
      (fun f => { role := f.g.role.matrices, srcs := [opnd 58 2] ++ let nb := base.bRegs f.g (base.fslot f.g 0); if nb = 0 then [] else [opnd 20 nb] }) 0x01 &&
    stopsAt base (.emitp m0 16 17) (fun f => { role := f.g.role.vectors, legal := f.g.meshlet?.isSome, srcs := [opnd 16 1], srcB := some (opnd 17 1) }) 0x02 &&
    atTurn firm (fun f => f.g.fw && firm.gate f (.trap m0 5) m0 {} = .go)) = true := by decide +kernel

/-- A context that traps arithmetic; one with a threshold. -/
def trapping (w : Word) : State := withC (typed w) fun c => { c with trapArith := true, fpxThr := 4 }

/-- An instruction of that context that raises an event in an active lane. -/
def raises (w : Word) (i : Instr) (n : Frag → Need) (v : Frag → Nat → List Nat) (x y : Nat) : Bool :=
  let s := pointing (pointing (trapping w) 2 fun _ => x) 4 fun _ => y
  meets s i m0 n fun f => !f.g.fw && coreDie f.g.core < s.dies.length && s.trapsArith f.g && !f.g.arithSkip.contains f.slot &&
    unionEvents (laneNums.map (v f)) f.active ≠ 0

def pair2 (f : Frag) (l : Nat) : List Nat := [f.src 18 (typeWords f.g.type) l, f.srcB 20 (typeWords f.g.type) l]

theorem witness_ArithmeticEvents :
    ((trapping 6).contexts.all (fun c => (trapping 6).ctx? c.ctxid = some c && c.fpx.length = 20 && c.fired.length = 20 && (c.fpx.all fun v => v < 2 ^ 32)) &&
     raises 6 (.add m0 16 18 20) (typedDAB anyType 16 18 20) (fun f l => (byElem 6 (addElem 6 f.g.round f.g.sat) (pair2 f l)).2) 0x7F7FFFFF 0x7F7FFFFF &&
     raises 6 (.mul m0 16 18 20) (typedDAB anyType 16 18 20) (fun f l => (byElem 6 (mulElem 6 f.g.round f.g.sat) (pair2 f l)).2) 0x7F7FFFFF 0x7F7FFFFF &&
     raises 0 (.div m0 16 18 20) (lateDAB anyType 16 18 20) (fun f l => (byElem 0 (divElem 0 f.g.round f.g.sat) (pair2 f l)).2) 1 0 &&
     raises 0 (.rem m0 16 18 20) (lateDAB anyType 16 18 20) (fun f l => (byElem 0 (remElem 0) (pair2 f l)).2) 1 0 &&
     raises 6 (.cmp m0 1 18 20 2) (fun f => { typed := condTyped f.g.type 2, srcs := [opnd 18 (typeWords f.g.type)], srcB := some (opnd 20 (typeWords f.g.type)) })
       (fun f l => [(compare 6 2 (f.src 18 1 l) (f.srcB 20 1 l)).2]) 0x7FA00000 0) = true := by decide +kernel

/-! ## What well-formedness refuses -/

/-- An ill-formed instruction for each check of WellFormed: codes, field ranges, tiles, scopes, sizes, numbers and pairs of fields. -/
def illFormed : List Instr :=
  [.mov m0 2 16, .mov m0 15 16, .ld64 m0 55 16 0, .jmpi m0 15, .jmpi m0 55, .jmpi m0 63, .st128 m0 13 16 0, .div m0 1 16 17,
   .mad m0 0 16 17 0, .mad m0 1 16 17 0, .mcas64 m0 0 16 18 0, .cmp m0 8 16 17 0, .cmp m0 1 16 17 8, .kand m0 1 8 2, .mma m0 16 58 20 0, .mma m0 4 63 20 0, .mma m0 4 58 56 0,
   .accld m0 16 58 0, .mfree m0 16, .accrd m0 20 5 1 0, .accrd m0 20 4 2 0, .cinv m0 16 9 0, .cinv m0 16 8 2, .fence m0 9 1, .fence m0 8 0, .fence m0 8 4, .ldacq m0 20 16 8 7,
   .strel m0 20 16 8 1, .strel m0 20 16 8 3, .acvt m0 20 16 4, .atst m0 1 16 4, .mfs m0 16 9, .mts m0 16 0x63, .lit ⟨false, true⟩ 0, .setmImm m0 1 10, .setmImm m0 2 0x50,
   .shli m0 16 17 64, .shri m0 16 17 64, .cvt m0 16 17 10, .unpk m0 16 17 2, .xred m0 16 17 6, .xscan m0 16 17 true 6, .qbcst m0 16 17 4, .ddx m0 16 17 2, .brk m0 false 1 0 0x40000,
   .grow m0 0, .grow m0 5, .tlbi m0 16 18 4, .bari m0 16 512, .barw m0 512, .waitc m0 16 18 6, .tlwait m0 16 18 0, .tlwait m0 16 0 5, .tlread m0 16 18 3, .madd m0 20 16 22 true 0,
   .madd m0 20 16 22 false 2, .madd m0 1 16 22 false 0, .tkarm m0 20 16 22 5, .cpym m0 20 16 0, .gang m0 16 3, .tex m0 20 16 18 3, .emitv m0 16 20 0, .emitv m0 16 20 5, .fbrd m0 20 16 18 2,
   .fbwr m0 20 16 18 5, .vote m0 55 1, .vote m0 63 1]

theorem test_ill_formed : illFormed.all (fun i => !i.wellFormed) = true := by decide +kernel

/-- Well-formed instructions beside them. -/
theorem test_well_formed : [Instr.mov m0 1 15, .ld64 m0 54 16 0, .jmpi m0 14, .jmpi m0 62, .st128 m0 12 16 0, .div m0 0 16 17, .mad m0 0 16 17 15, .mad m0 16 16 17 0, .mcas64 m0 20 16 18 15,
    .cmp m0 7 16 17 7, .mma m0 15 62 55 7, .accrd m0 20 4 1 0, .fence m0 8 3, .ldacq m0 20 16 8 6, .strel m0 20 16 8 6, .mfs m0 16 8, .mts m0 16 0x62, .setmImm m0 3 0x49, .shli m0 16 17 63,
    .brk m0 false 1 0 0x3FFFF, .grow m0 4, .barw m0 511, .waitc m0 16 18 5, .tlwait m0 16 18 4, .madd m0 0 16 22 true 1, .cpym m0 20 16 15, .gang m0 16 4, .emitv m0 16 0 0, .emitv m0 16 20 4].all
    Instr.wellFormed = true := by decide +kernel

/-! ## Words that the manual's listings and tables give -/

/-- A word, and the word behind it, decode to an instruction. -/
def decodes (w x : Word) (i : Instr) : Bool := match decodeWord w x with | .ok j => j = i | .error _ => false

/-- The table of R52's examples and the words of the worked programs, one or more for each family. -/
theorem test_listing_words : (decodes 0x00400000 0 (.nop m0) && decodes 0x09140010 0 (.mad m0 20 0 1 0) && decodes 0x09004931 0 (.mad m0 0 18 19 1) &&
    decodes 0xA9154804 0 (.ld32 ⟨true, false⟩ 21 18 4) && decodes 0x03924FF9 0 (.cmpi m0 2 2 19 0x3F9) && decodes 0x00800000 0x3F800000 (.lit m0 0x3F800000) &&
    decodes 0x48165800 0x20030007 (.add ⟨false, true⟩ 22 22 0) && decodes 0x200FFFFB 0 (.bra m0 false 3 0x3FFFB) && decodes 0x0B5B6006 0 (.cvt m0 27 24 6) &&
    decodes 0x00C90100 0 (.setmImm m0 9 0x100) && decodes 0xCE804982 0 (.lea ⟨true, true⟩ 0 18 24 2) && decodes 0x22960001 0 (.mfs m0 22 1) && decodes 0x22000001 0 (.grow m0 1) &&
    decodes 0x20480004 11 (.brk m0 false 2 4 11) && decodes 0x20800000 0 (.join m0) && decodes 0x9AA00170 0 (.xbc ⟨true, false⟩ 32 0 23) && decodes 0x2B409065 0 (.ldacq m0 0 36 6 5) &&
    decodes 0x2EC09201 0 (.waitc m0 36 32 1) && decodes 0x303A51A1 0 (.madd m0 58 20 26 false 1)) = true := by decide +kernel

theorem test_listing_words_units : (decodes 0x30005288 0 (.madd m0 0 20 40 true 0) && decodes 0xB4804940 0 (.tkarm ⟨true, false⟩ 0 18 20 0) && decodes 0x3418EA40 0 (.tkget m0 24 58 36) &&
    decodes 0xB4406000 0 (.tkdone ⟨true, false⟩ 0 24) && decodes 0x37189002 0 (.cpyg m0 24 36 true false) && decodes 0x367A900F 0 (.cpym m0 58 36 15) && decodes 0x379A9800 0 (.cbmrd m0 26 38) &&
    decodes 0x3842E989 0 (.mmaz m0 2 58 24 1) && decodes 0x3845E982 0 (.mma m0 5 58 24 2) && decodes 0x38004002 0 (.gang m0 16 2) && decodes 0x391A0800 0 (.accrd m0 26 2 0 0) &&
    decodes 0x39850000 0 (.mfree m0 5) && decodes 0xB9D65409 0 (.fcvt ⟨true, false⟩ 22 21 true 1) && decodes 0x22C04060 0 (.mts m0 16 0x60) &&
    decodes 0x3C406C00 0 (.late m0 0 27) && decodes 0x3A004122 0 (.tex m0 0 16 18 2) && decodes 0x3E006D22 0 (.egrs m0 0 27 18 2) && decodes 0x3B405150 0 (.emitp m0 20 21) &&
    decodes 0x0B104231 0 (.sel m0 16 16 35 false 1) && decodes 0x2F00F801 0 (.tlwait m0 62 0 1)) = true := by decide +kernel

/-! ## The worked examples of the manual -/

/-- What a step of an instruction leaves, if it goes on. -/
def after (i : Instr) (s : State) (p : State → Bool) : Bool := match exec i s with | .next t => p t | _ => false

/-- Lanes of N4. -/
def lanes4 (s : State) (vs : List Nat) : State := pointing s 4 fun l => vs.getD l 0
/-- The words of the register N`r` in the first lanes. -/
def reads (t : State) (r n : Nat) : List Nat := match t.group? 3 with | some g => (List.range n).map fun l => (g.nLane r l).toNat | none => []

/-- The float scan whose order shows: 2^24, 1, 1, 1 under K1 = lanes 0 to 3 (after R149). -/
def scanned : State := lanes4 (withG (typed 0x106) fun g => { g with regs := { g.regs with k := g.regs.k.set 1 0xF } }) [0x4B800000, 0x3F800000, 0x3F800000, 0x3F800000]

theorem test_xscan : (after (.xscan m0 22 20 false 0) scanned (fun t => reads t 6 5 = [0x4B800000, 0x4B800000, 0x4B800001, 0x4B800001, 0]) &&
    after (.xscan m0 22 20 true 0) scanned (fun t => reads t 6 5 = [0, 0x4B800000, 0x4B800000, 0x4B800001, 0])) = true := by decide +kernel
theorem test_xred : after (.xred m0 22 20 0) scanned (fun t => reads t 6 5 = [0x4B800001, 0x4B800001, 0x4B800001, 0x4B800001, 0]) = true := by decide +kernel

/-- Derivatives over incomplete quads: 1, 3, 2, 7 and 1, 2, 4, 8 under K2 = lanes 0, 2, 3, 4 and 7 (after R152). -/
def quads : State := lanes4 (withG (typed 0x206) fun g => { g with regs := { g.regs with k := g.regs.k.set 2 0x9D } })
  [0x3F800000, 0x40400000, 0x40000000, 0x40E00000, 0x3F800000, 0x40000000, 0x40800000, 0x41000000]

theorem test_ddx : ([0, 1].all fun x => after (.ddx m0 22 20 x) quads fun t => (reads t 6 4 = [0x40A00000, 0, 0x40A00000, 0x40A00000]) && t.groups.any (·.quadFault)) = true := by decide +kernel
theorem test_ddy : after (.ddy m0 22 20 0) quads (fun t => reads t 6 8 = [0x3F800000, 0, 0x3F800000, 0x3F800000, 0, 0, 0, 0]) = true := by decide +kernel

/-- Six F32 values through a slot of FP8-E4M3 with saturation, and back (R361). -/
def converting (vs : List Nat) : State := lanes4 (withL (typed 6) fun l => { l with kd := { l.kd with slots := l.kd.slots.set 1 0x200C6 } }) vs
def lands (t : State) : List Nat := match t.outs with | r :: _ => r.vals.take 6 | [] => []

theorem test_fcvt_enc : after (.fcvt m0 22 20 false 1) (converting [0x3F800000, 0x3E99999A, 0x43FA0000, 0xBA83126F, 0x7FC00000, 0xC0300000])
    (fun t => lands t = [0x38, 0x2A, 0x7E, 0x81, 0x7F, 0xC3] && t.outs.any (fun r => r.kind = .narrow [0, 0, 1, 1]) && t.contexts.any fun c => c.fpx = List.replicate 20 0) = true := by decide +kernel
theorem test_fcvt_dec : after (.fcvt m0 22 20 true 1) (converting [0x38, 0x2A, 0x7E, 0x81, 0x7F, 0xC3])
    (fun t => lands t = [0x3F800000, 0x3EA00000, 0x43E00000, 0xBB000000, 0x7FC00000, 0xC0300000] && t.contexts.any fun c => c.fpx = List.replicate 20 0) = true := by decide +kernel

end Sys2Proof.Tests
end

/-! # Every step goes on (R13, R33, R57)

No arm of the dispatch answers a fault or a refusal: the shapes that meanings share go on whatever stands in them, and each other
meaning is a tree of checks whose every leaf is a next state. A tree is walked from its root, and a leaf is closed where it is met, so that
nothing inside its state is split. -/

section
namespace Sys2Proof.Machine

variable {s : State} {f : Frag} {i : Instr} {m : Marks}

/-- An outcome is a next state: neither a fault nor a refusal. -/
def GoesOn (o : Out) : Prop := ∃ t, o = .next t

theorem goesOn_next (t : State) : GoesOn (.next t) := ⟨t, rfl⟩

/-- An instruction that is held or traps leaves a next state; one that issues goes on if its meaning does. -/
theorem goesOn_issue {n : Frag → Need} {body : Frag → Out} {ext : Nat} (h : ∀ f, GoesOn (body f)) : GoesOn (issue s i m n body ext) := by
  unfold issue
  split
  · exact goesOn_next _
  · split
    · exact goesOn_next _
    · exact goesOn_next _
    · exact h _

/-- An instruction that waits for room goes on if it does once there is room. -/
theorem goesOn_unless {c : Prop} [Decidable c] {t : State} {o : Out} (h : GoesOn o) : GoesOn (if c then .next t else o) := by
  split
  · exact goesOn_next _
  · exact h

/-! ## Results by lane -/

section
variable {n : Frag → Need} {d a b k : Code} {w fmt : Frag → Nat}

theorem goesOn_laneOp {v : Frag → Nat → Nat} : GoesOn (laneOp s i m n d w v) := goesOn_issue fun _ => goesOn_next _

theorem goesOn_laneEventOp {v : Frag → Nat → Nat × List Nat} : GoesOn (laneEventOp s i m n d w fmt v) := goesOn_issue fun _ => goesOn_next _

theorem goesOn_laneLateOp {v : Frag → Nat → Nat × List Nat} : GoesOn (laneLateOp s i m n d w fmt v) := goesOn_issue fun _ => goesOn_next _

theorem goesOn_predOp {v : Frag → Nat → Bool} : GoesOn (predOp s i m n k v) := goesOn_issue fun _ => goesOn_next _

theorem goesOn_compareOp {v : Frag → Nat → Bool × Nat} : GoesOn (compareOp s i m n k v) := goesOn_issue fun _ => goesOn_next _

theorem goesOn_scanOp {op form : Nat} : GoesOn (scanOp s i m d a op form) := goesOn_issue fun _ => goesOn_next _

theorem goesOn_derivOp {axis : Nat} {fine : Bool} : GoesOn (derivOp s i m d a axis fine) := goesOn_issue fun _ => goesOn_next _

end

/-! ## Control and memory -/

section
variable {d a b : Code}

theorem goesOn_jumpOut {ext : Nat} {pc : Addr} : GoesOn (jumpOut s f m ext pc) := by
  unfold jumpOut
  split <;> exact goesOn_next _

theorem goesOn_branchOut {k : BitVec 3} {n : Bool} {target : Addr} {g : Group} : GoesOn (branchOut s f m k n target g) := by
  unfold branchOut
  dsimp only [trapOut]
  repeat' first | with_reducible exact goesOn_next _ | split

theorem goesOn_loadOut {size align : Nat} {acq : Option Nat} {addr : Nat → Nat} : GoesOn (loadOut s f m d size align acq addr) := by
  unfold loadOut
  dsimp only [trapOut, trapLanes]
  repeat' first | with_reducible exact goesOn_next _ | split

theorem goesOn_loadOp {off : BitVec 10} {size : Nat} : GoesOn (loadOp s i m d a off size) := goesOn_issue fun _ => goesOn_loadOut

theorem goesOn_storeOp {off : BitVec 10} {size : Nat} : GoesOn (storeOp s i m d a off size) := by
  refine goesOn_issue fun f => ?_
  dsimp only [trapOut, trapLanes]
  repeat' first | with_reducible exact goesOn_next _ | split

theorem goesOn_localOut {w : Nat} {new : Nat → Nat → Nat} : GoesOn (localOut s f m d a w new) := by
  unfold localOut
  dsimp only [trapOut]
  repeat' first | with_reducible exact goesOn_next _ | split

theorem goesOn_localOp {op w : Nat} : GoesOn (localOp s i m d a b op w) := goesOn_issue fun _ => goesOn_localOut

theorem goesOn_farOut {op size w : Nat} {unsigned nr : Bool} {v c : Nat → Nat} : GoesOn (farOut s f m d a op unsigned size w nr v c) := by
  unfold farOut
  dsimp only [trapOut, trapLanes]
  repeat' first | with_reducible exact goesOn_next _ | split

theorem goesOn_farOpOut {op : Nat} {nr unsigned : Bool} {z : BitVec 2} : GoesOn (farOpOut s i m d a b op nr unsigned z) :=
  goesOn_issue fun _ => goesOn_farOut

theorem goesOn_farThirdOut {c : BitVec 4} {op w : Nat} : GoesOn (farThirdOut s i m d a b c op w) := goesOn_issue fun _ => goesOn_farOut

theorem goesOn_queueOut {enq : Bool} : GoesOn (queueOut s f m d a b enq) := by
  unfold queueOut
  dsimp only [trapOut, trapPairs]
  repeat' first | with_reducible exact goesOn_next _ | split

theorem goesOn_faultOut {late : Frag} {addr : Nat} : GoesOn (faultOut s f late m addr) := by
  unfold faultOut
  dsimp only
  split <;> exact goesOn_next _

/-- A task instruction goes on whatever its work answers: a home fault of that work traps, or is replayed. -/
theorem goesOn_taskOut {late : Frag} {align a : Nat} {body : Agent → TaskTry} : GoesOn (taskOut s f late m align a body) := by
  unfold taskOut
  dsimp only [trapOut]
  repeat' first | with_reducible exact goesOn_next _ | with_reducible exact goesOn_faultOut | split

end

/-! ## Engines -/

section
variable {d a b t : Code} {x : BitVec 3}

theorem goesOn_copyOut {op x : Nat} : GoesOn (copyOut s i m d a op x) := by
  refine goesOn_unless (goesOn_issue fun f => ?_)
  dsimp only [trapOut, trapLanes]
  repeat' first | with_reducible exact goesOn_next _ | split

theorem goesOn_gangOpOut {word : Word} {j : GangInsn} {addr b n : Nat} : GoesOn (gangOpOut s f m word j addr b n) := by
  unfold gangOpOut
  dsimp only [trapOut]
  repeat' first | with_reducible exact goesOn_next _ | split

theorem goesOn_mmaOut {zero : Bool} : GoesOn (mmaOut s i m t a b x zero) :=
  goesOn_unless (goesOn_issue fun _ => goesOn_gangOpOut)

theorem goesOn_accMoveOut {op : Nat} : GoesOn (accMoveOut s i m t a x op) :=
  goesOn_unless (goesOn_issue fun _ => goesOn_gangOpOut)

theorem goesOn_samplerOut {gather : Bool} {x : Nat} : GoesOn (samplerOut s i m d a b gather x) := by
  refine goesOn_unless (goesOn_issue fun f => ?_)
  dsimp only [trapOut, trapLanes]
  repeat' first | with_reducible exact goesOn_next _ | split

theorem goesOn_rayOut {view anyHit : Bool} : GoesOn (rayOut s i m d a b view anyHit) := by
  refine goesOn_unless (goesOn_issue fun f => ?_)
  dsimp only [trapOut, latchOut, State.acceptRay]
  repeat' first | with_reducible exact goesOn_next _ | split

end

/-! ## Packets and the mailbox -/

section
variable {qid op n : Nat} {used : List (Nat × Nat)}

/-- A packet goes on whatever its work answers: an error stops its queue alone. -/
theorem goesOn_packetOut {body : Packet → State → Served} : GoesOn (packetOut s qid op used body) := by
  unfold packetOut
  repeat' first | with_reducible exact goesOn_next _ | split

theorem goesOn_waitOut {ok : Packet → Bool} : GoesOn (waitOut s qid op used ok) := by
  unfold waitOut
  dsimp only
  repeat' first | with_reducible exact goesOn_next _ | split

theorem goesOn_waitEndOut : GoesOn (waitEndOut s qid op) := by
  unfold waitEndOut
  repeat' first | with_reducible exact goesOn_next _ | split

/-- A mailbox request is answered, whatever it asks for. -/
theorem goesOn_mailOut {act : State → MailReq → MailAct} : GoesOn (mailOut s op n used act) := by
  unfold mailOut
  dsimp only
  repeat' first | with_reducible exact goesOn_next _ | split

end

/-! ## The long meanings -/

theorem goesOn_execLit {literal : Word} : GoesOn (execLit m literal s) := by
  unfold execLit
  split
  · exact goesOn_next _
  · dsimp only
    split
    · exact goesOn_next _
    · exact goesOn_issue fun _ => goesOn_next _

theorem goesOn_execTkget {d a b : Code} : GoesOn (execTkget m d a b s) := by
  refine goesOn_issue fun f => ?_
  dsimp only [trapOut]
  repeat' first | with_reducible exact goesOn_next _ | with_reducible exact goesOn_faultOut | split

theorem goesOn_execTkdone {d a : Code} : GoesOn (execTkdone m d a s) := by
  refine goesOn_issue fun f => ?_
  dsimp only
  split
  · exact goesOn_next _
  · exact goesOn_taskOut

theorem goesOn_execCbmrd {d a : Code} : GoesOn (execCbmrd m d a s) := by
  refine goesOn_unless (goesOn_issue fun f => ?_)
  dsimp only [trapOut, trapLanes]
  repeat' first | with_reducible exact goesOn_next _ | split

theorem goesOn_execGang {a : Code} {x : BitVec 4} : GoesOn (execGang m a x s) := by
  unfold execGang
  split
  · exact goesOn_next _
  · refine goesOn_unless (goesOn_issue fun f => ?_)
    dsimp only [trapOut]
    repeat' first | with_reducible exact goesOn_next _ | split

theorem goesOn_execMfree {t : Code} : GoesOn (execMfree m t s) :=
  goesOn_unless (goesOn_issue fun _ => goesOn_gangOpOut)

theorem goesOn_execInvalidate : GoesOn (execInvalidate s) := goesOn_unless goesOn_mailOut

theorem goesOn_execEgrs {d a b : Code} {x : BitVec 4} : GoesOn (execEgrs m d a b x s) := by
  refine goesOn_issue fun f => ?_
  dsimp only [trapOut, latchOut]
  repeat' first | with_reducible exact goesOn_next _ | split

/-! ## The dispatch, the turns, the step -/

/-- Every instruction and every event goes on, in every state. -/
theorem goesOn_exec (i : Instr) (s : State) : GoesOn (exec i s) := by
  cases i with
  -- results by lane
  | mov | movi | addi | andi | ori | xori | shli | shri | sel | classOp | lea | vote | and | andn | or | xor | shl | shr | sar | rol | bfx | bfxs
  | pack2 | fnl | fnr | bfi | popc | clz | ctz | brev | unpk | xrot | xxor | xbc | qswpx | qswpy | qswpd | qbcst => exact goesOn_laneOp
  | add | sub | mul | mulh | mad | min | max | abs | neg | cvt | flr | cel | rnd | frc | bfis => exact goesOn_laneEventOp
  | div | rem | sqrt | rcp | rsq | exp2 | log2 | sin | cos => exact goesOn_laneLateOp
  | kand | kor | kxor | knot | kmov | kany | kall | atst => exact goesOn_predOp
  | cmp | cmpi => exact goesOn_compareOp
  | xred | xscan => exact goesOn_scanOp
  | ddx | ddy => exact goesOn_derivOp
  -- memory, far atomics, queues, tasks
  | ld8 | ld8s | ld16 | ld16s | ld32 | ld64 | ld128 => exact goesOn_loadOp
  | ldacq => exact goesOn_issue fun _ => goesOn_loadOut
  | st8 | st16 | st32 | st64 | st128 => exact goesOn_storeOp
  | aadd | amin | aminU | amax | amaxU | aand | aor | axor | axch | amax64 => exact goesOn_localOp
  | acas => exact goesOn_issue fun _ => goesOn_localOut
  | madd | mmin | mmax | mand | mor | mxor | mxch => exact goesOn_farOpOut
  | mcas | mbim | mpls | mcas64 => exact goesOn_farThirdOut
  | mfcs => exact goesOn_issue fun _ => goesOn_farOut
  | qenq | qdeq => exact goesOn_issue fun _ => goesOn_queueOut
  | tkarm | tkpost => exact goesOn_issue fun _ => goesOn_taskOut
  | tkdone => exact goesOn_execTkdone
  | tkget => exact goesOn_execTkget
  -- engines
  | cpy | cpym | cpys | cpyt | cpyg | cpyx =>
    dsimp only [exec, execCpy, execCpym, execCpys, execCpyt, execCpyg, execCpyx]
    exact goesOn_copyOut
  | cbmrd => exact goesOn_execCbmrd
  | gang => exact goesOn_execGang
  | mma | mmaz => exact goesOn_mmaOut
  | accld | accst => exact goesOn_accMoveOut
  | mfree => exact goesOn_execMfree
  | tex | texg => exact goesOn_samplerOut
  | ray | rayq => exact goesOn_rayOut
  | egrs => exact goesOn_execEgrs
  -- packets and the mailbox
  | nopPacket | dispatch | frame | taskPool | gaze | cacheClass => exact goesOn_packetOut
  | barrierAnd | timelineWait => exact goesOn_waitOut
  | barrierAndSatisfied | timelineWaitSatisfied => exact goesOn_waitEndOut
  | createContext | destroyContext | createQueue | destroyQueue | enableQueue | faultReply | attest =>
    dsimp only [exec, execCreateContext, execDestroyContext, execCreateQueue, execDestroyQueue, execEnableQueue, execFaultReply, execAttest]
    exact goesOn_mailOut
  | invalidate => exact goesOn_execInvalidate
  -- control
  | lit => exact goesOn_execLit
  | bra => exact goesOn_issue fun _ => goesOn_branchOut
  | ret | jmpi => exact goesOn_issue fun _ => goesOn_jumpOut
  | call =>
    refine goesOn_issue fun f => ?_
    dsimp only
    split
    · exact goesOn_next _
    · exact goesOn_branchOut
  -- the other words: one effect behind the checks of issue, or a tree of more checks
  | nop | setmImm | getm | yield | exit | trap | mfs | mts | cinv | cwb | tlbi | fcvt | mburst | emitv => exact goesOn_issue fun _ => goesOn_next _
  | grow | fence | srpost | srwait =>
    refine goesOn_issue fun f => ?_
    repeat' first | with_reducible exact goesOn_next _ | split
  | setmReg | brk | join | eret | halt | rgrel | strel | acvt | bari | bara | barw | barx | srtake | waitc | tlwait | tlread | qpost
  | accrd | emitp | fbrd | fbwr | tret | late | rgrp =>
    refine goesOn_issue fun f => ?_
    dsimp only [trapOut, trapLanes, trapPairs, latchOut]
    repeat' first | with_reducible exact goesOn_next _ | split
  -- events: results, requests at homes, walks
  | longLatencyResultReturn | farAtomicPerform | requestCombine | combiningStageExit | replySplit | homeFaultReplay | pageWalkComplete
  | shootdownComplete =>
    dsimp only [exec, execLongLatencyResultReturn, execFarAtomicPerform, execRequestCombine, execCombiningStageExit, execReplySplit,
      execHomeFaultReplay, execPageWalkComplete, execShootdownComplete]
    repeat' first | with_reducible exact goesOn_next _ | split
  -- events: waits, growth, task pools, beaters
  | waitcWatchFire | waitcPoll | growGrant | ldcapWindowEnd | tkgetWake | taskEnqueueRetry | beaterBatch | beaterAgeTimeout =>
    dsimp only [exec, execWaitcWatchFire, execWaitcPoll, execGrowGrant, execLdcapWindowEnd, execTkgetWake, execTaskEnqueueRetry,
      execBeaterBatch, execBeaterAgeTimeout]
    repeat' first | with_reducible exact goesOn_next _ | split
  -- events: teams and launches
  | preemptRequest | teamSave | preemptTimeout | teamResume | harvestRevoke | harvestResume | teamPlace | launchComplete | frameComplete
  | contextTeardown =>
    dsimp only [exec, execPreemptRequest, execTeamSave, execPreemptTimeout, execTeamResume, execHarvestRevoke, execHarvestResume, execTeamPlace,
      execLaunchComplete, execFrameComplete, execContextTeardown]
    repeat' first | with_reducible exact goesOn_next _ | split
  -- events: traps and repairs
  | firmwareTrapResume | groupRestart | taskFaultRepost | accOwnerSpill | wakeEvent | engineFault | engineFaultResume | notAnInstruction
  | instructionFetchFault =>
    dsimp only [exec, execFirmwareTrapResume, execGroupRestart, execTaskFaultRepost, execAccOwnerSpill, execWakeEvent, execEngineFault,
      execEngineFaultResume, execNotAnInstruction, execInstructionFetchFault]
    repeat' first | with_reducible exact goesOn_next _ | split
  -- events: queues
  | queueNotify | packetSlotWatch | scannerRescan | indirect | unknownPacketOpcode | unknownMailboxOp =>
    dsimp only [exec, execQueueNotify, execPacketSlotWatch, execScannerRescan, execIndirect, execUnknownPacketOpcode, execUnknownMailboxOp]
    repeat' first | with_reducible exact goesOn_next _ | split
  -- events: engines
  | copyPieceDelivery | copyOpComplete | gangOpComplete | arrayIdleRampdown | mburstHoldExpiry | samplerOpComplete | rayOpComplete =>
    dsimp only [exec, execCopyPieceDelivery, execCopyOpComplete, execGangOpComplete, execArrayIdleRampdown, execMburstHoldExpiry,
      execSamplerOpComplete, execRayOpComplete]
    repeat' first | with_reducible exact goesOn_next _ | split
  -- events: graphics
  | stripLatch | amplifierProject | rasteriseTriangle | stripEndEntries | tileAreaOpen | fbwrRetire | tretComplete | egressArrival | deadlineRule =>
    dsimp only [exec, execStripLatch, execAmplifierProject, execRasteriseTriangle, execStripEndEntries, execTileAreaOpen, execFbwrRetire,
      execTretComplete, execEgressArrival, execDeadlineRule]
    repeat' first | with_reducible exact goesOn_next _ | split
  -- events: host, links, boot, power
  | linkTrain | hostMemoryWrite | hostMemoryRead | eqdropRead | hostRegisterWrite | eventQueuedWrite | eventTake | bootGo | bootFetchComplete
  | reset | powerWindowEnd | thermalSample | requestFromAnotherModule | remoteHomeInvalidation =>
    dsimp only [exec, execLinkTrain, execHostMemoryWrite, execHostMemoryRead, execEqdropRead, execHostRegisterWrite, execEventQueuedWrite,
      execEventTake, execBootGo, execBootFetchComplete, execReset, execPowerWindowEnd, execThermalSample, execRequestFromAnotherModule,
      execRemoteHomeInvalidation]
    repeat' first | with_reducible exact goesOn_next _ | split

/-- A fragment's turn runs the instruction at its PC, if it has one. -/
theorem goesOn_run : GoesOn s.run := by
  unfold State.run
  split
  · exact goesOn_next _
  · exact goesOn_exec _ _

/-- An opportunity is used, passes, or is another's. -/
theorem goesOn_issueTurn {gid slot : Nat} : GoesOn (s.issueTurn gid slot) := by
  unfold State.issueTurn
  split
  case h_1 => exact goesOn_next _
  case h_2 g _ =>
    split
    case isTrue => exact goesOn_run
    case isFalse =>
      split
      case h_1 => exact goesOn_next _
      case h_2 =>
        split
        case isTrue => exact goesOn_run
        case isFalse => exact goesOn_next _

theorem goesOn_take (t : Turn) : GoesOn (s.take t) := by
  cases t with
  | issue gid slot => exact goesOn_issueTurn
  | event i =>
    dsimp only [State.take]
    split
    · exact goesOn_exec i s
    · exact goesOn_next _
  | evict core line => exact goesOn_next _
  | idle n => exact goesOn_next _

/-- Settles O53: a step is a turn, and every turn goes on, since every arm of the dispatch does. -/
theorem everyStepGoesOn : Obligations.EveryStepGoesOn := fun s => goesOn_take (s := s.nextTurn.2) s.nextTurn.1

end Sys2Proof.Machine
end

/-! # A store to the scratchpad (R10, R170, R200, R203, R204)

An access inside the team's allotment is one piece of it; stores of such pieces change one allocation and fire watches, lane after lane;
so each byte is what the last lane that stores there puts, and nothing of the fragment's group has changed before it goes on. -/

section
namespace Sys2Proof.Machine

variable {s t u : State}

theorem length_bytesOf (v n : Nat) : (bytesOf v n).length = n := by simp [bytesOf]

/-! ## Writes of one allocation -/

/-- Two states differ in the bytes of scratchpad allocation `k` and in which watches have fired, at most. -/
def OnlyPad (k : Nat) (s t : State) : Prop :=
  ∃ pads mons, t = (s.setPads pads).setMsys { s.msys with monitors := mons } ∧ ∀ j, j ≠ k → t.pad? j = s.pad? j

theorem onlyPad_refl (k : Nat) : OnlyPad k s s := ⟨s.pads, s.msys.monitors, rfl, fun _ _ => rfl⟩

theorem onlyPad_trans {k : Nat} (h : OnlyPad k s t) (h' : OnlyPad k t u) : OnlyPad k s u := by
  obtain ⟨p1, m1, rfl, h1⟩ := h
  obtain ⟨p2, m2, rfl, h2⟩ := h'
  exact ⟨p2, m2, rfl, fun j hj => (h2 j hj).trans (h1 j hj)⟩

theorem writePad_some {k off : Nat} {bs : List Byte} {p : Pad} (h : s.pad? k = some p) :
    s.writePad k off bs = (s.putPad { p with bytes := Memory.write p.bytes off bs }).setMsys
      { s.msys with monitors := fireMonitors s.msys.monitors (some k) off bs.length } := by
  unfold State.writePad
  rw [h]
  rfl

theorem onlyPad_writePad {k off : Nat} {bs : List Byte} {p : Pad} (h : s.pad? k = some p) : OnlyPad k s (s.writePad k off bs) := by
  have hk : p.pid = k := (pick_some _ h).2
  rw [writePad_some h]
  exact ⟨_, _, rfl, fun j hj => pick_put_ne Pad.pid (hk.trans_ne hj.symm)⟩

theorem pad?_writePad {k off : Nat} {bs : List Byte} {p : Pad} (h : s.pad? k = some p) :
    (s.writePad k off bs).pad? k = some { p with bytes := Memory.write p.bytes off bs } := by
  obtain rfl : p.pid = k := (pick_some _ h).2
  rw [writePad_some h]
  exact pick_put_self Pad.pid (x := { p with bytes := Memory.write p.bytes off bs }) h

/-- Whether a lane's write of `v l` at `off l` covers byte `o`. -/
def writesByte (off : Nat → Nat) (v : Nat → List Byte) (o l : Nat) : Bool := off l ≤ o && o < off l + (v l).length

/-- Writes of lanes one after another change one allocation, and leave in each byte what the last of them that covers it puts there. -/
theorem writePads_last {k : Nat} (off : Nat → Nat) (v : Nat → List Byte) (ls : List Nat) {p : Pad} (h : s.pad? k = some p) (hp : p.bytes.wf = true) :
    let u := ls.foldl (fun s l => s.writePad k (off l) (v l)) s
    OnlyPad k s u ∧ ∃ q, u.pad? k = some q ∧
      ∀ o, q.bytes.byte o = (ls.reverse.find? (writesByte off v o)).elim (p.bytes.byte o) fun l => (v l).getD (o - off l) 0 := by
  induction ls generalizing s p with
  | nil => exact ⟨onlyPad_refl k, p, h, fun _ => rfl⟩
  | cons l ls ih =>
    obtain ⟨hu, q, hq, hb⟩ := ih (pad?_writePad (off := off l) (bs := v l) h) (wf_write (v l) (off l) hp)
    refine ⟨onlyPad_trans (onlyPad_writePad h) hu, q, hq, fun o => ?_⟩
    rw [hb o, List.reverse_cons, List.find?_append]
    cases ls.reverse.find? (writesByte off v o) with
    | some j => rfl
    | none =>
      simp only [Option.elim_none, Option.none_or, List.find?_singleton, byte_write (v l) (off l) hp, writesByte, Bool.and_eq_true, decide_eq_true_eq]
      split <;> rfl

/-! ## Accesses inside the team's allotment -/

variable {g : Group} {p : Pad}

/-- Address `a` and the `n` bytes from it lie in an allotment of `p.len` bytes. -/
def InScratch (p : Pad) (n a : Nat) : Prop := scratchBase ≤ a ∧ a + n ≤ scratchBase + p.len

/-- What the check of a lane's access there finds: it raises nothing and is one piece. -/
def scratchAccess (p : Pad) (n : Nat) (addr : Nat → Nat) (l : Nat) : LaneAccess :=
  ⟨l, addr l, .ok [⟨.pad p.pid (addr l - scratchBase), n⟩], [⟨.pad p.pid (addr l - scratchBase), n⟩]⟩

section
variable {n : Nat} {addr : Nat → Nat} {ls : List Nat}

section
variable (hp : (s.teamOf g).bind (fun t => s.pad? t.pad) = some p) (hlen : p.len ≤ 2 ^ 48) (hn : 0 < n)
include hp hlen hn

theorem decodeAddr_scratch {lane a : Nat} (ha : InScratch p n a) : s.decodeAddr (s.agentOf g) lane a n = some (1, [⟨.pad p.pid (a - scratchBase), n⟩]) := by
  obtain ⟨hlo, hhi⟩ := ha
  have hp' : ((s.team? (s.agentOf g).tid).bind fun t => s.pad? t.pad) = some p := hp
  have hcl : clusterBase = scratchBase + 2 ^ 48 := rfl
  have h56 : ¬ a < 2 ^ 56 := by unfold scratchBase at hlo; omega
  unfold State.decodeAddr
  rw [if_neg h56, if_neg (by omega), if_pos (by omega), hp']
  exact if_pos (by omega)

theorem checkLane_scratch {l : Nat} (ha : InScratch p n (addr l)) : s.checkLane g .wr anyAperture 1 n l (addr l) = scratchAccess p n addr l := by
  unfold State.checkLane State.checkAccess
  rw [if_neg (by simp [Nat.mod_one]), decodeAddr_scratch hp hlen hn ha]
  rfl

theorem checkLanes_scratch (ha : ∀ l ∈ ls, InScratch p n (addr l)) : s.checkLanes g .wr anyAperture 1 n addr ls = ls.map (scratchAccess p n addr) :=
  List.map_congr_left fun l hl => checkLane_scratch hp hlen hn (ha l hl)

end

theorem lanesTrap_scratch (aux : Nat) : lanesTrap aux (ls.map (scratchAccess p n addr)) = none := by
  have hc : laneCodes (ls.map (scratchAccess p n addr)) = [] := by
    unfold laneCodes
    rw [List.filterMap_map]
    exact List.filterMap_eq_nil_iff.2 fun _ _ => rfl
  unfold lanesTrap
  rw [hc]
  rfl

/-- A write to the scratchpad waits for nothing but the group's own loads and far atomics. -/
theorem writeHeld_scratch (hn : s.net.origs = []) (hl : s.loadsOpen g = false) :
    s.writeHeld g ((ls.map (scratchAccess p n addr)).flatMap LaneAccess.pieces) = false := by
  have hm : memLines ((ls.map (scratchAccess p n addr)).flatMap LaneAccess.pieces) = [] := by
    unfold memLines
    rw [List.flatMap_eq_nil_iff, List.flatMap_map]
    intro b hb
    obtain ⟨l, _, hb⟩ := List.mem_flatMap.1 hb
    rw [List.mem_singleton.1 hb]
  have ha : s.lateAhead g [] = false := by
    refine List.any_eq_false.2 fun r _ => ?_
    cases r.kind <;> cases s.group? r.gid <;> simp
  simp [State.writeHeld, State.farPending, State.farReturning, State.farBusy, hn, hl, hm, ha]

/-- The stores of the lanes are writes of the allotment, one lane after another. -/
theorem performStores_scratch (data : Nat → Nat) : s.performStores g n data (ls.map (scratchAccess p n addr)) =
    ls.foldl (fun s l => s.writePad p.pid (addr l - scratchBase) (bytesOf (data l) n)) s := by
  have htake (v : Nat) : (bytesOf v n).take n = bytesOf v n := List.take_of_length_le (length_bytesOf v n).le
  unfold State.performStores
  rw [List.foldl_map]
  congr 1
  funext s l
  exact congrArg (s.writePad p.pid (addr l - scratchBase)) (htake (data l))

end

/-! ## The store -/

variable {f : Frag} {i : Instr} {m : Marks} {d a : Code} {off : BitVec 10} {size : Nat}

theorem sizeBytes_pos (x : Nat) : 0 < sizeBytes x := by
  unfold sizeBytes
  split_ifs <;> omega

/-- A store inside the allotment performs the writes of its lanes and goes on. -/
theorem storeOp_scratch (hp : (s.teamOf f.g).bind (fun t => s.pad? t.pad) = some p) (hr : f.g.relScope = none) (hn : s.net.origs = [])
    (hl : s.loadsOpen f.g = false) (hrun : Runs s f i m { srcs := [opnd d (sizeWords size), opnd a 2] })
    (ha : ∀ l ∈ lanesOf f.writers, InScratch p (sizeBytes size) (f.memAddr a off (sizeBytes size) l)) (hlen : p.len ≤ 2 ^ 48) :
    storeOp s i m d a off size = .next (((lanesOf f.writers).foldl (fun s l => s.writePad p.pid
      (f.memAddr a off (sizeBytes size) l - scratchBase) (bytesOf (f.src d (sizeWords size) l) (sizeBytes size))) s).goOn f m) := by
  unfold storeOp
  rw [issue_go hrun]
  dsimp only
  rw [checkLanes_scratch hp hlen (sizeBytes_pos size) ha, lanesTrap_scratch]
  dsimp only
  rw [writeHeld_scratch hn hl, performStores_scratch]
  simp only [State.noteWrite, hr, Bool.false_eq_true, if_false]

/-- The byte that the last of some lanes with an address inside the allotment leaves, by its address. -/
theorem lastByte_scratch {n o : Nat} {x : Byte} {addr : Nat → Nat} {v : Nat → List Byte} (hv : ∀ l, (v l).length = n) {ls : List Nat}
    (ha : ∀ l ∈ ls, InScratch p n (addr l)) :
    ((ls.reverse.find? (writesByte (fun l => addr l - scratchBase) v o)).elim x fun l => (v l).getD (o - (addr l - scratchBase)) 0) =
      match ls.reverse.find? fun l => addr l ≤ scratchBase + o && scratchBase + o < addr l + n with
      | some l => (v l).getD (scratchBase + o - addr l) 0
      | none => x := by
  have hfind : ls.reverse.find? (writesByte (fun l => addr l - scratchBase) v o) =
      ls.reverse.find? fun l => addr l ≤ scratchBase + o && scratchBase + o < addr l + n := by
    refine List.find?_congr fun l hl => ?_
    obtain ⟨hlo, -⟩ := ha l (List.mem_reverse.1 hl)
    have h1 : addr l - scratchBase ≤ o ↔ addr l ≤ scratchBase + o := by omega
    have h2 : o < addr l - scratchBase + n ↔ scratchBase + o < addr l + n := by omega
    simp only [writesByte, hv, h1, h2]
  rw [hfind]
  cases e : ls.reverse.find? fun l => addr l ≤ scratchBase + o && scratchBase + o < addr l + n with
  | none => rfl
  | some l =>
    obtain ⟨hlo, -⟩ := ha l (List.mem_reverse.1 (List.mem_of_find?_eq_some e))
    have hoff : o - (addr l - scratchBase) = scratchBase + o - addr l := by omega
    simp only [Option.elim_some, hoff]

/-- What a store inside the allotment leaves, for every size. -/
theorem storeOp_scratch_frame (hm : s.memoryOk) (hp : (s.teamOf f.g).bind (fun t => s.pad? t.pad) = some p) (hr : f.g.relScope = none)
    (hn : s.net.origs = []) (hl : s.loadsOpen f.g = false) :
    let n := sizeBytes size
    let w := sizeWords size
    Runs s f i m { srcs := [opnd d w, opnd a 2] } →
    (∀ l ∈ lanesOf f.writers, scratchBase ≤ f.memAddr a off n l ∧ f.memAddr a off n l + n ≤ scratchBase + p.len) → p.len ≤ 2 ^ 48 →
      ∃ t q pads mons, storeOp s i m d a off size = .next t ∧
        let u := (s.setPads pads).setMsys { s.msys with monitors := mons }
        Passes u f m 0 f.g t ∧ u.pad? p.pid = some q ∧ (∀ k, k ≠ p.pid → u.pad? k = s.pad? k) ∧
        ∀ o, q.bytes.byte o =
          match (lanesOf f.writers).reverse.find? fun l => f.memAddr a off n l ≤ scratchBase + o && scratchBase + o < f.memAddr a off n l + n with
          | some l => (bytesOf (f.src d w l) n).getD (scratchBase + o - f.memAddr a off n l) 0
          | none => p.bytes.byte o := by
  intro n w hrun ha hlen
  obtain ⟨tm, -, htm⟩ := Option.bind_eq_some_iff.1 hp
  obtain ⟨hpm, hpid⟩ := pick_some _ htm
  obtain ⟨⟨pads, mons, hu, hother⟩, q, hq, hb⟩ := writePads_last (k := p.pid) (fun l => f.memAddr a off n l - scratchBase)
    (fun l => bytesOf (f.src d w l) n) (lanesOf f.writers) (hpid ▸ htm) (hm.2 p hpm)
  obtain ⟨hg, -, -, hsl, -⟩ := frag?_some hrun.1
  refine ⟨_, q, pads, mons, storeOp_scratch hp hr hn hl hrun ha hlen, ?_, hu ▸ hq, hu ▸ hother, fun o => ?_⟩
  · rw [hu]
    exact passes_self hg hsl
  · rw [hb o]
    exact lastByte_scratch (fun l => length_bytesOf _ n) ha

/-- Settles O19: each ST is the same store of its size. -/
theorem scratchStoreFrame : Obligations.ScratchStoreFrame := by
  intro s f m d a i p hm hp hr hn hl
  have h {j : Instr} {size : Nat} := storeOp_scratch_frame (i := j) (m := m) (d := d) (a := a) (off := i) (size := size) hm hp hr hn hl
  exact ⟨h, h, h, h, h⟩

end Sys2Proof.Machine
end

/-! # The counter of a timeline (R27)

A timeline keeps its counter and the numbers that have completed above it. The counter moves over every number that is there: it
stops before one that is not, because its fuel covers every number above it. -/

section
namespace Sys2Proof.Machine

/-- The counter moves over numbers that have completed, and, with fuel for each of them that lies above it, stops before one that has not. -/
theorem advanceCounter_spec {fuel c : Nat} {done : List Nat} (hf : done.countP (c < ·) ≤ fuel) :
    c ≤ advanceCounter fuel c done ∧ (∀ k, c < k → k ≤ advanceCounter fuel c done → k ∈ done) ∧ advanceCounter fuel c done + 1 ∉ done := by
  induction fuel generalizing c with
  | zero =>
    refine ⟨le_rfl, fun k h1 h2 => absurd h2 (Nat.not_le.2 h1), fun hc => ?_⟩
    have hnone := List.countP_eq_zero.1 (Nat.le_zero.1 hf) (c + 1) hc
    simp at hnone
  | succ fuel ih =>
    unfold advanceCounter
    split
    case isFalse hc => exact ⟨le_rfl, fun k h1 h2 => absurd h2 (Nat.not_le.2 h1), by simpa using hc⟩
    case isTrue hc =>
      have hmem : c + 1 ∈ done := by simpa using hc
      have hsplit : done.countP (c < ·) = done.countP (c + 1 < ·) + done.count (c + 1) := by
        clear * -
        induction done with
        | nil => rfl
        | cons x xs ih =>
          simp only [List.countP_cons, List.count_cons, ih, decide_eq_true_eq, beq_iff_eq]
          split_ifs <;> omega
      have hpos : 0 < done.count (c + 1) := List.count_pos_iff.2 hmem
      obtain ⟨hle, hin, hout⟩ := ih (c := c + 1) (by omega)
      refine ⟨by omega, fun k hlo hhi => ?_, hout⟩
      rcases Nat.eq_or_lt_of_le hlo with rfl | hlt
      · exact hmem
      · exact hin k hlt hhi

/-- The numbers that have completed above the counter, with `n` among them. -/
def Timeline.doneWith (t : Timeline) (n : Nat) : List Nat := if t.done.contains n then t.done else n :: t.done

theorem Timeline.mem_doneWith {t : Timeline} {n k : Nat} : k ∈ t.doneWith n ↔ k ∈ t.done ∨ k = n := by
  unfold doneWith
  split
  case isTrue h => exact ⟨.inl, fun | .inl hk => hk | .inr e => e ▸ by simpa using h⟩
  case isFalse => rw [List.mem_cons, or_comm]

theorem Timeline.nodup_doneWith {t : Timeline} {n : Nat} (h : t.done.Nodup) : (t.doneWith n).Nodup := by
  unfold doneWith
  split
  case isTrue => exact h
  case isFalse hn => exact h.cons (by simpa using hn)

theorem Timeline.complete_eq (t : Timeline) (n : Nat) : t.complete n =
    let c := advanceCounter (t.doneWith n).length t.counter (t.doneWith n)
    { t with counter := c, done := (t.doneWith n).filter (c < ·) } := rfl

/-- Settles O26: the counter of a completion is that of `advanceCounter`, and the numbers kept are those above it. -/
theorem timelineCounts : Obligations.TimelineCounts := by
  constructor
  · intro gid tid n core args role seat pc g t ht
    have hzero : t = Timeline.zero := by simpa [g, Group.start] using ht
    subst hzero
    exact ⟨rfl, rfl, rfl⟩
  · intro t n habove hnodup hn
    obtain ⟨hle, hin, hout⟩ := advanceCounter_spec (c := t.counter) (List.countP_le_length (l := t.doneWith n))
    rw [Timeline.complete_eq]
    refine ⟨rfl, rfl, rfl, fun k hk => ?_, ?_, hle, rfl, (Timeline.nodup_doneWith hnodup).filter _, fun k => ?_⟩
    · by_cases hc : k ≤ t.counter
      · exact .inl hc
      · exact .inr (Timeline.mem_doneWith.1 (hin k (by omega) hk))
    · rintro (hc | hdone)
      · exact absurd (hle.trans_lt (Nat.lt_succ_self _)) (Nat.not_lt.2 hc)
      · exact hout (Timeline.mem_doneWith.2 hdone)
    · rw [List.mem_filter, Timeline.mem_doneWith, decide_eq_true_eq, and_comm]
      exact and_congr_right fun hk => (or_iff_right (Nat.not_le.2 (hle.trans_lt hk))).symm

end Sys2Proof.Machine
end

/-! # Stage rings (R24, R81, R183 to R186)

A ring instruction that has issued looks at its ring in one order: whether its turn among the issue slots has passed, then the number of
slots posted. Its ring is a field of its team, so that its fragment keeps the turn. -/

section
namespace Sys2Proof.Machine

variable {s : State} {f : Frag} {m : Marks} {d a : Code} {q : BitVec 2} {r : Ring}

/-- A team update that keeps the team's place leaves whose turn it is. -/
theorem frag?_putTeam {t x : Team} (ht : s.team? t.tid = some x) (hp : t.place = x.place) : (s.putTeam t).frag? = s.frag? := by
  have hplace (g : Group) : ((s.putTeam t).teamOf g).any (fun t => t.place = .running) = (s.teamOf g).any fun t => t.place = .running := by
    by_cases hk : t.tid = g.tid
    · rw [State.teamOf, State.teamOf, ← hk, show (s.putTeam t).team? t.tid = some t from pick_put_self _ ht, ht]
      simp only [Option.any_some, hp]
    · rw [State.teamOf, State.teamOf, show (s.putTeam t).team? g.tid = s.team? g.tid from pick_put_ne _ hk]
  have hissue : (s.putTeam t).mayIssue = s.mayIssue := by
    funext g
    unfold State.mayIssue
    rw [hplace]
    rfl
  unfold State.frag?
  rw [hissue]
  rfl

theorem frag?_putRing (tid k : Nat) (r : Ring) : (s.putRing tid k r).frag? = s.frag? := by
  unfold State.putRing
  split
  case h_1 t ht =>
    obtain rfl : t.tid = tid := (pick_some _ ht).2
    exact frag?_putTeam ht rfl
  case h_2 => rfl

/-- A ring accepts an instruction unless one of a later issue slot has issued in this cycle. -/
theorem accepts_iff {c k : Nat} : r.accepts c k = true ↔ ∀ x j, r.mark = some (x, j) → x = c → j ≤ k := by
  unfold Ring.accepts
  cases r.mark with
  | none => simp
  | some p =>
    obtain ⟨x, j⟩ := p
    simp [or_iff_not_imp_left]

section
variable (hr : s.ring? f.g q.toNat = some r)
include hr

theorem exec_srpost (h : Runs s f (.srpost m a q) m { srcs := [opnd a 1] }) : exec (.srpost m a q) s =
    if !r.accepts (s.ringCycle f) f.g.islot then .next s
    else if r.count = 8 then .next (s.park f .srpost)
    else if s.relBusy f.g then .next s
    else .next ((s.putRing f.g.tid q.toNat ((r.seen (s.ringCycle f) f.g.islot).post ((List.range 16).map fun l => BitVec.ofNat 32 (f.src a 1 l)))).goOn f m) := by
  change execSrpost m a q s = _
  unfold execSrpost
  refine (issue_go (f := f) ?_).trans ?_
  · rw [hr]; exact h
  · rw [hr]

theorem exec_srtake (h : Runs s f (.srtake m d q) m { dst := some (opnd d 1), late := true }) : exec (.srtake m d q) s =
    if !r.accepts (s.ringCycle f) f.g.islot then .next s
    else if r.count = 0 then .next (s.park f .srtake)
    else .next (((s.putRing f.g.tid q.toNat (r.seen (s.ringCycle f) f.g.islot).take).resultLater f d 1
      (perLane fun l => ((r.slots.getD r.head []).getD (l % 16) 0).toNat) f.sl.mask 0 .alu).goOn f m) := by
  change execSrtake m d q s = _
  unfold execSrtake
  refine (issue_go (f := f) ?_).trans ?_
  · rw [hr]; exact h
  · rw [hr]

theorem exec_srwait (h : Runs s f (.srwait m q) m {}) : exec (.srwait m q) s =
    if !r.accepts (s.ringCycle f) f.g.islot then .next s
    else if r.count = 0 then .next ((s.putRing f.g.tid q.toNat (r.seen (s.ringCycle f) f.g.islot)).goOn f m)
    else .next (s.park f .srwait) := by
  change execSrwait m q s = _
  unfold execSrwait
  refine (issue_go (f := f) ?_).trans ?_
  · rw [hr]; exact h
  · rw [hr]

end

/-- An instruction without an extension word of its own is one word. -/
theorem encode_singleton {i : Instr} {bits : Nat} (h : encodeFields i = some (m, bits, none)) : encode i = [BitVec.ofNat 32 (marksBits m + bits)] := by
  unfold encode
  rw [h]
  rfl

/-- Settles O24: by whose turn the ring says it is, then by its number of slots; the words by the encoding table. -/
theorem stageRingsComplete : Obligations.StageRingsComplete := by
  intro s f m d a q r hr words slot now posted word taken inTurn seen
  have hacc : r.accepts (s.ringCycle f) f.g.islot = true ↔ inTurn := accepts_iff
  have hfrag (h : s.frag? = some f) (x : Ring) : (s.putRing f.g.tid q.toNat x).frag? = some f := (frag?_putRing _ _ _).trans h
  refine ⟨fun h => ?_, fun h => ?_, fun h => ?_, ?_, ?_, ?_⟩
  · rw [exec_srpost hr h]
    exact ⟨fun hc hb ht => by simp only [hacc.2 ht, hc, hb, Bool.not_true, Bool.false_eq_true, if_false]; rfl,
      fun hc ht => by simp [hacc.2 ht, hc], fun ht => by simp [mt hacc.1 ht]⟩
  · rw [exec_srtake hr h]
    refine ⟨fun hc ht => ⟨_, by simp only [hacc.2 ht, hc, Bool.not_true, Bool.false_eq_true, if_false]; rfl, awaits_resultLater (hfrag h.1 _)⟩,
      fun hc ht => by simp [hacc.2 ht, hc], fun ht => by simp [mt hacc.1 ht]⟩
  · rw [exec_srwait hr h]
    obtain ⟨hg, -, -, hsl, -⟩ := frag?_some (hfrag h.1 { r with mark := some (now, f.g.islot) })
    exact ⟨fun hc ht => ⟨_, by simp only [hacc.2 ht, hc, Bool.not_true, Bool.false_eq_true, if_false, if_true]; rfl, passes_self hg hsl⟩,
      fun hc ht => by simp [hacc.2 ht, hc], fun ht => by simp [mt hacc.1 ht]⟩
  all_goals
    refine (encode_singleton rfl).trans (congrArg (fun n => [BitVec.ofNat 32 n]) ?_)
    unfold marksBits
    omega

end Sys2Proof.Machine
end

/-! # Waits on memory and on timelines (R28, R187, R189)

A WAITC that may issue reads all its lanes and goes on or parks by what is left of them; a TLWAIT does so by a counter, and its acquire has
nothing to do (log 22). -/

section
namespace Sys2Proof.Machine

variable {s : State} {f : Frag} {m : Marks} {d a b : Code} {c x : BitVec 4}

/-- What a WAITC of fragment `f` waits for as it issues: every active lane's location and value (R187). -/
def Frag.waitFor (f : Frag) (a b : Code) (c : BitVec 4) : WaitFor :=
  ⟨c.toNat, typeWords f.g.type, f.g.type % 2 = 0, (lanesOf f.active).map fun l => ⟨l, f.src a 2 l, f.srcB b (typeWords f.g.type) l⟩⟩

/-- A WAITC whose lanes can be read, and that no earlier access holds back, reads them, and parks for those that are left. -/
theorem exec_waitc (h : Runs s f (.waitc m a b c) m { typed := f.g.type < 4, srcs := [opnd a 2], srcB := some (opnd b (typeWords f.g.type)) })
    (ht : lanesTrap 0 (s.waitAccesses f.g (f.waitFor a b c)) = none)
    (hl : s.loadHeld f.g ((s.waitAccesses f.g (f.waitFor a b c)).flatMap LaneAccess.pieces) = false) :
    let xs := s.waitAccesses f.g (f.waitFor a b c)
    let r := (s.noteRead f.g (linesOfLanes xs)).waitRead f.g (f.waitFor a b c) xs
    exec (.waitc m a b c) s = if r.2.left = [] then .next (r.1.goOn f m)
      else .next (((r.1.noteWaiting f.g f.slot).addMonitors (watchesOf f.g.gid f.slot r.2 xs)).park f (.waitc r.2 (unitLen m 0))) := by
  change execWaitc m a b c s = _
  unfold execWaitc
  refine (issue_go (f := f) h).trans ?_
  unfold Frag.waitFor Frag.words at *
  simp only [ht, hl, Bool.false_eq_true, if_false]

/-- The B operand of TLWAIT and TLREAD: the stream, for selector 4 (R189). -/
def streamOpnd (b : Code) (x : BitVec 4) : Option Opnd := if x = 4 then some (opnd b 1) else none
/-- The stream number, 0 for another selector. -/
def Frag.stream (f : Frag) (b : Code) (x : BitVec 4) : Nat := if x = 4 then f.srcB b 1 f.low else 0

theorem toNat_eq_four : x.toNat = 4 ↔ x = 4 := by
  rw [← BitVec.toNat_inj]
  rfl

section
variable {tl : Timeline} (ht : s.timeline? f.g x.toNat (f.stream b x) = some tl)
include ht

theorem exec_tlwait (h : Runs s f (.tlwait m a b x) m { srcs := [opnd a 2], srcB := streamOpnd b x }) (hn : x = 4 ∨ f.src a 2 f.low ≤ tl.accepted) :
    exec (.tlwait m a b x) s = if f.src a 2 f.low ≤ tl.counter then .next (s.goOn f m) else .next (s.park f .tlwait) := by
  change execTlwait m a b x s = _
  unfold execTlwait
  simp only [toNat_eq_four]
  refine (issue_go (f := f) h).trans ?_
  unfold Frag.stream at ht
  have hlate : ¬(x.toNat ≠ 4 ∧ tl.accepted < f.src a 2 f.low) := fun ⟨h1, h2⟩ => hn.elim (mt toNat_eq_four.2 h1) (Nat.not_le.2 h2)
  simp only [ht, Bool.and_eq_true, decide_eq_true_eq, hlate, if_false]

theorem exec_tlread (h : Runs s f (.tlread m d b x) m { srcB := streamOpnd b x, dst := some (opnd d 2), late := true }) :
    exec (.tlread m d b x) s = .next ((s.resultLater f d 2 (perLane fun _ => tl.counter) f.sl.mask 0 .alu).goOn f m) := by
  change execTlread m d b x s = _
  unfold execTlread
  simp only [toNat_eq_four]
  refine (issue_go (f := f) h).trans ?_
  unfold Frag.stream at ht
  simp only [ht]

end

/-- Settles O25: a WAITC by the lanes that its reads leave, TLWAIT by the counter, which is what TLREAD delivers. -/
theorem monitorsComplete : Obligations.MonitorsComplete := by
  intro s f m d a b c x tl w xs r sb nb
  refine ⟨fun h ht hl => ?_, fun ht => ⟨fun h hn => ?_, fun h => ?_⟩⟩
  · have hexec := exec_waitc h ht hl
    exact ⟨fun hleft => hexec.trans (if_pos hleft), fun hleft => hexec.trans (if_neg hleft)⟩
  · have hexec := exec_tlwait ht h hn
    obtain ⟨hg, -, -, hsl, -⟩ := frag?_some h.1
    exact ⟨fun hle => ⟨_, hexec.trans (if_pos hle), passes_self hg hsl⟩, fun hlt => hexec.trans (if_neg (Nat.not_le.2 hlt))⟩
  · exact ⟨_, exec_tlread ht h, awaits_resultLater h.1⟩

end Sys2Proof.Machine
end

/-! # Accepting a copy command (R30, R246, R323 to R333)

Every copy command is one acceptance, behind the same checks; its opcode decides the size of its descriptor and what makes it legal. -/

section
namespace Sys2Proof.Machine

variable {s : State} {f : Frag} {i : Instr} {m : Marks} {d a : Code}

/-- What a copy command and CBMRD need (R323). -/
def Frag.copyNeed (f : Frag) (d a : Code) : Need := { role := f.g.role.copies, srcs := [opnd a 2], dst := some (opnd d 2), late := true }

theorem copyFull_eq_false (hf : s.frag? = some f) (hlen : f.g.copyOps.length < 32) : s.copyFull = false := by
  unfold State.copyFull
  rw [hf]
  simpa using hlen

/-- The check of a record of `n` bytes, as the fragment's lowest lane. -/
def State.recordAccess (s : State) (f : Frag) (n addr : Nat) : List LaneAccess := s.checkLanes f.g .rd [1, 2, 3] n n (fun _ => addr) [f.low]

/-- The state with the lines of some pieces brought in for a group's loads. -/
def State.bringBits (s : State) (g : Group) (bits : List Bit) : State := bits.foldl (fun (u : State) b => u.bringBit (u.agentOf g) true b) s

/-- The state with operation `o` last in a group's copy context, and the engine told of it (R30, R325). -/
def State.copyAccepted (s : State) (f : Frag) (o : CopyOp) : State :=
  let v := s.putGroup { f.g with copy := { f.g.copy with accepted := f.g.copy.accepted + 1 }, copyOps := f.g.copyOps ++ [o] }
  v.engineAccept (coreDie f.g.core) (copyEngine f.g.core) (v.ctxIdOf f.g) true (v.copiesWaiting f.g.core)

/-- A copy command that raises nothing, behind the group's earlier accesses, with a legal descriptor, is accepted with the next number. -/
theorem copyOut_accepts {op x : Nat} (h : Runs s f i m (f.copyNeed d a)) (hlen : f.g.copyOps.length < 32)
    (ht : lanesTrap 0 (s.recordAccess f (copyDescSize op) (f.src a 2 f.low)) = none) (hb : s.relBusy f.g = false) :
    let bits := (s.recordAccess f (copyDescSize op) (f.src a 2 f.low)).flatMap LaneAccess.pieces
    let u := s.bringBits f.g bits
    let o : CopyOp := ⟨f.g.copy.accepted + 1, op, u.readBits f.g.core bits, x, [], [], none, false⟩
    u.copyLegal f.g { o with n := 0 } = true → u.copyAperture f.g { o with n := 0 } = none →
      copyOut s i m d a op x =
        .next (((u.copyAccepted f o).resultLater f d 2 (perLane fun _ => f.g.copy.accepted + 1) f.sl.mask 0 .engine).goOn f m) := by
  intro bits u o hlegal hap
  unfold copyOut
  rw [copyFull_eq_false h.1 hlen]
  refine (issue_go (f := f) h).trans ?_
  change lanesTrap 0 (s.checkLanes _ _ _ _ _ _ _) = none at ht
  simp only [ht, hb]
  change (if !u.copyLegal f.g { o with n := 0 } then _ else match u.copyAperture f.g { o with n := 0 } with | some _ => _ | none => _) = _
  rw [hlegal, hap]
  rfl

/-- CBMRD reads its bitmap as an engine does, once no earlier access of the group holds it back (R333). -/
theorem exec_cbmrd (h : Runs s f (.cbmrd m d a) m (f.copyNeed d a)) (hlen : f.g.copyOps.length < 32)
    (ht : lanesTrap 0 (s.recordAccess f 8 (f.src a 2 f.low)) = none)
    (hl : s.loadHeld f.g ((s.recordAccess f 8 (f.src a 2 f.low)).flatMap LaneAccess.pieces) = false) :
    let ys := s.recordAccess f 8 (f.src a 2 f.low)
    let r := s.engineReads (s.agentOf f.g) (ys.flatMap LaneAccess.pieces)
    exec (.cbmrd m d a) s =
      .next (((r.1.noteRead f.g (linesOfLanes ys)).resultLater f d 2 (perLane fun _ => ofBytes r.2) f.sl.mask 0 .alu).goOn f m) := by
  intro ys r
  change execCbmrd m d a s = _
  unfold execCbmrd
  rw [copyFull_eq_false h.1 hlen]
  refine (issue_go (f := f) h).trans ?_
  unfold State.recordAccess at ht hl
  simp only [ht, hl]
  rfl

/-- Settles O34: each copy command is the same acceptance, of its opcode and X. -/
theorem copiesComplete : Obligations.CopiesComplete := by
  intro s f m d a b nf x need accepts ys r
  have haccepts {j : Instr} {op x : Nat} (hj : exec j s = copyOut s j m d a op x) : accepts j op x :=
    fun h hlen ht hb hlegal hap => hj.trans (copyOut_accepts h hlen ht hb hlegal hap)
  exact ⟨haccepts rfl, haccepts rfl, haccepts rfl, haccepts rfl, haccepts rfl, haccepts rfl, exec_cbmrd⟩

end Sys2Proof.Machine
end

/-! # Matrix instructions (R30, R363 to R377)

Taking tiles changes them and their owner records and leaves whose turn it is. Every gang operation at issue is one join, of the part that its
member gives. -/

section
namespace Sys2Proof.Machine

variable {s t u : State}

/-! ## What leaves whose turn it is -/

/-- Two states agree on all that says which fragment may issue. -/
structure SameTurn (s t : State) : Prop where
  groups : t.groups = s.groups
  teams : t.teams = s.teams
  ctl : t.ctl = s.ctl
  shootdowns : t.msys.shootdowns = s.msys.shootdowns

theorem SameTurn.refl : SameTurn s s := ⟨rfl, rfl, rfl, rfl⟩

theorem SameTurn.trans (h : SameTurn s t) (k : SameTurn t u) : SameTurn s u :=
  ⟨k.groups.trans h.groups, k.teams.trans h.teams, k.ctl.trans h.ctl, k.shootdowns.trans h.shootdowns⟩

theorem SameTurn.foldl {α : Type} {f : State → α → State} (h : ∀ s x, SameTurn s (f s x)) (l : List α) : SameTurn s (l.foldl f s) := by
  induction l generalizing s with
  | nil => exact .refl
  | cons x l ih => exact (h s x).trans ih

theorem SameTurn.frag? (h : SameTurn s t) : t.frag? = s.frag? := by
  have hissue : t.mayIssue = s.mayIssue := by
    funext g
    simp only [State.mayIssue, State.teamOf, State.team?, h.teams, h.shootdowns]
  simp only [State.frag?, State.group?, h.groups, h.ctl, hissue]

theorem sameTurn_touchHome (unit a : Nat) : SameTurn s (s.touchHome unit a) := by
  unfold State.touchHome
  split
  · exact .refl
  · split
    · exact .refl
    · exact ⟨rfl, rfl, rfl, rfl⟩

theorem sameTurn_touchRange (unit a n : Nat) : SameTurn s (s.touchRange unit a n) := by
  unfold State.touchRange
  split
  · exact .refl
  · exact .foldl (fun _ _ => sameTurn_touchHome _ _) _

theorem sameTurn_writeHome (a : Nat) (bs : List Byte) : SameTurn s (s.writeHome a bs) := ⟨rfl, rfl, rfl, rfl⟩

theorem sameTurn_putOwner (c : Ctx) (r : OwnerRec) : SameTurn s (s.putOwner c r) :=
  ((sameTurn_touchRange _ _ _).trans (sameTurn_writeHome _ _)).trans ((sameTurn_touchRange _ _ _).trans (sameTurn_writeHome _ _))

/-- Taking tiles changes them and their owner records alone. -/
theorem sameTurn_claimTiles (cl ctx : Nat) (ts : List Nat) : SameTurn s (s.claimTiles cl ctx ts) := by
  refine .foldl (fun s t => ?_) ts
  dsimp only
  split
  · split
    · exact SameTurn.trans (t := s.modCluster cl _) ⟨rfl, rfl, rfl, rfl⟩ (sameTurn_putOwner _ _)
    · exact ⟨rfl, rfl, rfl, rfl⟩
  · exact .refl

/-! ## Gangs -/

variable {f : Frag} {j : Instr} {m : Marks} {a b d w : Code} {x : BitVec 4} {tm : Team} {gang : Gang}

/-- A GANG that is ready and legal, and that no other gang's word contradicts, takes effect. -/
theorem exec_gang (htm : s.teamOf f.g = some tm) (h : Runs s f (.gang m a x) m { role := f.g.role.matrices, srcs := [opnd a 1] })
    (hheld : s.gangHeld f.g = false) (hlegal : s.gangLegal f.g (f.src a 1 f.low) x.toNat = true)
    (hword : ∀ g ∈ s.gangsAwaiting f.g, g.word.toNat = f.src a 1 f.low) :
    exec (.gang m a x) s = .next ((s.runGang f tm (BitVec.ofNat 32 (f.src a 1 f.low)) x.toNat).goOn f m) := by
  have hother : ((s.gangsAwaiting f.g).any fun y => y.word.toNat ≠ f.src a 1 f.low) = false :=
    List.any_eq_false.2 fun y hy => by simpa using hword y hy
  change execGang m a x s = _
  unfold execGang
  simp only [h.1, hheld]
  refine (issue_go (f := f) h).trans ?_
  simp only [htm, hlegal, hother]
  rfl

/-! ## Gang operations -/

/-- The check of a member's block, at an address. -/
def State.gangBlock (s : State) (f : Frag) (gang : Gang) (i : GangInsn) (addr : Nat) : Except Nat (List Bit) :=
  s.checkAccess (s.agentOf f.g) .wr [1, 2] 64 0 addr (i.touchLen gang.size (gang.memberOf f.g.gid))

/-- The scale vector of an operation that has one (R356); empty for another. -/
def State.gangScale (s : State) (gang : Gang) (tm : Team) (i : GangInsn) : Option (List Byte) :=
  if i.op = 0xE1 ∧ 2 ≤ i.q.scale then s.scaleVector gang tm i.q else some []

/-- The allocation that translated pieces begin in. -/
def padOf (block : Except Nat (List Bit)) : Option Nat := match block with
  | .ok (⟨.pad p _, _⟩ :: _) => some p
  | _ => none

/-- The operation that a gang holds under a number. -/
def Gang.held (x : Gang) (k : Nat) : Option GangOp := x.ops.find? fun o => o.k = k

/-- The held operation of the member's next number, or a new one, with the part that the member gives it (R366). -/
def State.gangPart (s : State) (f : Frag) (gang : Gang) (word : Word) (i : GangInsn) (addr b n : Nat) (scale : List Byte) : GangOp :=
  ((gang.held (f.g.gangTl.accepted + 1)).getD ⟨f.g.gangTl.accepted + 1, word, i.op, i.t, i.x, [], [], [], [], []⟩).add (gang.memberOf f.g.gid)
    (BitVec.ofNat 64 (if i.hasBlock then addr else 0)) (if i.hasBlock then padOf (s.gangBlock f gang i addr) else none) (f.partBytes b n) scale

/-- The gang holds `o` as its member's next operation, and the engine knows of the context's work (R30). -/
def State.gangIssued (s : State) (f : Frag) (gang : Gang) (o : GangOp) : State :=
  let u := (s.putGang { gang with ops := if (gang.held (f.g.gangTl.accepted + 1)).isSome then put GangOp.k o gang.ops else gang.ops ++ [o] }).putGroup
    { f.g with gangTl := f.g.gangTl.accept }
  u.engineAccept (gang.cluster / 48) (matrixEngine gang.cluster) gang.ctx (gang.eligible o) (u.gangsWaiting gang.cluster)

/-- A gang operation whose block and scale vector can be read, on tiles that its context may own, and that agrees with what the gang holds of
its number: the member's part joins, unless the number has been discarded already (R366, R382; log 57). -/
theorem gangOpOut_joins {word : Word} {i : GangInsn} {addr b n : Nat} {scale : List Byte} (hgang : s.gangOf f.g = some gang) (htm : s.teamOf f.g = some tm)
    (hblock : i.hasBlock = true → ∃ bs, s.gangBlock f gang i addr = .ok bs) (hpair : ¬(i.hasBlock = true ∧ i.q.wide = true ∧ i.t % 2 = 1))
    (hscale : s.gangScale gang tm i = some scale) (hown : s.mayOwn gang.cluster tm.ctx i.tiles = true)
    (hheld : ∀ o, gang.held (f.g.gangTl.accepted + 1) = some o → o.op = i.op ∧ o.t = i.t ∧ o.x = i.x) (hrel : s.relBusy f.g = false) :
    gangOpOut s f m word i addr b n =
      let u := s.claimTiles gang.cluster tm.ctx i.tiles
      if f.g.gangOver (f.g.gangTl.accepted + 1) then .next ((u.putGroup { f.g with gangTl := f.g.gangTl.accept }).goOn f m)
      else .next ((u.gangIssued f gang (s.gangPart f gang word i addr b n scale)).goOn f m) := by
  have hagree : ((gang.held (f.g.gangTl.accepted + 1)).any fun o => !(o.op = i.op && o.t = i.t && o.x = i.x)) = false := by
    cases h : gang.held (f.g.gangTl.accepted + 1) with
    | none => rfl
    | some o => simpa [and_assoc] using hheld o h
  have hpair' : (i.hasBlock && i.q.wide && i.t % 2 = 1) = false := by simpa using hpair
  have hvec : (if i.op = 0xE1 && 2 ≤ i.q.scale then s.scaleVector gang tm i.q else some []) = some scale := by
    simpa [State.gangScale] using hscale
  unfold Gang.held at hagree
  unfold State.gangBlock at hblock
  unfold gangOpOut
  simp only [hgang, htm, hpair', hvec, hown, hagree, hrel, Bool.false_eq_true, if_false, Bool.not_true]
  split
  case h_1 hb hc =>
    obtain ⟨bs, hbs⟩ := hblock hb
    cases hbs.symm.trans hc
  case h_2 hnone _ => cases hnone
  case h_3 hsome _ =>
    cases hsome
    rfl

theorem mmaOut_go {t : Code} {y : BitVec 3} {zero : Bool} (h : Runs s f j m { role := f.g.role.matrices, srcs := [opnd a 2] ++
      (if s.bRegs f.g (s.fslot f.g y.toNat) = 0 then [] else [opnd b (s.bRegs f.g (s.fslot f.g y.toNat))]) }) (hfull : s.gangFull = false) :
    mmaOut s j m t a b y zero = gangOpOut s f m (firstWord j) ⟨0xE1, t.toNat, y.toNat + (if zero then 8 else 0), s.fslot f.g y.toNat⟩
      (f.src a 2 f.low) b.toNat (s.bRegs f.g (s.fslot f.g y.toNat)) := by
  unfold mmaOut
  rw [hfull]
  exact issue_go (f := f) h

theorem accMoveOut_go {t : Code} {y : BitVec 3} {op : Nat} (h : Runs s f j m { role := f.g.role.matrices, srcs := [opnd a 2] })
    (hfull : s.gangFull = false) :
    accMoveOut s j m t a y op = gangOpOut s f m (firstWord j) ⟨op, t.toNat, y.toNat, s.fslot f.g y.toNat⟩ (f.src a 2 f.low) 0 0 := by
  unfold accMoveOut
  rw [hfull]
  exact issue_go (f := f) h

theorem exec_mfree {t : Code} (h : Runs s f (.mfree m t) m { role := f.g.role.matrices }) (hfull : s.gangFull = false) :
    exec (.mfree m t) s = gangOpOut s f m (firstWord (.mfree m t)) ⟨0xE6, t.toNat, 0, fslotOf 0⟩ 0 0 0 := by
  change execMfree m t s = _
  unfold execMfree
  rw [hfull]
  exact issue_go (f := f) h

/-! ## ACCRD and MBURST -/

/-- The tiles that an ACCRD reads (R375). -/
def accrdTiles (t w : Code) : List Nat := if w.toNat = 1 then [t.toNat, t.toNat + 1] else [t.toNat]

/-- ACCRD's result is under way from the tiles that its context owns, or takes as it reads (R375, R377). -/
theorem exec_accrd {t : Code} (h : Runs s f (.accrd m d t w x) m { role := f.g.role.matrices, dst := some (opnd d (w.toNat + 1)), late := true })
    (hown : s.mayOwn (coreCluster f.g.core) (s.ctxIdOf f.g) (accrdTiles t w) = true) :
    let u := s.claimTiles (coreCluster f.g.core) (s.ctxIdOf f.g) (accrdTiles t w)
    exec (.accrd m d t w x) s = .next ((u.resultLater f d (w.toNat + 1) (perLane fun l =>
      (u.cluster (coreCluster f.g.core)).acc (w.toNat = 1) t.toNat (2 * x.toNat + l / 32) (l % 32)) f.sl.mask 0 .alu).goOn f m) := by
  intro u
  change execAccrd m d t w x s = _
  unfold execAccrd
  refine (issue_go (f := f) h).trans ?_
  unfold accrdTiles at hown
  simp only [hown]
  rfl

/-- Settles O35: each gang operation is the same join, of its slot, its block and its B registers. -/
theorem matrixComplete : Obligations.MatrixComplete := by
  intro s f m a b d t w x y tm gang htm role ctx cl word q nb addr issued joins
  have hjoins {j : Instr} {need : Need} {i : GangInsn} {addr b n : Nat}
      (hj : Runs s f j m need → s.gangFull = false → exec j s = gangOpOut s f m (firstWord j) i addr b n) : joins j need i addr b n := by
    intro scale h hfull hrel hgang hblock hpair hscale hown hheld
    have hexec := (hj h hfull).trans (gangOpOut_joins hgang htm hblock hpair hscale hown hheld hrel)
    exact ⟨fun hnew => ⟨_, rfl, hexec.trans (if_neg (by simpa using hnew))⟩, fun hover => hexec.trans (if_pos hover)⟩
  refine ⟨exec_gang htm, hjoins mmaOut_go, hjoins mmaOut_go, hjoins accMoveOut_go, hjoins accMoveOut_go, hjoins exec_mfree, ?_, ?_⟩
  · intro n ts c h hown
    exact ⟨_, exec_accrd h hown, awaits_resultLater ((sameTurn_claimTiles _ _ _).frag?.trans h.1)⟩
  · intro cores h
    obtain ⟨hg, -, -, hsl, -⟩ := frag?_some h.1
    exact ⟨_, issue_go (f := f) h, passes_self hg hsl⟩

end Sys2Proof.Machine
end

/-! # Sampling, rays and regrouping (R30, R419 to R421, R435 to R437)

TEX and TEXG are one acceptance behind the checks of their record, RAY and RAYQ one behind those of their handles and their header. -/

section
namespace Sys2Proof.Machine

variable {s : State} {f : Frag} {i : Instr} {m : Marks} {d a b : Code}

/-! ## TEX and TEXG -/

/-- What TEX and TEXG need (R419). -/
def Frag.samplerNeed (f : Frag) (d a b : Code) : Need :=
  { role := f.g.role.vectors, srcs := [opnd a 2], srcB := some (opnd b 2), dst := some (opnd d 4), late := true }

/-- The operation that a TEX or TEXG of fragment `f` is, under a record that it has read (R419). -/
def Frag.samplerOp (f : Frag) (oid : Nat) (a : Code) (gather : Bool) (x : Nat) (record : List Byte) : SampOp :=
  ⟨f.g.samp.accepted + 1, oid, gather, x, record, perLane (f.src a (samplerArgWords (samplerOf record) gather x)), f.sl.mask, f.g.dissolved, none, false⟩

/-- The state with operation `o` last in a group's sampler queue, and the unit told of it (R30, R420). -/
def State.samplerAccepted (s : State) (f : Frag) (o : SampOp) : State :=
  let v := s.putGroup { f.g with
    samp := f.g.samp.accept, sampOps := f.g.sampOps ++ [o], quadFault := f.g.quadFault || quadMissing o (samplerOf o.record) }
  v.engineAccept (coreDie f.g.core) (textureUnit f.g.core) (v.ctxIdOf f.g) true (v.samplersWaiting f.g.core)

theorem samplerFull_eq_false (hf : s.frag? = some f) (hlen : f.g.sampOps.length < 32) : s.samplerFull = false := by
  unfold State.samplerFull
  rw [hf]
  simpa using hlen

/-- A TEX or TEXG whose record can be read and is valid is accepted with the next number. -/
theorem samplerOut_accepts {gather : Bool} {x : Nat}
    (h : Runs s f i m (f.samplerNeed d a b))
    (hlen : f.g.sampOps.length < 32) (ht : lanesTrap 0 (s.recordAccess f 64 (f.srcB b 2 f.low)) = none) (hrel : s.relBusy f.g = false) :
    let bits := (s.recordAccess f 64 (f.srcB b 2 f.low)).flatMap LaneAccess.pieces
    let u := s.bringBits f.g bits
    let r := u.readBits f.g.core bits
    let n := samplerArgWords (samplerOf r) gather x
    (samplerOf r).ok r gather = true → (opnd a n).inAllot f.g.allot = true → (samplerOf r).badAperture = none → f.readTrap [opnd a n] = none →
      samplerOut s i m d a b gather x = .next (((u.samplerAccepted f (f.samplerOp u.ctl.nextId a gather x r)).resultLater
        f d 4 (perLane fun _ => 0) f.sl.mask 1 .engine).goOn f m) := by
  intro bits u r n hok hallot hap hread
  unfold samplerOut
  rw [samplerFull_eq_false h.1 hlen]
  refine (issue_go (f := f) h).trans ?_
  change lanesTrap 0 (s.checkLanes _ _ _ _ _ _ _) = none at ht
  simp only [ht, hrel]
  change (if !((samplerOf r).ok r gather && (opnd a n).inAllot f.g.allot) then _ else match (samplerOf r).badAperture, f.readTrap [opnd a n] with
    | some _, _ => _
    | none, some _ => _
    | none, none => _) = _
  rw [hok, hallot, hap, hread]
  rfl

/-! ## RAY and RAYQ -/

theorem rayFull_eq_false (hf : s.frag? = some f) (hlen : f.g.rayOps.length < 32) : s.rayFull = false := by
  unfold State.rayFull
  rw [hf]
  simpa using hlen

theorem apertureOf_global {x : Nat} (h : x < 2 ^ 56) : apertureOf x = 3 := if_pos h

/-- What RAY and RAYQ need (R435). -/
def Frag.rayNeed (f : Frag) (view anyHit : Bool) (d a b : Code) : Need :=
  { role := f.g.role.vectors, srcs := [opnd a (if view then 4 else 8)], srcB := some (opnd b 2), dst := some (opnd d (if anyHit then 1 else 4)), late := true }

/-- Word `k` of a lane's A operand of `n` words. -/
def Frag.argWord (f : Frag) (a : Code) (n l k : Nat) : Nat := f.src a n l / 2 ^ (32 * k) % 2 ^ 32

/-- The good handles of the lanes, each in the first word of its A operand. -/
def State.rayHandles (s : State) (f : Frag) (a : Code) (n : Nat) : List (Nat × Frame × Handle) :=
  s.goodHandles f.g (fun l => f.argWord a n l 0) (lanesOf f.sl.mask)

/-- The A operand of a lane: its own words, or the ray through its sample of a view (R435). -/
def State.rayArg (s : State) (f : Frag) (a : Code) (view : Bool) (n l : Nat) : Nat :=
  if !view then f.src a n l
  else match (s.rayHandles f a n).find? fun z => z.1 = l with
    | none => 0
    | some (_, fr, h) => match fr.views[h.view]?, s.warpOf fr h.view h.strip with
      | some w, some p => w.rayWords p (sampleU (f.argWord a n l 1)) (sampleV (f.argWord a n l 1)) (f.argWord a n l 2) (f.argWord a n l 3)
      | _, _ => 0

/-- A RAY or RAYQ behind the group's earlier accesses, whose handles name latched strips and whose header is an aligned GLOBAL address, is accepted. -/
theorem rayOut_accepts {view anyHit : Bool} (h : Runs s f i m (f.rayNeed view anyHit d a b))
    (hlen : f.g.rayOps.length < 32)
    (hview : view = true → s.badHandles f.g (fun l => f.argWord a (if view then 4 else 8) l 0) (lanesOf f.sl.mask) = [] ∧
      ∀ z ∈ s.rayHandles f a (if view then 4 else 8), (s.warpOf z.2.1 z.2.2.view z.2.2.strip).isSome = true)
    (halign : f.srcB b 2 f.low % 64 = 0) (hglobal : f.srcB b 2 f.low < 2 ^ 56) (hrel : s.relBusy f.g = false) :
    rayOut s i m d a b view anyHit =
      s.acceptRay f m d anyHit view (f.srcB b 2 f.low) (perLane (s.rayArg f a view (if view then 4 else 8))) := by
  have hbad : (view && s.badHandles f.g (fun l => f.argWord a (if view then 4 else 8) l 0) (lanesOf f.sl.mask) ≠ []) = false := by
    cases view with
    | false => rfl
    | true => simpa using (hview rfl).1
  have hlatched : (view && (s.rayHandles f a (if view then 4 else 8)).any fun y => (s.warpOf y.2.1 y.2.2.view y.2.2.strip).isNone) = false := by
    cases view with
    | false => rfl
    | true =>
      refine List.any_eq_false.2 fun z hz => ?_
      simp [Option.isSome_iff_ne_none.1 ((hview rfl).2 z hz)]
  unfold rayOut
  rw [rayFull_eq_false h.1 hlen]
  refine (issue_go (f := f) h).trans ?_
  unfold State.rayHandles Frag.argWord at *
  simp only [hbad, hlatched, halign, apertureOf_global hglobal, hrel]
  rfl

/-! ## RGRP -/

/-- What an RGRP of `n` payload words needs (R437). -/
def Frag.rgrpNeed (f : Frag) (a : Code) (n : Nat) : Need :=
  { role := f.g.role.vectors, late := true, legal := (Opnd.mk 16 n).inAllot f.g.allot && (f.g.slot? (1 - f.slot)).isNone, srcs := [opnd a 1, ⟨16, n⟩] }

/-- Whether a group is parked in an RGRP of another form (R437). -/
def Group.rgrpClash (h : Group) (ring : Bool) (n : Nat) : Bool := match h.rgrpSlot with
  | some (_, _, r, k, _) => r ≠ ring || k ≠ n
  | none => false

theorem rgrpClash_eq_false {h : Group} {ring : Bool} {n : Nat}
    (hs : ∀ i sl r c key len, h.rgrpSlot = some (i, sl, r, c, key, len) → r = ring ∧ c = n) : h.rgrpClash ring n = false := by
  unfold Group.rgrpClash
  split
  case h_1 hslot =>
    obtain ⟨rfl, rfl⟩ := hs _ _ _ _ _ _ hslot
    simp
  case h_2 => rfl

/-- An RGRP whose form the team permits, and that no other group's RGRP contradicts, parks in the rendezvous, which then ends if it is the last (R437). -/
theorem exec_rgrp {v : Bool} {y : BitVec 4} (h : Runs s f (.rgrp m v a y) m (f.rgrpNeed a (y.toNat + 1)))
    (hring : v = true → ∃ l, s.launchOf f.g = some l ∧ l.clsize ≠ 0)
    (hsame : ∀ h ∈ s.groupsOf f.g.tid, h.gid ≠ f.g.gid → ∀ i sl r c key len, h.rgrpSlot = some (i, sl, r, c, key, len) → r = v ∧ c = y.toNat + 1) :
    exec (.rgrp m v a y) s = .next ((s.park f (.rgrp v (y.toNat + 1) a.toNat (unitLen m 0))).regroupTeam f.g.tid v (y.toNat + 1)) := by
  have hform : (v && !(s.launchOf f.g).any fun l => l.clsize ≠ 0) = false := by
    cases v with
    | false => rfl
    | true =>
      obtain ⟨l, hl, hne⟩ := hring rfl
      simp [hl, hne]
  have hclash : ((s.groupsOf f.g.tid).any fun h => h.gid ≠ f.g.gid && h.rgrpClash v (y.toNat + 1)) = false := by
    refine List.any_eq_false.2 fun h hh => ?_
    rw [Bool.and_eq_true, decide_eq_true_eq, not_and, Bool.not_eq_true]
    exact fun hne => rgrpClash_eq_false (hsame h hh hne)
  change execRgrp m v a y s = _
  unfold execRgrp
  refine (issue_go (f := f) h).trans ?_
  change (if (_ && !_) || ((s.groupsOf f.g.tid).any fun h => h.gid ≠ f.g.gid && h.rgrpClash v (y.toNat + 1)) then _ else _) = _
  rw [hform, hclash]
  rfl

/-- Settles O39: TEX and TEXG are one acceptance, and so are RAY and RAYQ; RGRP parks before its rendezvous. -/
theorem samplingComplete : Obligations.SamplingComplete := by
  intro s f m d a b x v y samples traces k
  have hsamples {j : Instr} {gather : Bool} (hj : exec j s = samplerOut s j m d a b gather x.toNat) : samples j gather :=
    fun h hlen ht hrel hok hallot hap hread => hj.trans (samplerOut_accepts h hlen ht hrel hok hallot hap hread)
  have htraces {j : Instr} {anyHit : Bool} (hj : exec j s = rayOut s j m d a b v anyHit) : traces j anyHit :=
    fun h hlen hview halign hglobal hrel => hj.trans (rayOut_accepts h hlen hview halign hglobal hrel)
  exact ⟨hsamples rfl, hsamples rfl, htraces rfl, htraces rfl, exec_rgrp⟩

end Sys2Proof.Machine
end

/-! # Events of the engines (R30, R335, R341, R371, R372, R420, R434)

An event whose condition holds takes the one branch of its meaning that does the work. What an engine reads, counts and reports leaves every
group as it was, and the result that lands writes one group's registers and queues: so the operation ends in the group that issued it. -/

section
namespace Sys2Proof.Machine

variable {s t : State} {gid n : Nat} {g : Group}

/-! ## Copies -/

section
variable {o : CopyOp} {piece : Nat} (hg : s.group? gid = some g) (hruns : s.engineRuns g = true)
  (ho : (g.copyOps.find? fun o => o.n = n) = some o) (hf : o.fault = none)
include hg hruns ho hf

/-- A part that is ready is performed, of an operation that has started, or whose context has its turn (R30). -/
theorem exec_copyPieceDelivery (hp : piece ∈ o.todo) (hready : s.partReady g o piece = true) : exec (.copyPieceDelivery gid n piece) s =
    if o.started then .next (s.runPart g o piece)
    else if s.engineTurn (coreDie g.core) (copyEngine g.core) (s.ctxIdOf g) (s.copiesWaiting g.core) then
      .next (((s.startCopy g n).runPart g o piece).engineChoose (coreDie g.core) (copyEngine g.core)
        (((s.startCopy g n).runPart g o piece).copiesWaiting g.core))
    else .next s := by
  change execCopyPieceDelivery gid n piece s = _
  unfold execCopyPieceDelivery
  simp only [hg, ho, hf, hruns, hready, List.contains_iff_mem.2 hp]
  rfl

/-- Nothing keeps an operation whose parts are all over from its end: one without a part has waited for the earlier ones (R335). -/
theorem exec_copyOpComplete (htodo : o.todo = []) (hfirst : o.parts ≠ [] ∨ ∀ p ∈ g.copyOps, ¬p.n < o.n) :
    (o.tcb = 0 → exec (.copyOpComplete gid n) s = .next (s.putGroup (g.endCopy n))) ∧
    (o.tcb ≠ 0 → ∀ u h, s.reportResidency g o.tcb = .ok u → u.group? gid = some h →
      exec (.copyOpComplete gid n) s = .next (u.putGroup (h.endCopy n))) := by
  obtain rfl : o.n = n := by simpa using List.find?_some ho
  have hwaits : (o.parts = [] && g.copyOps.any fun p => p.n < o.n) = false := by
    rcases hfirst with h | h
    · simp [h]
    · rw [Bool.and_eq_false_iff]
      exact .inr (List.any_eq_false.2 fun p hp => by simpa using h p hp)
  change (_ → execCopyOpComplete gid o.n s = _) ∧ (_ → ∀ u h, _ → _ → execCopyOpComplete gid o.n s = _)
  unfold execCopyOpComplete
  simp only [hg, ho, hf, hruns, htodo, hwaits]
  constructor
  · intro htcb
    rw [if_pos htcb]
    rfl
  · intro htcb u h hu hh
    rw [if_neg htcb, hu]
    dsimp only
    rw [hh]
    rfl

end

/-! ## Groups that an engine's reads and counts leave -/

theorem onlyHomes_groups (h : OnlyHomes s t) : t.groups = s.groups := by
  obtain ⟨_, _, rfl⟩ := h
  rfl

theorem onlyCounts_groups (h : OnlyCounts s t) : t.groups = s.groups := by
  obtain ⟨_, _, _, _, rfl, -⟩ := h
  rfl

theorem groups_foldl {α : Type} {F : State → α → State} (h : ∀ s x, (F s x).groups = s.groups) (l : List α) : (l.foldl F s).groups = s.groups := by
  induction l generalizing s with
  | nil => rfl
  | cons x l ih => exact ih.trans (h s x)

theorem groups_engineRead (ag : Agent) (b : Bit) : (s.engineRead ag b).1.groups = s.groups := by
  unfold State.engineRead
  split
  case h_1 => rfl
  case h_2 va t walked _ =>
    have hwalk : (if walked then s.install ag t va else s).groups = s.groups := by
      split
      · exact onlyHomes_groups (onlyHomes_install _ _ _)
      · rfl
    dsimp only
    split
    · exact hwalk
    · exact (onlyHomes_groups (onlyHomes_trans (onlyHomes_cleanLines _) (onlyHomes_foldl (fun _ _ => onlyHomes_request _ _ _ _ _) _))).trans hwalk

theorem groups_engineReads (ag : Agent) (bs : List Bit) : (s.engineReads ag bs).1.groups = s.groups := by
  induction bs generalizing s with
  | nil => rfl
  | cons b bs ih => exact ih.trans (groups_engineRead ag b)

theorem groups_texTouch (a n : Nat) : (s.texTouch g a n).groups = s.groups := by
  unfold State.texTouch
  split
  · rfl
  · exact groups_engineReads _ _

theorem groups_engineError (die ctx a e : Nat) : (s.engineError die ctx a e).groups = s.groups := rfl

theorem group?_congr (h : t.groups = s.groups) (k : Nat) : t.group? k = s.group? k := by
  unfold State.group?
  rw [h]

/-- Group `h` is group `g` but for the registers, queues and count of results that a landed result writes. -/
def Landed (g h : Group) : Prop := ∃ r a b k, h = { g with regs := r, q0 := a, q1 := b, oscount := k }

theorem Landed.refl : Landed g g := ⟨g.regs, g.q0, g.q1, g.oscount, rfl⟩

theorem Landed.gid_eq {h : Group} (hl : Landed g h) : h.gid = g.gid := by
  obtain ⟨_, _, _, _, rfl⟩ := hl
  rfl

theorem landed_land (r : Outst) : Landed g (g.land r) := by
  have hregs : g.writeNamed ⟨r.dst.toNat, r.words⟩ r.vals r.mask = { g with regs := (g.writeNamed ⟨r.dst.toNat, r.words⟩ r.vals r.mask).regs } :=
    (namedFold g r.dst.toNat r.vals r.mask r.words).1
  unfold Group.land
  dsimp only
  rw [hregs]
  exact ⟨_, _, _, _, rfl⟩

/-- A landed result writes its own group's registers and queues alone. -/
theorem group?_landResult {r : Outst} (hg : s.group? gid = some g) : ∃ h, (s.landResult r).group? gid = some h ∧ Landed g h := by
  unfold State.landResult
  split
  case h_1 x hx =>
    have hland : (x.land r).gid = r.gid := (landed_land r).gid_eq.trans (group?_gid hx)
    split
    · exact ⟨g, hg, .refl⟩
    · by_cases hid : r.gid = gid
      · obtain rfl : x = g := Option.some.inj (hx.symm.trans (hid ▸ hg))
        exact ⟨x.land r, hid ▸ hland ▸ group?_putGroup_self (hland ▸ hx), landed_land r⟩
      · exact ⟨g, (group?_putGroup_ne (hland.trans_ne hid)).trans hg, .refl⟩
  case h_2 => exact ⟨g, hg, .refl⟩

/-- The result of an engine operation lands. -/
theorem group?_landEngine {oid : Nat} {vals : List Nat} (hg : s.group? gid = some g) :
    ∃ h, (s.landEngine oid vals).group? gid = some h ∧ Landed g h := by
  unfold State.landEngine
  split
  · exact group?_landResult hg
  · exact ⟨g, hg, .refl⟩

/-! ## Sampler and ray operations -/

/-- A group changed by `F`, if it is there. -/
def State.modGroup (s : State) (gid : Nat) (F : Group → Group) : State := match s.group? gid with
  | some g => s.putGroup (F g)
  | none => s

theorem group?_modGroup {F : Group → Group} (hF : ∀ h, (F h).gid = h.gid) (hg : s.group? gid = some g) :
    (s.modGroup gid F).group? gid = some (F g) := by
  have hid : (F g).gid = gid := (hF g).trans (group?_gid hg)
  unfold State.modGroup
  rw [hg]
  dsimp only
  exact hid ▸ group?_putGroup_self (hid ▸ hg)

theorem group?_engineChoose (die e : Nat) (waiting : List Nat) (k : Nat) : (s.engineChoose die e waiting).group? k = s.group? k := rfl

/-- A sampler operation has left its queue, and its counter passes it (R27, R424). -/
def Group.endSampler (n : Nat) (g : Group) : Group := { g with samp := g.samp.complete n, sampOps := g.sampOps.filter fun x => x.n ≠ n }
/-- A ray query has left its context, and its counter passes it (R27, R436). -/
def Group.endRay (n : Nat) (g : Group) : Group := { g with ray := g.ray.complete n, rayOps := g.rayOps.filter fun x => x.n ≠ n }

/-- The state behind a sampler operation's reads, the count of its events and its result. -/
def State.samplerLanded (s : State) (g : Group) (o : SampOp) (n : Nat) (rs : List (Nat × Nat)) (vs : List (Nat × List Word × List Nat)) : State :=
  let u := rs.foldl (fun (s : State) r => s.texTouch g r.1 r.2) (s.startSampler g n)
  let u := u.countEvents (u.ctxIdOf g) (coreCluster g.core) (if (samplerOf o.record).neural then 4 else 1)
    ((List.range 4).map (eventCount (vs.map fun v => v.2.2.foldl (fun e b => e ||| b) 0)))
  u.landEngine o.oid (perLane fun l => ((vs.find? fun v => v.1 = l).map fun v => valueOf v.2.1).getD 0)

theorem group?_samplerLanded {o : SampOp} {rs : List (Nat × Nat)} {vs : List (Nat × List Word × List Nat)} (hg : s.group? gid = some g) :
    ∃ h, (s.samplerLanded g o n rs vs).group? gid = some h ∧ Landed g h :=
  group?_landEngine ((group?_congr ((onlyCounts_groups (onlyCounts_countEvents _ _ _ _)).trans (groups_foldl (fun _ _ => groups_texTouch _ _) _)) gid).trans hg)

/-- A sampler operation whose reads succeed is carried out in its context's turn (R420). -/
theorem exec_samplerOpComplete {o : SampOp} {rs : List (Nat × Nat)} {vs : List (Nat × List Word × List Nat)} (hg : s.group? gid = some g)
    (hruns : s.engineRuns g = true) (ho : (g.sampOps.find? fun o => o.n = n) = some o) (hf : o.fault = none)
    (hturn : s.engineTurn (coreDie g.core) (textureUnit g.core) (s.ctxIdOf g) (s.samplersWaiting g.core) = true)
    (hrs : s.samplerReads g o (samplerOf o.record) = .ok rs) (hvs : s.sample g o (samplerOf o.record) = .ok vs) :
    let u := (s.samplerLanded g o n rs vs).modGroup gid (Group.endSampler n)
    exec (.samplerOpComplete gid n) s = .next (u.engineChoose (coreDie g.core) (textureUnit g.core) (u.samplersWaiting g.core)) := by
  intro u
  change execSamplerOpComplete gid n s = _
  unfold execSamplerOpComplete
  simp only [hg, ho, hf, hruns, hturn, hrs, hvs]
  rfl

/-- The walks of a ray query's lanes, each with its lane. -/
def State.rayWalks (s : State) (g : Group) (o : RayOp) : List (Nat × Walk) := (lanesOf o.mask).map fun l => (l, s.laneQuery g o l)

/-- The state behind a ray query's reads, the report of its errors and its result. -/
def State.rayLanded (s : State) (g : Group) (o : RayOp) (n : Nat) : State :=
  let ws := s.rayWalks g o
  let u := (ws.flatMap fun w => w.2.reads).dedup.foldl (fun (s : State) r => s.texTouch g r.1 r.2) (s.startRay g n)
  let u := (ws.filter fun w => w.2.q = .error).foldl (fun (s : State) _ => s.engineError (coreDie g.core) (s.ctxIdOf g) 0 3) u
  u.landEngine o.oid (perLane fun l => ((ws.find? fun w => w.1 = l).map fun w => o.words l w.2.q).getD 0)

theorem group?_rayLanded {o : RayOp} (hg : s.group? gid = some g) : ∃ h, (s.rayLanded g o n).group? gid = some h ∧ Landed g h :=
  group?_landEngine ((group?_congr ((groups_foldl (fun _ _ => groups_engineError _ _ _ _) _).trans (groups_foldl (fun _ _ => groups_texTouch _ _) _)) gid).trans hg)

/-- A ray query whose walks end without a fault is carried out in its context's turn (R434). -/
theorem exec_rayOpComplete {o : RayOp} (hg : s.group? gid = some g) (hruns : s.engineRuns g = true)
    (ho : (g.rayOps.find? fun o => o.n = n) = some o) (hf : o.fault = none)
    (hturn : s.engineTurn (coreDie g.core) (rayUnit g.core) (s.ctxIdOf g) (s.raysWaiting g.core) = true)
    (hends : ∀ l ∈ lanesOf o.mask, (s.laneQuery g o l).q ≠ .endless ∧ ∀ a, (s.laneQuery g o l).q ≠ .fault a) :
    let u := (s.rayLanded g o n).modGroup gid (Group.endRay n)
    exec (.rayOpComplete gid n) s = .next (u.engineChoose (coreDie g.core) (rayUnit g.core) (u.raysWaiting g.core)) := by
  intro u
  have hendless : ((s.rayWalks g o).any fun w => w.2.q = .endless) = false := by
    simpa [State.rayWalks] using fun l hl => (hends l hl).1
  change execRayOpComplete gid n s = _
  unfold execRayOpComplete
  simp only [hg, ho, hf, hruns, hturn, Bool.not_true, Bool.or_false, Option.isSome_none, Bool.false_eq_true, if_false]
  split
  case h_1 a ha =>
    obtain ⟨w, hw, hfault⟩ := List.exists_of_findSome?_eq_some ha
    obtain ⟨l, hl, rfl⟩ := List.mem_map.1 hw
    split at hfault
    case h_1 b hb => exact absurd hb ((hends l hl).2 b)
    case h_2 => cases hfault
  case h_2 =>
    refine (if_neg ?_).trans rfl
    exact Bool.eq_false_iff.1 hendless

/-! ## The choice of an engine -/

/-- The first of a list that `p` takes is `a` exactly where `a` comes before every other that `p` takes. -/
theorem find?_eq_some_iff_takeWhile {p : Nat → Bool} {a : Nat} {l : List Nat} (ha : p a = true) (hl : a ∈ l) :
    l.find? p = some a ↔ ∀ c, p c = true → c ≠ a → a ∈ l.takeWhile fun x => x ≠ c := by
  induction l with
  | nil => cases hl
  | cons x l ih =>
    by_cases hx : p x = true
    · rw [List.find?_cons_of_pos hx, Option.some.injEq]
      constructor
      · rintro rfl c - hc
        simp [Ne.symm hc]
      · intro h
        by_contra hne
        simpa [List.takeWhile_cons] using h x hx hne
    · have hxa : a ≠ x := fun e => hx (e ▸ ha)
      rw [List.find?_cons_of_neg hx, ih ((List.mem_cons.1 hl).resolve_left hxa)]
      refine forall_congr' fun c => forall_congr' fun hc => forall_congr' fun _ => ?_
      have hxc : x ≠ c := fun e => hx (e ▸ hc)
      rw [List.takeWhile_cons, if_pos (by simpa using hxc), List.mem_cons, or_iff_right hxa]

/-- A context that an engine has chosen, and whose work it can do, has the turn alone (log 94). -/
theorem engineTurn_of_chosen {die e c ctx : Nat} {waiting : List Nat} (hc : ((s.die die).arbOf e).chosen = some c) (hw : waiting.contains c = true) :
    s.engineTurn die e ctx waiting = true ↔ c = ctx := by
  have hfilter : (some c).filter waiting.contains = some c := if_pos hw
  unfold State.engineTurn State.engineNext
  simp only [hc, hfilter, decide_eq_true_eq, Option.some.injEq]

/-- Whether a context waits and is of the best class of those that wait. -/
def State.engineBest (s : State) (waiting : List Nat) (c : Nat) : Bool := waiting.contains c && waiting.all fun d => s.arbClass c ≤ s.arbClass d

theorem engineBest_iff {waiting : List Nat} {c : Nat} : s.engineBest waiting c = true ↔ c ∈ waiting ∧ ∀ d ∈ waiting, s.arbClass c ≤ s.arbClass d := by
  simp [State.engineBest]

/-- Where it has chosen none, the turn is of the first context of the best class, in the order of turns (R30). -/
theorem engineTurn_of_unchosen {die e ctx : Nat} {waiting : List Nat} (hctx : waiting.contains ctx = true)
    (hnone : ∀ c, ((s.die die).arbOf e).chosen = some c → waiting.contains c = false) :
    s.engineTurn die e ctx waiting = true ↔ (∀ c ∈ waiting, s.arbClass ctx ≤ s.arbClass c) ∧
      ∀ c ∈ waiting, s.arbClass c = s.arbClass ctx → c ≠ ctx → ((((s.die die).arbOf e).order ++ waiting).takeWhile fun x => x ≠ c).contains ctx = true := by
  have hfilter : ((s.die die).arbOf e).chosen.filter waiting.contains = none := by
    rw [Option.filter_eq_none_iff]
    exact fun c hc => by simpa using hnone c hc
  have hmem : ctx ∈ waiting := by simpa using hctx
  unfold State.engineTurn State.engineNext
  simp only [hfilter, decide_eq_true_eq]
  change List.find? (s.engineBest waiting) _ = some ctx ↔ _
  constructor
  · intro h
    obtain ⟨-, hmin⟩ := engineBest_iff.1 (List.find?_some h)
    have horder := (find?_eq_some_iff_takeWhile (List.find?_some h) (List.mem_append_right _ hmem)).1 h
    exact ⟨hmin, fun c hc hcls hne => List.contains_iff_mem.2 (horder c (engineBest_iff.2 ⟨hc, fun d hd => hcls ▸ hmin d hd⟩) hne)⟩
  · rintro ⟨hmin, horder⟩
    refine (find?_eq_some_iff_takeWhile (engineBest_iff.2 ⟨hmem, hmin⟩) (List.mem_append_right _ hmem)).2 fun c hc hne => ?_
    obtain ⟨hcw, hcmin⟩ := engineBest_iff.1 hc
    exact List.contains_iff_mem.1 (horder c hcw (le_antisymm (hcmin ctx hmem) (hmin c hcw)) hne)

/-! ## Gangs and arrays -/

/-- A gang operation that all members have issued, behind no earlier one of its tiles or its arrays, is performed in its context's turn (R366, R372). -/
theorem exec_gangOpComplete {x : Gang} {o : GangOp} (hx : s.gang? gid = some x) (ho : (x.ops.find? fun o => o.k = n) = some o)
    (helig : x.eligible o = true) (htiles : s.tileBehind x o = false) (harrays : x.arraysBehind o = false)
    (hturn : s.engineTurn (x.cluster / 48) (matrixEngine x.cluster) x.ctx (s.gangsWaiting x.cluster) = true) :
    let u := s.engineServe (x.cluster / 48) (matrixEngine x.cluster) x.ctx
      (s.gangs.any fun y => y.cluster = x.cluster && y.ctx = x.ctx && y.ops.any fun p => !(y.gid = gid && p.k = n))
    let t := ((u.performGang x o).gangDone x n).freeGang gid
    exec (.gangOpComplete gid n) s = .next (t.engineChoose (x.cluster / 48) (matrixEngine x.cluster) (t.gangsWaiting x.cluster)) := by
  have hready : s.gangReady x o = true := by simp [State.gangReady, helig, htiles, harrays]
  change execGangOpComplete gid n s = _
  unfold execGangOpComplete
  simp only [hx, ho, hready, hturn]
  rfl

section
variable {cl k : Nat} {a : MArray} (ha : (s.cluster cl).arrays[k]? = some a)
include ha

theorem exec_arrayIdleRampdown {c : Nat} (hup : a.ramp = .up c) (hwarm : c + 64 ≤ s.clock (cl / 48)) (hidle : a.lastMma + 256 ≤ s.clock (cl / 48))
    (hhold : a.hold ≤ s.clock (cl / 48)) : exec (.arrayIdleRampdown cl k) s = .next (s.modCluster cl fun x =>
      { x with arrays := x.arrays.modify k fun b => { b with ramp := .down (s.clock (cl / 48)), hold := 0 } }) := by
  change execArrayIdleRampdown cl k s = _
  unfold execArrayIdleRampdown
  simp only [ha, hup]
  exact if_pos (by simp [hwarm, hidle, hhold])

theorem exec_mburstHoldExpiry (hheld : a.hold ≠ 0) (hover : a.hold ≤ s.clock (cl / 48)) : exec (.mburstHoldExpiry cl k) s =
    .next (s.modCluster cl fun x => { x with arrays := x.arrays.modify k fun b => { b with hold := 0 } }) := by
  change execMburstHoldExpiry cl k s = _
  unfold execMburstHoldExpiry
  simp only [ha]
  exact if_pos (by simp [hheld, hover])

end

/-! ## Faults of engines -/

section
variable {src : EngineSource} {h : HeldFault} (hh : s.heldFault src = some h)
include hh

/-- The state after a fault that can be repaired has been posted: the event is raised, and the host's reply is awaited (R341, R442). -/
def State.faultPosted (s : State) (src : EngineSource) (h : HeldFault) : State :=
  let u := s.postEvent h.die 2 h.ag.ctx h.addr ((s.faultKind h).1 + if h.write then 65536 else 0)
  u.setEvents { u.events with waiting := u.events.waiting ++ [⟨h.ag.ctx, h.addr, some src, 0⟩] }

/-- A fault of an engine that is not yet reported is posted, or kills its context where nothing can repair it. -/
theorem exec_engineFault (hr : h.repaired = false) (hw : ∀ w ∈ s.events.waiting, w.src ≠ some src) : exec (.engineFault src) s =
    if (s.faultKind h).2 then .next (s.faultPosted src h) else .next (s.killContext h.die h.ag.ctx (s.faultKind h).1 h.crec) := by
  have hfirst : (s.events.waiting.any fun w => w.src = some src) = false := List.any_eq_false.2 fun w hwm => by simpa using hw w hwm
  change execEngineFault src s = _
  unfold execEngineFault
  simp only [hh, hr, hfirst]
  cases (s.faultKind h).2 with
  | true => rfl
  | false => rfl

theorem exec_engineFaultResume (hr : h.repaired = true) (hselvedge : ∀ fid v, src ≠ .selvedge fid v) (hlaunch : ∀ lid, src ≠ .launch lid)
    (hpacket : ∀ qid, src ≠ .packet qid) : exec (.engineFaultResume src) s = .next (s.setRepair src true false) := by
  change execEngineFaultResume src s = _
  unfold execEngineFaultResume
  simp only [hh, hr]
  cases src with
  | selvedge fid v => exact absurd rfl (hselvedge fid v)
  | launch lid => exact absurd rfl (hlaunch lid)
  | packet qid => exact absurd rfl (hpacket qid)
  | copy | sampler | ray | egress | raster | beater => rfl

end

theorem raised_faultPosted {src : EngineSource} {h : HeldFault} (hd : h.die < s.dies.length) : ((s.faultPosted src h).die h.die).raised =
    (s.die h.die).raised ++ [⟨2, h.die, h.ag.ctx, h.addr, (s.faultKind h).1 + if h.write then 65536 else 0⟩] := by
  have hdie : ((s.faultPosted src h).die h.die) = { s.die h.die with
      raised := (s.die h.die).raised ++ [⟨2, h.die, h.ag.ctx, h.addr, (s.faultKind h).1 + if h.write then 65536 else 0⟩] } := by
    change (s.dies.modify h.die _).getD h.die Die.reset = _
    rw [List.getD_eq_getElem?_getD, List.getElem?_modify_eq, State.die, List.getD_eq_getElem?_getD, List.getElem?_eq_getElem hd]
    rfl
  rw [hdie]

/-- Settles O44: each event by what it does where its condition holds; the choice of an engine by whether it has chosen already. -/
theorem engineEventsComplete : Obligations.EngineEventsComplete := by
  intro s gid n piece cl k src turn
  refine ⟨fun g hg hruns => ⟨fun o ho hf => ⟨fun hp hready => ?_, fun htodo hfirst => ?_, fun htodo hfirst => ?_⟩,
      fun o rs vs ho hf hturn hrs hvs => ?_, fun o ho hf hturn hends => ?_⟩,
    fun x o => exec_gangOpComplete, fun die e ctx waiting hctx => ?_, fun a ha => ?_, fun h hh => ?_⟩
  · have hexec := exec_copyPieceDelivery hg hruns ho hf hp hready
    exact ⟨fun hstarted => hexec.trans (if_pos hstarted),
      fun hstarted hturn => hexec.trans ((if_neg (by simp [hstarted])).trans (if_pos hturn))⟩
  · exact fun htcb => ⟨_, (exec_copyOpComplete hg hruns ho hf htodo hfirst).1 htcb, rfl⟩
  · exact (exec_copyOpComplete hg hruns ho hf htodo hfirst).2
  · obtain ⟨h, hh, _, _, _, _, rfl⟩ := group?_samplerLanded (n := n) (o := o) (rs := rs) (vs := vs) hg
    exact ⟨_, _, exec_samplerOpComplete hg hruns ho hf hturn hrs hvs,
      (group?_engineChoose _ _ _ _).trans (group?_modGroup (F := .endSampler n) (fun _ => rfl) hh), rfl, rfl⟩
  · obtain ⟨h, hh, _, _, _, _, rfl⟩ := group?_rayLanded (n := n) (o := o) hg
    exact ⟨_, _, exec_rayOpComplete hg hruns ho hf hturn hends,
      (group?_engineChoose _ _ _ _).trans (group?_modGroup (F := .endRay n) (fun _ => rfl) hh), rfl, rfl⟩
  · exact ⟨fun c => engineTurn_of_chosen, engineTurn_of_unchosen hctx⟩
  · exact ⟨fun c => exec_arrayIdleRampdown ha, exec_mburstHoldExpiry ha⟩
  · refine ⟨fun hr hw => ?_, exec_engineFaultResume hh⟩
    have hexec := exec_engineFault hh hr hw
    exact ⟨fun hkill => hexec.trans (if_neg (by simp [hkill])),
      fun hpost => ⟨_, hexec.trans (if_pos hpost), rfl, raised_faultPosted⟩⟩

end Sys2Proof.Machine
end

/-! # Decoding and encoding (R34 to R36, R50 to R52)

An encoding is a sum: an opcode's bits, and for each field its value times a power of 2. A field of such a sum is read off term by term:
a term above the field adds nothing to it, a term below it carries nothing into it, and its own term is the field. In the other direction,
the fields of a word add up to the word, since each is the difference of what stands below its two ends. -/

section
namespace Sys2Proof.Machine

open Fields

/-! ## Fields of a sum -/

section
variable {y v k p q : Nat}

theorem fld_eq (n lo w : Nat) : fld n lo w = BitVec.ofNat w (n / 2 ^ lo % 2 ^ w) := by
  apply BitVec.eq_of_toNat_eq
  simp [fld]

/-- A term above a field adds nothing to it. -/
theorem field_add_above (h : k % (p * q) = 0) : (y + v * k) / p % q = y / p % q := by
  obtain ⟨c, rfl⟩ := Nat.dvd_of_mod_eq_zero h
  rcases Nat.eq_zero_or_pos p with rfl | hp
  · simp
  · rw [show y + v * (p * q * c) = y + p * (q * (v * c)) by ring, Nat.add_mul_div_left _ _ hp, Nat.add_mul_mod_self_left]

/-- A field's own term is the field, where what else stands at its bits is less than one unit of the term. -/
theorem field_add_self {w : Nat} {x : BitVec w} (hk : k = p) (hq : q = 2 ^ w) (hy : y % (k * 2 ^ w) < k) : (y + x.toNat * k) / p % q = x.toNat := by
  subst hk hq
  have hrest : y / k % 2 ^ w = 0 := by
    rw [← Nat.mod_mul_right_div_self]
    exact Nat.div_eq_of_lt hy
  rw [Nat.add_mul_div_right _ _ (by omega), Nat.add_mod, hrest, zero_add, Nat.mod_mod, Nat.mod_eq_of_lt x.isLt]

/-- A term below a field carries nothing into it. -/
theorem field_add_below {w : Nat} {x : BitVec w} (hp : p % (k * 2 ^ w) = 0) (hy : y % (k * 2 ^ w) < k) : (y + x.toNat * k) / p % q = y / p % q := by
  obtain ⟨c, rfl⟩ := Nat.dvd_of_mod_eq_zero hp
  have hroom : x.toNat * k + k ≤ k * 2 ^ w := by
    rw [Nat.mul_comm x.toNat, ← Nat.mul_succ]
    exact Nat.mul_le_mul_left k x.isLt
  have hdiv : (y + x.toNat * k) / (k * 2 ^ w) = y / (k * 2 ^ w) := by
    conv_lhs => rw [← Nat.div_add_mod y (k * 2 ^ w), Nat.add_assoc, Nat.mul_add_div (by omega),
      Nat.div_eq_of_lt (by omega : y % (k * 2 ^ w) + x.toNat * k < k * 2 ^ w), Nat.add_zero]
  rw [← Nat.div_div_eq_div_mul, hdiv, Nat.div_div_eq_div_mul]

theorem add_mul_mod_of_mod_eq_zero (h : k % q = 0) : (y + v * k) % q = y % q := by
  obtain ⟨c, rfl⟩ := Nat.dvd_of_mod_eq_zero h
  rw [show y + v * (q * c) = y + q * (v * c) by ring, Nat.add_mul_mod_self_left]

/-- Words that agree in their low 30 bits agree in each field there. -/
theorem field_congr {n b : Nat} (h : n % 2 ^ 30 = b % 2 ^ 30) (hpq : 2 ^ 30 % (p * q) = 0) : n / p % q = b / p % q := by
  have hd := Nat.dvd_of_mod_eq_zero hpq
  rw [← Nat.mod_mul_right_div_self, ← Nat.mod_mul_right_div_self, ← Nat.mod_mod_of_dvd n hd, h, Nat.mod_mod_of_dvd b hd]

theorem toNat_ofBool_beq_one (b : Bool) : ((BitVec.ofBool b).toNat == 1) = b := by cases b <;> rfl

end

/-! ## Decoding what is encoded -/

/-- The encoding is of one word of `i`: its opcode is assigned, takes an extension word just where the encoding has one, and is the opcode of a row
that reads `i` from every word with these low 30 bits. -/
def ReadsAs (i : Instr) : Option (Marks × Nat × Option Word) → Prop
  | none => True
  | some (m, bits, e) => ∃ op < 256, bits / 2 ^ 22 % 1024 = op ∧ opAssigned op = true ∧ takesExt op = e.isSome ∧
      ∀ n x, n % 2 ^ 30 = bits % 2 ^ 30 → decodeFields m op n (e.getD x) = some i

section
variable {i j : Instr} {m : Marks} {bits op : Nat} {e : Option Word} {x : Word}

theorem ReadsAs.intro (hop : bits / 2 ^ 22 % 1024 = op) (hlt : op < 256) (has : opAssigned op = true) (he : takesExt op = e.isSome)
    (hrow : ∀ n x, n % 2 ^ 30 = bits % 2 ^ 30 → decodeFields m op n (e.getD x) = some i) : ReadsAs i (some (m, bits, e)) :=
  ⟨op, hlt, hop, has, he, hrow⟩

/-- The two shapes of a row: fields alone, and fields behind a guard. Each names what a literal opcode's row is, by definition. -/
theorem row_plain (h : some j = some i) : some j = some i := h
theorem row_guarded {c : Prop} [Decidable c] {o : Option Instr} (h : (if c then some j else o) = some i) : (if c then some j else o) = some i := h

/-- The multiple of a last term without one, as in BRK's row. -/
theorem readsAs_brk {n : Bool} {k : BitVec 3} {t : BitVec 18} {jw : Word} (h : ReadsAs i (some (m, 541065216 + n.toNat * 2097152 + k.toNat * 262144 + t.toNat * 1, some jw))) :
    ReadsAs i (encodeFields (.brk m n k t jw)) := by
  rwa [Nat.mul_one] at h

/-- Each row reads back the fields that its encoding adds up. -/
theorem readsAs_encodeFields (i : Instr) : ReadsAs i (encodeFields i) := by
  cases i
  case' brk => apply readsAs_brk
  all_goals try exact trivial
  all_goals
    apply ReadsAs.intro
    case hop =>
      try simp only [field_add_below, add_mul_mod_of_mod_eq_zero, ← BitVec.toNat_ofBool, Nat.reduceMod, Nat.reducePow, Nat.reduceMul, Nat.reduceLT]
      exact rfl
    case hlt => decide
    case has => rfl
    case he => rfl
    case hrow =>
      intro n x hn
      first | refine row_guarded ?_ | refine row_plain ?_
      simp only [fld_eq, sub, bit, field_congr hn, field_add_above, field_add_self, field_add_below, add_mul_mod_of_mod_eq_zero, ← BitVec.toNat_ofBool,
        toNat_ofBool_beq_one, BitVec.ofNat_toNat, BitVec.setWidth_eq, Nat.reducePow, Nat.reduceMul, Nat.reduceDiv, Nat.reduceMod, Nat.reduceLT,
        Nat.reduceEqDiff, Nat.succ_ne_self, OfNat.ofNat_ne_zero, and_self, reduceIte, Option.getD_some]

end

section
variable {i : Instr} {m : Marks} {bits : Nat} {e : Option Word}

theorem encode_of_encodeFields (h : encodeFields i = some (m, bits, e)) : encode i = BitVec.ofNat 32 (marksBits m + bits) :: e.toList := by
  unfold encode
  rw [h]

/-- The opcode of the word that an encoding gives, its marks, and its other fields. -/
theorem word_of_bits (hbits : bits / 2 ^ 22 % 1024 < 256) : let w := BitVec.ofNat 32 (marksBits m + bits)
    opOf w = bits / 2 ^ 22 % 1024 ∧ marksOf w = m ∧ w.toNat % 2 ^ 30 = bits % 2 ^ 30 := by
  intro w
  have hlow : bits % 2 ^ 32 < 2 ^ 30 := by omega
  have hm : marksBits m < 2 ^ 32 - 2 ^ 30 + 1 ∧ marksBits m / 2 ^ 31 = m.s.toNat ∧ marksBits m / 2 ^ 30 % 2 = m.p.toNat ∧ marksBits m % 2 ^ 30 = 0 := by
    obtain ⟨s, p⟩ := m
    cases s <;> cases p <;> decide
  have hw : w.toNat = marksBits m + bits % 2 ^ 32 := by
    simp only [w, BitVec.toNat_ofNat]
    omega
  obtain ⟨hlt, hs, hp, hz⟩ := hm
  refine ⟨?_, ?_, ?_⟩
  · unfold opOf
    omega
  · have h31 : w.toNat / 2 ^ 31 % 2 = m.s.toNat := by omega
    have h30 : w.toNat / 2 ^ 30 % 2 = m.p.toNat := by omega
    unfold marksOf bit
    rw [h31, h30]
    obtain ⟨s, p⟩ := m
    cases s <;> cases p <;> rfl
  · omega

/-- The words of an encoding decode to the instruction. -/
theorem decodeWord_encode (h : encodeFields i = some (m, bits, e)) : let w := BitVec.ofNat 32 (marksBits m + bits)
    takesExt (opOf w) = e.isSome ∧ ∀ x, decodeWord w (e.getD x) = .ok i := by
  intro w
  have hr := readsAs_encodeFields i
  rw [h] at hr
  obtain ⟨op, hlt, hop, has, he, hrow⟩ := hr
  obtain ⟨hopOf, hmarks, hlow⟩ := word_of_bits (m := m) (hop ▸ hlt)
  rw [hop] at hopOf
  refine ⟨(congrArg takesExt hopOf).trans he, fun x => ?_⟩
  unfold decodeWord
  rw [hopOf, has, hmarks, hrow _ x hlow]
  rfl

theorem ofBytes_wordBytes (w : Word) : ofBytes (wordBytes w) = w.toNat := by
  have := w.isLt
  simp only [wordBytes, bytesOf, List.range, List.range.loop, List.map_cons, List.map_nil, ofBytes, BitVec.toNat_ofNat]
  omega

theorem word_wordBytes (w : Word) : BitVec.ofNat 32 (ofBytes (wordBytes w)) = w := by
  rw [ofBytes_wordBytes, BitVec.ofNat_toNat, BitVec.setWidth_eq]

theorem decodeBytes_one (w : Word) (bs : List Byte) (h : takesExt (opOf w) = false) (hi : ∀ x, decodeWord w x = .ok i) :
    decodeBytes (wordBytes w ++ bs) = .ok (i, bs) := by
  have hlen : (wordBytes w).length = 4 := length_bytesOf _ _
  unfold decodeBytes
  simp only [List.take_left' hlen, word_wordBytes, hi, h, Bool.false_eq_true, if_false, List.drop_left' hlen]

theorem decodeBytes_two (w x : Word) (bs : List Byte) (h : takesExt (opOf w) = true) (hi : decodeWord w x = .ok i) :
    decodeBytes (wordBytes w ++ (wordBytes x ++ bs)) = .ok (i, bs) := by
  have hlen (w : Word) : (wordBytes w).length = 4 := length_bytesOf _ _
  have hdrop : (wordBytes w ++ (wordBytes x ++ bs)).drop 8 = bs := by
    rw [← List.append_assoc]
    exact List.drop_left' (by rw [List.length_append, hlen, hlen])
  unfold decodeBytes
  simp only [List.take_left' (hlen _), List.drop_left' (hlen _), word_wordBytes, hi, h, if_true, hdrop]

/-- The bytes of an encoding decode to the instruction and leave the bytes behind it. -/
theorem decodeBytes_encode (bs : List Byte) (h : encodeFields i = some (m, bits, e)) : decodeBytes ((encode i).flatMap wordBytes ++ bs) = .ok (i, bs) := by
  obtain ⟨hext, hword⟩ := decodeWord_encode h
  rw [encode_of_encodeFields h, List.flatMap_cons]
  cases e with
  | none => exact decodeBytes_one _ _ hext hword
  | some x =>
    rw [Option.toList_some, List.flatMap_singleton, List.append_assoc]
    exact decodeBytes_two _ x _ hext (hword x)

end

/-! ## Encoding what is decoded -/

theorem toNat_fld (n lo w : Nat) : (fld n lo w).toNat = sub n lo w := BitVec.toNat_ofNat ..

theorem toNat_bit (n i : Nat) : (bit n i).toNat = sub n i 1 := by
  unfold bit sub
  rcases Nat.mod_two_eq_zero_or_one (n / 2 ^ i) with h | h <;> simp [h]

/-- What stands below bit `k` of a word. -/
def below (n k : Nat) : Int := (n % 2 ^ k : Nat)

section
variable {n lo w : Nat}

theorem below_zero : below n 0 = 0 := by simp [below, Nat.mod_one]

theorem below_add : below n (lo + w) = below n lo + (sub n lo w : Nat) * 2 ^ lo := by
  unfold below sub
  rw [pow_add, Nat.mod_mul]
  push_cast
  ring

theorem sub_eq_iff {v : Nat} : sub n lo w = v ↔ below n (lo + w) = below n lo + v * 2 ^ lo := by
  rw [below_add, add_right_inj, mul_left_inj' (by positivity), Nat.cast_inj]

/-- What a field adds to its word is the difference of what stands below its two ends. -/
theorem cast_sub_mul {k : Int} (hk : k = 2 ^ lo) : (sub n lo w : Int) * k = below n (lo + w) - below n lo := by
  rw [hk, below_add]
  ring

theorem cast_sub_zero : (sub n 0 w : Int) = below n w := by simp [sub, below]

end

/-- The encoding of `i` is of the word of marks `m`, opcode `op` and bits `n`, with extension word `x` if it takes one. -/
def WrittenAs (m : Marks) (op n : Nat) (x : Word) (i : Instr) : Prop :=
  encodeFields i = some (m, op * 2 ^ 22 + n % 2 ^ 22, if takesExt op then some x else none)

section
variable {m : Marks} {op n b c : Nat} {x : Word} {i j : Instr} {e : Option Word} {P : Instr → Prop} {o : Option Instr}

theorem WrittenAs.intro (hi : encodeFields i = some (m, b, e)) (hc : op * 2 ^ 22 = c) (he : (if takesExt op then some x else none) = e)
    (h : (b : Int) = c + below n 22) : WrittenAs m op n x i := by
  subst hc he
  unfold below at h
  rw [WrittenAs, hi, show b = op * 2 ^ 22 + n % 2 ^ 22 by exact_mod_cast h]

theorem forall_mem_none : ∀ i ∈ (none : Option Instr), P i := nofun

theorem forall_mem_some (h : P j) : ∀ i ∈ some j, P i := by
  rintro _ ⟨⟩
  exact h

theorem forall_mem_guarded {c : Prop} [Decidable c] (h : c → P j) (h' : ∀ i ∈ o, P i) : ∀ i ∈ (if c then some j else o), P i := by
  split
  case isTrue hc => exact forall_mem_some (h hc)
  case isFalse => exact h'

/-- What a row reads from a word is written as that word: its fields, and the zeros that its guard asks for, fill bits 21 to 0. -/
theorem writtenAs_decodeFields (m : Marks) (op n : Nat) (x : Word) (hop : op < 256) : ∀ i ∈ decodeFields m op n x, WrittenAs m op n x i := by
  interval_cases op
  all_goals repeat' first | exact forall_mem_none | refine forall_mem_some ?_ | refine forall_mem_guarded (fun hc => ?_) ?_
  all_goals
    refine WrittenAs.intro rfl rfl rfl ?_
    simp only [toNat_fld, toNat_bit, sub_eq_iff, cast_sub_mul, cast_sub_zero, below_zero, Nat.cast_add, Nat.cast_mul, Nat.cast_ofNat, Nat.cast_zero, Nat.cast_one,
      Nat.reduceAdd, Int.reducePow, zero_mul, one_mul, mul_one, add_zero] at *
    omega

/-- A word that decodes is the encoding of what it decodes to. -/
theorem encode_decodeWord {w : Word} (h : decodeWord w x = .ok i) : encode i = w :: (if takesExt (opOf w) then [x] else []) := by
  unfold decodeWord at h
  split at h
  case isFalse => cases h
  case isTrue =>
    split at h
    case h_2 => cases h
    case h_1 j hj =>
      cases h
      have hw : marksBits (marksOf w) + (opOf w * 2 ^ 22 + w.toNat % 2 ^ 22) = w.toNat := by
        have := w.isLt
        simp only [marksBits, marksOf, toNat_bit, sub, opOf]
        omega
      have hop : opOf w < 256 := Nat.mod_lt _ (by decide)
      rw [encode_of_encodeFields (writtenAs_decodeFields _ _ _ _ hop _ hj), hw, BitVec.ofNat_toNat, BitVec.setWidth_eq]
      split <;> rfl

end

/-! ## Rows without a word -/

theorem encode_eq_nil_iff {i : Instr} : encode i = [] ↔ encodeFields i = none := by
  unfold encode
  split
  case h_1 h => simp [h]
  case h_2 h => simp [h]

/-- The rows that are no instruction words: the events, and the two traps of a word that does not execute. -/
theorem encodeFields_eq_none_iff {i : Instr} :
    encodeFields i = none ↔ isEvent i = true ∨ (∃ w, i = .notAnInstruction w) ∨ ∃ a, i = .instructionFetchFault a := by
  unfold isEvent
  split
  case h_1 w => exact ⟨fun _ => .inr (.inl ⟨w, rfl⟩), fun _ => rfl⟩
  case h_2 a => exact ⟨fun _ => .inr (.inr ⟨a, rfl⟩), fun _ => rfl⟩
  case h_3 hw ha =>
    rw [Option.isNone_iff_eq_none]
    refine ⟨.inl, ?_⟩
    rintro (h | ⟨w, rfl⟩ | ⟨a, rfl⟩)
    · exact h
    · exact absurd rfl (hw w)
    · exact absurd rfl (ha a)

/-- Settles O55: by the rows in both directions; bytes and words of one row are put together and taken apart as its extension word says. -/
theorem decodeEncode : Obligations.DecodeEncode := by
  refine ⟨fun i bs h => ?_, fun i => encode_eq_nil_iff.trans encodeFields_eq_none_iff, fun w x i => encode_decodeWord⟩
  obtain ⟨⟨m, bits, e⟩, hi⟩ := Option.ne_none_iff_exists'.1 (mt encode_eq_nil_iff.2 h)
  exact decodeBytes_encode bs hi

end Sys2Proof.Machine
end

/-! # Words of the tables (R34, R35, R50 to R52) and condition codes (R46, R129) -/

section
namespace Sys2Proof.Machine

/-- Settles O56: the rows of these opcodes, evaluated. -/
theorem wordsDecode : Obligations.WordsDecode :=
  ⟨rfl, rfl, rfl, rfl, rfl, rfl, rfl, rfl, rfl, rfl, rfl, rfl, rfl, rfl, rfl, rfl, rfl, rfl, fun _ => rfl, fun _ => rfl, fun _ => rfl⟩

section
variable {w : Nat} (a b : BitVec w)

theorem intValue_signed : intValue true w a.toNat = a.toInt := by
  rw [BitVec.toInt_eq_toNat_cond]
  simp only [intValue, signedOf, Nat.mod_eq_of_lt a.isLt, if_true]
  split <;> simp

theorem intValue_unsigned : intValue false w a.toNat = a.toNat := by
  simp only [intValue, Nat.mod_eq_of_lt a.isLt, Bool.false_eq_true, if_false]

/-- Codes 0 to 5 on signed values. -/
theorem condInt_signed : condInt 0 a.toInt b.toInt = (a == b) ∧ condInt 1 a.toInt b.toInt = (a != b) ∧ condInt 2 a.toInt b.toInt = a.slt b ∧
    condInt 3 a.toInt b.toInt = a.sle b ∧ condInt 4 a.toInt b.toInt = b.slt a ∧ condInt 5 a.toInt b.toInt = b.sle a := by
  have heq : decide (a.toInt = b.toInt) = (a == b) := by rw [Bool.eq_iff_iff]; simp [BitVec.toInt_inj]
  exact ⟨heq, by simp only [condInt, bne, ← heq, ne_eq, decide_not], rfl, rfl, rfl, rfl⟩

/-- Codes 0 to 5 on unsigned values. -/
theorem condInt_unsigned : condInt 0 a.toNat b.toNat = (a == b) ∧ condInt 1 a.toNat b.toNat = (a != b) ∧ condInt 2 a.toNat b.toNat = a.ult b ∧
    condInt 3 a.toNat b.toNat = a.ule b ∧ condInt 4 a.toNat b.toNat = b.ult a ∧ condInt 5 a.toNat b.toNat = b.ule a := by
  have heq : decide ((a.toNat : Int) = b.toNat) = (a == b) := by rw [Bool.eq_iff_iff]; simp [BitVec.toNat_inj]
  exact ⟨heq, by simp only [condInt, bne, ← heq, ne_eq, decide_not], by simp [condInt, BitVec.ult], by simp [condInt, BitVec.ule],
    by simp [condInt, BitVec.ult], by simp [condInt, BitVec.ule]⟩

end

theorem compare_int {t w : Nat} {signed : Bool} (ht : elemOf t = .int signed w) (c a b : Nat) :
    (compare t c a b).1 = condInt c (intValue signed w a) (intValue signed w b) := by
  unfold compare
  rw [ht]

theorem compare_signed {t w : Nat} (ht : elemOf t = .int true w) (c : Nat) (a b : BitVec w) : (compare t c a.toNat b.toNat).1 = condInt c a.toInt b.toInt := by
  rw [compare_int ht, intValue_signed, intValue_signed]

theorem compare_unsigned {t w : Nat} (ht : elemOf t = .int false w) (c : Nat) (a b : BitVec w) :
    (compare t c a.toNat b.toNat).1 = condInt c a.toNat b.toNat := by
  rw [compare_int ht, intValue_unsigned, intValue_unsigned]

/-- Settles O10: each of the four types compares the values that it reads its operands as. -/
theorem conditionCodes : Obligations.ConditionCodes := by
  refine ⟨fun a b => ?_, fun a b => ?_⟩
  · simp only [compare_signed (t := 0) rfl, compare_unsigned (t := 1) rfl, condInt_signed, condInt_unsigned, and_self]
  · simp only [compare_signed (t := 2) rfl, compare_unsigned (t := 3) rfl, condInt_signed, condInt_unsigned, and_self]

end Sys2Proof.Machine
end

/-! # The checks at issue, in their order (R55, R81 to R83, R89) -/

section
namespace Sys2Proof.Machine

variable {s : State} {f : Frag} {i : Instr} {m : Marks} {n : Need}

/-- The word is not ready: its marks wait, the long-latency count is full, or its turn to load has not come (R83, R89). -/
def State.waits (s : State) (f : Frag) (m : Marks) (n : Need) : Prop :=
  ((m.s = true ∨ ∃ x, f.sl.lit = some x ∧ x.sw = true) ∧ f.g.oscount ≠ 0) ∨ (n.late = true ∧ 63 ≤ f.g.oscount) ∨ (n.load = true ∧ s.mayLoad f.g = false)

theorem waits_iff : s.waits f m n ↔ ((m.s || f.sl.lit.any fun x => x.sw) && f.g.oscount ≠ 0) = true ∨ (n.late && 63 ≤ f.g.oscount) = true ∨
    (n.load && !s.mayLoad f.g) = true := by
  unfold State.waits
  cases f.sl.lit <;> simp

theorem gate_of_waits (h : s.waits f m n) : s.gate f i m n = .hold := by
  unfold State.gate
  rcases waits_iff.1 h with h | h | h <;> simp only [h, if_true, ite_self]

/-- The checks of a word that is ready, each with its trap (R55). -/
def Frag.checks (f : Frag) (i : Instr) (n : Need) : Gate :=
  if !n.role then .trap 0x01
  else if n.priv && !f.g.fw then .trap 0x0B
  else if !(i.wellFormed && n.inAllot f && n.legal) then .trap 0x02
  else if !n.typed then .trap 0x03
  else ((f.readTrap (n.reads f)).or (n.dst.bind f.dstTrap)).elim .go .trap

theorem gate_of_ready (h : ¬s.waits f m n) : s.gate f i m n = f.checks i n := by
  rw [waits_iff, not_or, not_or] at h
  obtain ⟨hmarks, hlate, hload⟩ := h
  unfold State.gate Frag.checks
  rw [if_neg hmarks, if_neg hlate, if_neg hload]
  cases f.readTrap (n.reads f) <;> cases n.dst.bind f.dstTrap <;> rfl

/-- What reading one queue entry traps. -/
theorem wordTrap_queue {k : Nat} (hk : k < 16) : f.wordTrap k = ((f.g.queue f.slot)[k]?).elim (some 0x05) fun e =>
    if e.transient = true ∧ 3 ≤ k then some 0x06 else if e.pend = true then some 0x04 else none := by
  unfold Frag.wordTrap
  rw [if_pos hk]
  cases (f.g.queue f.slot)[k]? <;> simp

theorem wordTrap_named {k : Nat} (hk : 16 ≤ k) : f.wordTrap k = if k ∈ f.g.regs.pend then some 0x04 else none := by
  unfold Frag.wordTrap
  rw [if_neg (by omega)]
  simp

/-- Settles O57: a word that waits is held; one that is ready goes through its checks. -/
theorem gateOrder : Obligations.GateOrder := by
  intro s f i m n waits role priv operands typed
  refine ⟨gate_of_waits, fun hready => ?_, fun k hk he => ?_, fun k e hk he => ?_, fun k => wordTrap_named⟩
  · have hrole : (!n.role) = true ↔ ¬role := by simp [role]
    have hpriv : (n.priv && !f.g.fw) = true ↔ ¬priv := by
      simp only [priv, not_or, Bool.and_eq_true, Bool.not_eq_true', Bool.not_eq_true, Bool.not_eq_false]
    have hoperands : (!(i.wellFormed && n.inAllot f && n.legal)) = true ↔ ¬operands := by
      simp only [operands, Bool.not_eq_true', ← Bool.not_eq_true, Bool.and_eq_true, and_assoc]
    have htyped : (!n.typed) = true ↔ ¬typed := by simp [typed]
    simp only [gate_of_ready hready, Frag.checks, hrole, hpriv, hoperands, htyped]
    refine ⟨fun hr => if_pos hr, fun hr hp => ?_, fun hr hp ho => ?_, fun hr hp ho ht => ?_, fun hr hp ho ht => ?_⟩
    · rw [if_neg (not_not.2 hr), if_pos hp]
    · rw [if_neg (not_not.2 hr), if_neg (not_not.2 hp), if_pos ho]
    · rw [if_neg (not_not.2 hr), if_neg (not_not.2 hp), if_neg (not_not.2 ho), if_pos ht]
    · rw [if_neg (not_not.2 hr), if_neg (not_not.2 hp), if_neg (not_not.2 ho), if_neg (not_not.2 ht)]
      refine ⟨fun c hc => by rw [hc]; rfl, fun hsrc => ⟨fun c hc => by rw [hsrc, hc]; rfl, fun hdst => by rw [hsrc, hdst]; rfl⟩⟩
  · rw [wordTrap_queue hk, he]
    rfl
  · rw [wordTrap_queue hk, he]
    rfl

end Sys2Proof.Machine
end

/-! # NOP, YIELD, SETM and LIT (R48, R115, R117, R118, R163) -/

section
namespace Sys2Proof.Machine

variable {s : State} {f : Frag} {m : Marks}

/-- Whether a write mask selects bit `k` of MODE (R48). -/
def modeBit (wm : BitVec 4) (k : Nat) : Bool :=
  if k < 4 then wm.getLsbD 0 else if k < 7 then wm.getLsbD 1 else if k = 7 then wm.getLsbD 2 else if k < 12 then wm.getLsbD 3 else false

/-- The bits of MODE that a write mask selects. -/
def modeMask (wm : BitVec 4) : Word :=
  (if wm.getLsbD 0 then 0xF else 0) ||| (if wm.getLsbD 1 then 0x70 else 0) ||| (if wm.getLsbD 2 then 0x80 else 0) ||| (if wm.getLsbD 3 then 0xF00 else 0)

theorem modeWrite_eq (wm : BitVec 4) (v : Nat) (old : Word) :
    modeWrite wm v old = (old &&& ~~~modeMask wm) ||| (BitVec.ofNat 32 v &&& modeMask wm) := rfl

theorem getLsbD_modeMask : ∀ (wm : BitVec 4) (k : Fin 32), (modeMask wm).getLsbD k = modeBit wm k := by decide

/-- A bit of MODE after SETM: that of v where WM selects it. -/
theorem getLsbD_modeWrite (wm : BitVec 4) (v : Nat) (old : Word) {k : Nat} (hk : k < 32) :
    (modeWrite wm v old).getLsbD k = if modeBit wm k then v.testBit k else old.getLsbD k := by
  have hmask := getLsbD_modeMask wm ⟨k, hk⟩
  simp only at hmask
  simp only [modeWrite_eq, BitVec.getLsbD_or, BitVec.getLsbD_and, BitVec.getLsbD_not, BitVec.getLsbD_ofNat, hk, decide_true, Bool.true_and, hmask]
  cases modeBit wm k <;> simp

theorem setMode_group {x : Group} (h : s.group? f.g.gid = some x) (v : Word) : s.setMode f v = s.putGroup { x with mode := v } := by
  unfold State.setMode
  rw [h]

/-- SETM goes on with MODE written. -/
theorem passes_setMode (hf : s.frag? = some f) (v : Word) : Passes s f m 0 { f.g with mode := v } ((s.setMode f v).goOn f m) := by
  obtain ⟨hgroup, _, _, hslot, _⟩ := frag?_some hf
  rw [setMode_group hgroup]
  exact passes_put hgroup rfl hslot

theorem exec_nop (h : Runs s f (.nop m) m {}) : exec (.nop m) s = .next (s.goOn f m) := issue_go h

theorem exec_yield (h : Runs s f (.yield m) m {}) : exec (.yield m) s = .next ((s.putGroup { f.g with yielded := true }).goOn f m) := issue_go h

theorem exec_setmImm {wm : BitVec 4} {v : BitVec 12} (h : Runs s f (.setmImm m wm v) m { legal := modeLegal wm v.toNat }) :
    exec (.setmImm m wm v) s = .next ((s.setMode f (modeWrite wm v.toNat f.g.mode)).goOn f m) := issue_go h

theorem exec_setmReg {wm : BitVec 4} {a : Code} (h : Runs s f (.setmReg m wm a) m { srcs := [opnd a 1] })
    (hv : f.src a 1 f.low < 2 ^ 12) (hlegal : modeLegal wm (f.src a 1 f.low) = true) :
    exec (.setmReg m wm a) s = .next ((s.setMode f (modeWrite wm (f.src a 1 f.low) f.g.mode)).goOn f m) := by
  refine (issue_go h).trans (if_pos ?_)
  simp only [hlegal, Nat.div_eq_of_lt hv, decide_true, Bool.and_self]

theorem exec_lit {lit w : Word} (hw : s.fetchWord f.g (f.sl.pc.toNat + 8) = .ok w)
    (h : Runs s f (.lit m lit) { m with s := m.s || w.getLsbD 31 } { legal := !litMisused f w }) :
    exec (.lit m lit) s = .next (s.putGroup (f.g.setSlot f.slot (some { f.sl with pc := f.sl.pc + 8, lit := some ⟨f.sl.pc, lit, m.s⟩ }))) := by
  show execLit m lit s = _
  unfold execLit
  rw [h.1]
  dsimp only
  rw [hw]
  exact issue_go (n := fun f => { legal := !litMisused f w }) h

/-- Settles O4: each goes on with its group as it says, and MODE is written bit by bit. -/
theorem modeAndLiteralComplete : Obligations.ModeAndLiteralComplete := by
  intro s f m a wm v lit w bits u
  refine ⟨fun h => ⟨_, exec_nop h, ?_⟩, fun h => ⟨_, exec_yield h, ?_⟩, fun h => ⟨_, _, exec_setmImm h, passes_setMode h.1 _, fun k => ?_⟩,
    fun h hv hlegal => ⟨_, _, exec_setmReg h hv hlegal, passes_setMode h.1 _, fun k => getLsbD_modeWrite wm u f.g.mode⟩, exec_lit⟩
  · obtain ⟨hgroup, _, _, hslot, _⟩ := frag?_some h.1
    exact passes_self hgroup hslot
  · obtain ⟨hgroup, _, _, hslot, _⟩ := frag?_some h.1
    exact passes_put hgroup rfl hslot
  · exact getLsbD_modeWrite wm v.toNat f.g.mode

end Sys2Proof.Machine
end

/-! # RET, JMPI, EXIT, GROW and TRAP (R56, R161, R162, R164 to R166) -/

section
namespace Sys2Proof.Machine

variable {s : State} {f : Frag} {m : Marks}

/-- The two halves of a link put together. -/
theorem link_eq (hi lo : Word) : hi.setWidth 64 <<< 32 ||| lo.setWidth 64 = BitVec.ofNat 64 (hi.toNat * 2 ^ 32 + lo.toNat) := by
  apply BitVec.eq_of_toNat_eq
  have hsum : hi.toNat <<< 32 + lo.toNat = hi.toNat <<< 32 ||| lo.toNat := Nat.shiftLeft_add_eq_or_of_lt lo.isLt _
  rw [Nat.shiftLeft_eq] at hsum
  have hhi := hi.isLt
  have hlo := lo.isLt
  rw [BitVec.toNat_or, BitVec.toNat_shiftLeft, BitVec.toNat_setWidth, BitVec.toNat_setWidth, BitVec.toNat_ofNat, Nat.mod_eq_of_lt (by omega),
    Nat.mod_eq_of_lt (by omega), Nat.shiftLeft_eq, Nat.mod_eq_of_lt (by omega), Nat.mod_eq_of_lt (by omega), hsum]

theorem stacked_sl : (s.stacked f).sl = f.sl := by
  unfold State.stacked
  split <;> rfl

theorem jumpOut_aligned {ext : Nat} {pc : Addr} (h : pc.toNat % 4 = 0) :
    jumpOut s f m ext pc = .next (s.transfer (s.stacked f) m ext (s.stacked f).g (f.sl.goTo pc)) := by
  unfold jumpOut State.jump
  rw [if_pos (by simpa [aligned4] using h), stacked_sl]

theorem jumpOut_misaligned {ext : Nat} {pc : Addr} (h : pc.toNat % 4 ≠ 0) :
    jumpOut s f m ext pc = .next (s.takeTrap f (maskAt f.sl m ext) ⟨0x07, 0, pc.toNat, f.sl.mask⟩) := by
  unfold jumpOut
  rw [if_neg (by simpa [aligned4] using h)]

theorem exec_ret (h : Runs s f (.ret m) m { srcs := [⟨62, 2⟩] }) :
    exec (.ret m) s = jumpOut s f m 0 (BitVec.ofNat 64 ((f.g.gReg 7).toNat * 2 ^ 32 + (f.g.gReg 6).toNat)) := by
  rw [← link_eq]
  exact issue_go h

theorem exec_jmpi {a : Code} (h : Runs s f (.jmpi m a) m { srcs := [opnd a 2] }) :
    exec (.jmpi m a) s = jumpOut s f m 0 (BitVec.ofNat 64 (f.src a 2 f.low)) := issue_go h

theorem exec_exit (h : Runs s f (.exit m) m {}) : exec (.exit m) s = .next (s.exitLanes f) := issue_go h

theorem exec_grow {x : BitVec 4} (h : Runs s f (.grow m x) m { legal := (s.launchOf f.g).any fun l => l.kd.allot = x.toNat }) :
    exec (.grow m x) s = if f.g.grown then .next (s.goOn f m) else .next (s.park f (.grow (unitLen m 0))) :=
  issue_go (n := fun f => { legal := (s.launchOf f.g).any fun l => l.kd.allot = x.toNat }) h

theorem exec_trap {i : BitVec 10} (h : Runs s f (.trap m i) m {}) :
    exec (.trap m i) s = .next (s.takeTrap f (maskAt f.sl m 0) ⟨0x12, i.toNat, 0, f.sl.mask⟩) := issue_go h

/-- Settles O16: a jump by the target's alignment, GROW by whether the group has grown. -/
theorem jumpsComplete : Obligations.JumpsComplete := by
  intro s f m a i x dest ja nGrow
  refine ⟨fun h => ?_, fun h => ?_, exec_exit, fun h => ⟨fun hgrown => ?_, fun hgrown => ?_⟩, exec_trap⟩
  · rw [exec_ret h]
    exact ⟨jumpOut_aligned, jumpOut_misaligned⟩
  · rw [exec_jmpi h]
    exact ⟨jumpOut_aligned, jumpOut_misaligned⟩
  · obtain ⟨hgroup, _, _, hslot, _⟩ := frag?_some h.1
    exact ⟨_, (exec_grow h).trans (if_pos hgrown), passes_self hgroup hslot⟩
  · exact (exec_grow h).trans (if_neg (by simp [hgrown]))

end Sys2Proof.Machine
end

/-! # A copy command that its context has no room for (R55, R98, R323) -/

section
namespace Sys2Proof.Machine

variable {s : State} {f : Frag}

/-- A copy command is held while its context holds 32 operations, before any check of R55. -/
theorem exec_cpy_copyFull {m : Marks} {d a : Code} {x : Bool} (h : s.copyFull = true) : exec (.cpy m d a x) s = .next s := if_pos h

theorem copyFull_of_length (hf : s.frag? = some f) (hlen : 32 ≤ f.g.copyOps.length) : s.copyFull = true := by
  unfold State.copyFull
  rw [hf]
  exact decide_eq_true hlen

/-- A group that may issue is not parked by a trap. -/
theorem phase_of_mayIssue {g : Group} (h : s.mayIssue g = true) : g.phase = .none := by
  unfold State.mayIssue at h
  simp only [Bool.and_eq_true, decide_eq_true_eq] at h
  exact h.1.1

/-- The fragment whose turn it is has not trapped yet. -/
theorem not_trapParked_of_turn {code aux addr : Nat} {lanes : LaneMask} (hf : s.frag? = some f) : ¬TrapParked f code aux addr lanes s := by
  rintro ⟨h, hgroup, hphase, _⟩
  obtain ⟨hown, _, _, _, hissue, _⟩ := frag?_some hf
  rw [hown] at hgroup
  cases hgroup
  rw [phase_of_mayIssue hissue] at hphase
  cases hphase

/-- A group of role ANY with the turn, whose copy context holds 32 operations and whose result queue is empty. -/
def copyContextFull : State :=
  let s := State.reset.withProgram.at 3 0
  s.setGroups (s.groups.map fun g => { g with copyOps := List.replicate 32 ⟨0, 0xD8, [], 0, [], [], none, false⟩ })

/-- Its CPY whose A is the newest queue entry fails the check of its operand: EMPTY. -/
theorem copyContextFull_traps : ∃ f, copyContextFull.frag? = some f ∧ 32 ≤ f.g.copyOps.length ∧ f.g.fw = false ∧
    coreDie f.g.core < copyContextFull.dies.length ∧
    copyContextFull.gate f (.cpy ⟨false, false⟩ 16 0 false) ⟨false, false⟩
      { role := f.g.role.copies, srcs := [opnd 0 2], dst := some (opnd 16 2), late := true } = .trap 0x05 := by
  have h : copyContextFull.frag?.any (fun f => decide (32 ≤ f.g.copyOps.length ∧ f.g.fw = false ∧
      coreDie f.g.core < copyContextFull.dies.length ∧
      copyContextFull.gate f (.cpy ⟨false, false⟩ 16 0 false) ⟨false, false⟩
        { role := f.g.role.copies, srcs := [opnd 0 2], dst := some (opnd 16 2), late := true } = .trap 0x05)) = true := by decide +kernel
  obtain ⟨f, hf, hd⟩ := (Option.any_eq_true _ _).1 h
  exact ⟨f, hf, of_decide_eq_true hd⟩

/-- Refutes O58: a CPY from an empty result queue fails a check of R55, but where its copy context holds 32 operations it is held before
it is checked, and its group does not park. -/
theorem not_trapsAtIssue : ¬Obligations.TrapsAtIssue := by
  intro h
  obtain ⟨f, hf, hfull, hfw, hdie, htrap⟩ := copyContextFull_traps
  obtain ⟨_, _, _, _, _, _, _, _, _, _, _, _, hcpy, _⟩ := h copyContextFull f ⟨false, false⟩ 16 0 0 0 false 0 0 0 0x05 hf hdie
  obtain ⟨t, ht, hparked⟩ := hcpy htrap hfw
  rw [exec_cpy_copyFull (copyFull_of_length hf hfull)] at ht
  cases ht
  exact not_trapParked_of_turn hf hparked

end Sys2Proof.Machine
end

/-! # A result lands (R42, R43, R81, R360) -/

section
namespace Sys2Proof.Machine

variable {s : State} {g : Group} {r : Outst}

theorem mem_codes (o : Opnd) (c : Nat) : c ∈ o.codes ↔ o.names c = true := by
  simp only [Opnd.codes, Opnd.names, List.mem_map, List.mem_range, Bool.and_eq_true, decide_eq_true_eq]
  exact ⟨fun ⟨i, hi, he⟩ => by omega, fun ⟨hlo, hhi⟩ => ⟨c - o.code, by omega, by omega⟩⟩

/-- A landed group: the named registers written, the queues filled, the pending marks of the destination cleared, OSCOUNT one less. -/
theorem land_eq (g : Group) (r : Outst) : g.land r =
    { g with
      q0 := fillEntries r.oid r.vals r.mask g.q0, q1 := fillEntries r.oid r.vals r.mask g.q1
      regs := { (g.writeNamed ⟨r.dst.toNat, r.words⟩ r.vals r.mask).regs with
        pend := g.regs.pend.filter fun c => !(16 ≤ r.dst.toNat && (Opnd.mk r.dst.toNat r.words).codes.contains c) }
      oscount := g.oscount - 1 } := by
  obtain ⟨hfold, _, hpend, _⟩ := namedFold g r.dst.toNat r.vals r.mask r.words
  have hregs : g.writeNamed ⟨r.dst.toNat, r.words⟩ r.vals r.mask = { g with regs := (g.writeNamed ⟨r.dst.toNat, r.words⟩ r.vals r.mask).regs } := hfold
  have hpend : (g.writeNamed ⟨r.dst.toNat, r.words⟩ r.vals r.mask).regs.pend = g.regs.pend := hpend
  rw [← hpend]
  generalize (g.writeNamed ⟨r.dst.toNat, r.words⟩ r.vals r.mask).regs = regs at hregs ⊢
  unfold Group.land
  dsimp only
  rw [hregs]

theorem queue_land (i : Nat) : (g.land r).queue i = fillEntries r.oid r.vals r.mask (g.queue i) := by
  rw [land_eq]
  unfold Group.queue
  split <;> rfl

/-- What became of one entry as results were filled in. -/
theorem fillEntries_get {oid : Nat} {vals : List Nat} {mask : LaneMask} {q : List QEntry} {k : Nat} {e : QEntry} (he : q[k]? = some e) :
    ∃ e' : QEntry, (fillEntries oid vals mask q)[k]? = some e' ∧ ((∀ j, e.src ≠ some (oid, j)) → e' = e) ∧
      ∀ j, e.src = some (oid, j) → e'.pend = false ∧ ∀ l v, vals[l]? = some v → e'.vals[l]? = some (if mask.getLsbD l then wordAt v j else 0) := by
  unfold fillEntries
  rw [List.getElem?_map, he]
  refine ⟨_, rfl, fun hother => ?_, fun j hj => ?_⟩
  · dsimp only
    split
    next o i hsrc => exact if_neg fun ho => hother i (hsrc.trans (by rw [ho]))
    next => rfl
  · simp only [hj, if_true, true_and]
    intro l v hv
    rw [List.getElem?_mapIdx, hv]
    rfl

/-- A result of a group that has not ended lands in its group. -/
theorem landResult_group (hg : s.group? r.gid = some g) (hended : g.ended = false) : s.landResult r = s.putGroup (g.land r) := by
  unfold State.landResult
  rw [hg]
  simp only [hended, Bool.false_eq_true, if_false]

/-- The state in which a result lands: the events of a conversion to a narrow format are counted first (R360). -/
def State.delivered (s : State) (g : Group) (r : Outst) : State :=
  match r.kind with
  | .narrow counts => s.countEvents (s.ctxIdOf g) (coreCluster g.core) 4 counts
  | _ => s

theorem group?_delivered (gid : Nat) : (s.delivered g r).group? gid = s.group? gid := by
  unfold State.delivered
  split
  · exact group?_congr (onlyCounts_groups (onlyCounts_countEvents _ _ _ _)) gid
  · rfl

/-- The result of a long-latency, far atomic, engine or narrowing instruction that is there lands and is no longer under way. -/
theorem exec_resultReturn (hr : s.out? r.oid = some r) (hg : s.group? r.gid = some g) (hleft : r.left = 0)
    (hkind : r.kind = .alu ∨ r.kind = .far ∨ r.kind = .engine ∨ ∃ counts, r.kind = .narrow counts) :
    exec (.longLatencyResultReturn r.oid) s = .next (((s.delivered g r).landResult r).dropOut r.oid) := by
  show execLongLatencyResultReturn r.oid s = _
  unfold execLongLatencyResultReturn State.delivered
  rw [hr]
  obtain hk | hk | hk | ⟨counts, hk⟩ := hkind
  · simp only [hk, hleft, if_true]
  · simp only [hk, hleft, if_true]
  · simp only [hk, hleft, if_true]
  · simp only [hk, hg]

/-- Settles O40: what lands is `Group.land`, read field by field. -/
theorem resultLands : Obligations.ResultLands := by
  intro s r g hr hg hended hleft hkind o counted
  have hland : (s.delivered g r).landResult r = (s.delivered g r).putGroup (g.land r) :=
    landResult_group ((group?_delivered r.gid).trans hg) hended
  obtain ⟨_, hk, _, _, _, _, hn, hG⟩ := namedFold g r.dst.toNat r.vals r.mask r.words
  refine ⟨g.land r, ?_, ?_⟩
  · rw [exec_resultReturn hr hg hleft hkind, hland]
    rfl
  refine ⟨?_, ?_, ?_, ?_, ?_, ?_, fun c => ?_, fun q l h40 hq hl => ?_, fun q hq => ?_, fun i k e he => ?_⟩
  · rw [land_eq]
  · rw [land_eq]; exact hk
  · rw [land_eq]
  · rw [land_eq]
  · rw [land_eq]
  · rw [land_eq]
  · rw [land_eq, List.mem_filter]
    simp only [Bool.not_eq_true', ← Bool.not_eq_true, Bool.and_eq_true, decide_eq_true_eq, List.contains_iff_mem, mem_codes, o]
  · rw [land_eq]; exact hn q l h40 hq hl
  · rw [land_eq]; exact hG q hq
  · rw [queue_land]
    exact fillEntries_get he

end Sys2Proof.Machine
end

/-! # A turn's step (R33, R39, R55, R84, R88, R90, R163) -/

section
namespace Sys2Proof.Machine

variable {s t : State} {f : Frag} {g : Group} {gid slot : Nat}

theorem eq_of_onlyHomes (h : OnlyHomes s t) : t = { s with mem := t.mem, msys := t.msys, cores := t.cores } := by
  obtain ⟨_, _, rfl⟩ := h
  rfl

/-- A fetch touches memory and the memory system alone. -/
theorem onlyHomes_touchCode : OnlyHomes s (s.touchCode f) := by
  unfold State.touchCode
  dsimp only
  split
  · split
    · exact onlyHomes_trans (onlyHomes_touchWord _ _) (onlyHomes_touchWord _ _)
    · exact onlyHomes_touchWord _ _
  · exact onlyHomes_touchWord _ _

theorem onlyHomes_fetched : OnlyHomes s s.fetched := by
  unfold State.fetched
  split
  · exact onlyHomes_refl
  · exact onlyHomes_touchCode

/-- What is fetched is what the words at the PC decode to. -/
theorem fetch_decoded {w x : Word} {i : Instr} (hw : s.fetchWord f.g f.sl.pc.toNat = .ok w)
    (hx : takesExt (opOf w) = true → s.fetchWord f.g (f.sl.pc.toNat + 4) = .ok x)
    (hi : decodeWord w (if takesExt (opOf w) then x else 0) = .ok i) : s.fetch f = i := by
  unfold State.fetch
  dsimp only
  rw [hw]
  dsimp only
  by_cases hext : takesExt (opOf w) = true
  · rw [if_pos hext] at hi ⊢
    rw [hx hext]
    dsimp only
    rw [hi]
  · rw [if_neg hext] at hi ⊢
    rw [hi]

theorem run_turn (hf : s.frag? = some f) : s.run = exec (s.fetch f) s.fetched := by
  unfold State.run
  rw [hf]

/-! ## Whose opportunity it is -/

theorem issueTurn_alone (hg : s.group? gid = some g) (h : s.alone g slot = true) : s.issueTurn gid slot = (s.turned g slot).run := by
  unfold State.issueTurn
  rw [hg]
  exact if_pos h

theorem issueTurn_unused (hg : s.group? gid = some g) (h : s.alone g slot = false) (hw : s.winner g = none) :
    s.issueTurn gid slot = .next (s.passed g) := by
  unfold State.issueTurn
  simp only [hg, h, hw, Bool.false_eq_true, if_false]

theorem issueTurn_shared {x : Group} (hg : s.group? gid = some g) (h : s.alone g slot = false) (hw : s.winner g = some x) :
    s.issueTurn gid slot = if x.gid = gid && s.picks g slot then ((s.passed g).turned g slot).run else .next s := by
  unfold State.issueTurn
  simp only [hg, h, hw, Bool.false_eq_true, if_false]

/-! ## The agenda's turn -/

variable {rest : List Turn}

theorem step_agenda {turn : Turn} (h : s.ctl.agenda = turn :: rest) : step s = (s.setCtl { s.ctl with agenda := rest }).take turn := by
  unfold step State.nextTurn
  rw [h]

theorem step_event {i : Instr} (h : s.ctl.agenda = .event i :: rest) (hi : isEvent i = true) :
    step s = exec i (s.setCtl { s.ctl with agenda := rest }) := (step_agenda h).trans (if_pos hi)

/-- Settles O52: the turn of the agenda, by whose the opportunity is. -/
theorem stepRunsDecoded : Obligations.StepRunsDecoded := by
  intro s gid slot rest g f i w x s1 runs
  have hruns : ∀ s2, step s = s2.run → runs s2 := fun s2 hstep hf hw hx hi =>
    ⟨by rw [hstep, run_turn hf, fetch_decoded hw hx hi], eq_of_onlyHomes onlyHomes_fetched⟩
  refine ⟨fun hagenda hg => ?_, step_event⟩
  have hstep : step s = s1.issueTurn gid slot := step_agenda hagenda
  refine ⟨fun halone => hruns _ (hstep.trans (issueTurn_alone hg halone)), fun halone => ⟨fun h hwin hgid hpicks => ?_, fun h hwin hno => ?_, fun hwin => ?_⟩⟩
  · refine hruns _ ((hstep.trans (issueTurn_shared hg halone hwin)).trans (if_pos ?_))
    simp only [hgid, hpicks, decide_true, Bool.and_self]
  · refine (hstep.trans (issueTurn_shared hg halone hwin)).trans (if_neg ?_)
    simpa only [Bool.and_eq_true, decide_eq_true_eq, not_and_or, Bool.not_eq_true] using hno
  · exact hstep.trans (issueTurn_unused hg halone hwin)

end Sys2Proof.Machine
end

/-! # A task whose group has trapped (R316) -/

section
namespace Sys2Proof.Machine

variable {s u v : State} {g : Group} {gid tcb n : Nat}

/-- Step 1 of R316 is done in the state that the reads of the task and its pool have left. -/
theorem exec_taskFaultRepost_marked (hg : s.group? gid = some g) (htask : g.task = some tcb) (hmay : s.mayHandle g = true) (hdone : s.issuedDone g = true)
    (hphase : g.phase = .notified) (hreads : s.restartReads g = .ok (v, true)) (hmark : v.markFaulted g tcb = (u, none, n)) (hn : n < 255) :
    exec (.taskFaultRepost gid) s = .next (u.postPage g .task) := by
  have htaskOf : s.taskOf g = some tcb := by
    unfold State.taskOf
    rw [htask]
    rfl
  have heta : { g with task := some tcb } = g := by rw [← htask]
  show execTaskFaultRepost gid s = _
  unfold execTaskFaultRepost
  rw [hg]
  dsimp only
  rw [htaskOf]
  dsimp only
  rw [heta]
  simp only [hmay, hdone, hphase, hreads, hmark, Bool.not_true, Bool.or_self, Bool.false_eq_true, if_false, if_neg (Nat.not_le.2 hn)]

theorem underRestart_of_reads {b : Bool} (h : s.restartReads g = .ok (v, b)) : s.underRestart g = .ok b := by
  unfold State.underRestart
  rw [h]
  rfl

theorem msys_postPage (p : TrapPhase) : (s.postPage g p).msys = s.msys := rfl

/-- A group of role ANY that an ACCESS has parked while it holds the task of a TCB at 0x10100, in a pool at 0x10200 that has RESTART. -/
def faultedTask : State :=
  let s := State.reset.withProgram
  (s.setGroups (s.groups.map fun g => { g with phase := .notified, trap := ⟨0x09, 0, 0, 0x10000, 0x10300, 1⟩, task := some 0x10100 })).setMem
    (Memory.write (Memory.write [] 0x10118 (bytesOf 0x10200 8)) 0x10248 (bytesOf 1 4))

/-- Whether the task of `faultedTask` is marked both in that state and in the one that the reads have left, with different L2 clocks. -/
def marksApart (g : Group) : Bool :=
  match faultedTask.restartReads g with
  | .ok (v, true) =>
    let x := faultedTask.markFaulted g 0x10100
    let y := v.markFaulted g 0x10100
    x.2.1.isNone && y.2.1.isNone && x.2.2 < 255 && y.2.2 < 255 && x.1.msys.l2Clock ≠ y.1.msys.l2Clock
  | _ => false

theorem faultedTask_group : ∃ g, faultedTask.group? 3 = some g ∧ faultedTask.mayHandle g = true ∧ faultedTask.issuedDone g = true ∧ g.gid = 3 ∧
    g.phase = .notified ∧ g.task = some 0x10100 ∧ marksApart g = true := by
  have h : (faultedTask.group? 3).any (fun g => decide (faultedTask.mayHandle g = true ∧ faultedTask.issuedDone g = true ∧ g.gid = 3 ∧
    g.phase = .notified ∧ g.task = some 0x10100 ∧ marksApart g = true)) = true := by decide +kernel
  obtain ⟨g, hg, hd⟩ := (Option.any_eq_true _ _).1 h
  exact ⟨g, hg, of_decide_eq_true hd⟩

/-- What `marksApart` says, in the words of the statement. -/
theorem exists_marks (h : marksApart g = true) : ∃ v u u' n n', faultedTask.restartReads g = .ok (v, true) ∧
    faultedTask.markFaulted g 0x10100 = (u, none, n) ∧ v.markFaulted g 0x10100 = (u', none, n') ∧ n < 255 ∧ n' < 255 ∧ u.msys.l2Clock ≠ u'.msys.l2Clock := by
  unfold marksApart at h
  split at h
  next v hv =>
    simp only [Bool.and_eq_true, Option.isNone_iff_eq_none, decide_eq_true_eq] at h
    obtain ⟨⟨⟨⟨hx, hy⟩, hn⟩, hn'⟩, hclock⟩ := h
    exact ⟨v, _, _, _, _, hv, by rw [← hx], by rw [← hy], hn, hn', hclock⟩
  next => cases h

/-- Refutes O47: firmware first reads the task's pool and its RESTART, and marks the task in the state that these reads leave, where the L2
has counted them; the statement marks it in the state before. -/
theorem not_firmwareEventsComplete : ¬Obligations.FirmwareEventsComplete := by
  intro h
  obtain ⟨g, hg, hmay, hdone, hgid, hphase, htask, hapart⟩ := faultedTask_group
  obtain ⟨v, u, u', n, n', hreads, hmark, hmark', hn, hn', hclock⟩ := exists_marks hapart
  rw [← hgid] at hg
  obtain ⟨_, _, _, _, _, hfirmware⟩ := h faultedTask 0 0 0 0 g
  obtain ⟨_, _, htasks, _⟩ := hfirmware hg hmay
  obtain ⟨hfault, _⟩ := htasks 0x10100 htask hdone
  have hsaid := hfault u n hphase (underRestart_of_reads hreads) hmark
  rw [exec_taskFaultRepost_marked hg htask hmay hdone hphase hreads hmark' hn', if_neg (Nat.not_le.2 hn)] at hsaid
  have hsame : u'.postPage g .task = u.postPage g .task := by injection hsaid
  refine hclock ?_
  rw [← msys_postPage (s := u) (g := g) .task, ← hsame, msys_postPage]

end Sys2Proof.Machine
end

/-! # Divergence (R84 to R87, R157) -/

section
namespace Sys2Proof.Machine

variable {s : State} {f : Frag} {m : Marks} {g x : Group} {sl : Slot}

theorem onlyHomes_stackRequests (a n : Nat) : OnlyHomes s (s.stackRequests g a n) := onlyHomes_foldl (fun _ _ => onlyHomes_request _ _ _ _ _) _

/-- The store of a divergence stack in its record reaches memory and the memory system alone. -/
theorem onlyHomes_putDiverged : OnlyHomes (s.putGroup g) (s.putDiverged g) := by
  unfold State.putDiverged
  dsimp only
  split
  · split
    · exact onlyHomes_refl
    · exact onlyHomes_trans (onlyHomes_stackRequests _ _) (onlyHomes_writeHome _ _)
  · exact onlyHomes_refl

/-- A fragment that has issued fewer than 64 instructions in its slot keeps it (R87). -/
theorem swap_of_issued_lt {k : Nat} (hslot : g.slot? k = some sl) (hissued : sl.issued < 64) : g.swap k = g := by
  unfold Group.swap
  simp only [hslot, hissued, decide_true, Bool.true_or, if_true]

theorem stopAt_unmarked (hp : m.p = false) (ext : Nat) : s.stopAt f m ext sl = sl := by
  unfold State.stopAt maskAt
  simp only [hp, Bool.false_eq_true, if_false]

/-- The group that a transfer without a mask word leaves, where the swap of R87 is not due: its slot is `sl`, with an empty queue. -/
theorem group?_transfer {ext : Nat} (hgroup : s.group? f.g.gid = some x) (hgid : g.gid = f.g.gid) (hp : m.p = false) (hissued : sl.issued < 64) :
    (s.transfer f m ext g sl).group? f.g.gid = some ((g.emptyQueue f.slot).issuedIn f.slot (some sl)) := by
  unfold State.transfer
  rw [stopAt_unmarked hp, swap_of_issued_lt (slot?_issuedIn _ _ _) hissued, onlyHomes_group? onlyHomes_putDiverged]
  have hmoved : ((g.emptyQueue f.slot).issuedIn f.slot (some sl)).gid = f.g.gid := by simpa [Group.issuedIn, Group.emptyQueue] using hgid
  rw [← hmoved] at hgroup ⊢
  exact group?_putGroup_self hgroup

/-- An emptied queue and an issued slot are all that moving a slot changes. -/
theorem onlySlot_moved {k : Nat} {o : Option Slot} : OnlySlot g k ((g.emptyQueue k).issuedIn k o) := onlySlot_issuedIn (r := g.regs) (q := [])

/-- What moving a slot leaves: the group's name, its MODE and its divergence stack. -/
theorem moved_keeps {k : Nat} {o : Option Slot} : ((g.emptyQueue k).issuedIn k o).mode = g.mode ∧ ((g.emptyQueue k).issuedIn k o).dstack = g.dstack := by
  have hrest := (onlySlot_moved (g := g) (k := k) (o := o)).rest
  exact ⟨by rw [hrest], by rw [hrest]⟩

theorem place_free {k : Nat} {pc : Addr} {mask : LaneMask} {join : Option Nat} (h : g.slot? k = none) :
    g.place k pc mask join = (g.setSlot k (some (Slot.at pc mask join))).emptyQueue k := by
  unfold Group.place
  rw [h]

theorem place_taken {k : Nat} {pc : Addr} {mask : LaneMask} {join : Option Nat} (h : g.slot? k ≠ none) :
    g.place k pc mask join = { g with dstack := g.dstack ++ [DEntry.frag pc mask join] } := by
  obtain ⟨o, ho⟩ := Option.ne_none_iff_exists'.1 h
  unfold Group.place
  rw [ho]

/-- Placing a fragment changes the other slot with its queue, or the stack: never the registers, MODE or the group's name. -/
theorem place_keeps {k : Nat} {pc : Addr} {mask : LaneMask} {join : Option Nat} :
    (g.place k pc mask join).gid = g.gid ∧ (g.place k pc mask join).regs = g.regs ∧ (g.place k pc mask join).mode = g.mode := by
  cases h : g.slot? k with
  | none =>
    rw [place_free h]
    unfold Group.emptyQueue
    rw [setQueue_eq, setSlot_eq]
    exact ⟨rfl, rfl, rfl⟩
  | some o =>
    rw [place_taken (by simp [h])]
    exact ⟨rfl, rfl, rfl⟩

/-- A fragment placed in a free slot leaves the stack. -/
theorem dstack_place_free {k : Nat} {pc : Addr} {mask : LaneMask} {join : Option Nat} (h : g.slot? k = none) :
    (g.place k pc mask join).dstack = g.dstack := by
  rw [place_free h]
  unfold Group.emptyQueue
  rw [setQueue_eq, setSlot_eq]

/-- Lanes that take a branch and lanes that do not: no lane is in both, and none of the fragment's is lost. -/
theorem split_mask (mask t : LaneMask) : t &&& (mask &&& ~~~t) = 0 ∧ (t &&& mask ||| (mask &&& ~~~t)) = mask := by
  constructor
  · ext l
    simp only [BitVec.getElem_and, BitVec.getElem_not]
    cases t[l] <;> simp
  · ext l
    simp only [BitVec.getElem_or, BitVec.getElem_and, BitVec.getElem_not]
    cases t[l] <;> simp

/-- Settles O14: the taken lanes move in their slot, and the others are placed beside them. -/
theorem divergenceSplitsLanes : Obligations.DivergenceSplitsLanes := by
  intro s f m t target join hf hissued hp u rest succ
  obtain ⟨hgroup, _, _, hslot, _⟩ := frag?_some hf
  have hsucc : f.sl.succ m 0 = succ := by simp [Slot.succ, unitLen, hp, succ]
  obtain ⟨hgid, hregs, hmode⟩ := place_keeps (g := f.g) (k := otherSlot f.slot) (pc := succ) (mask := rest) (join := join)
  obtain ⟨hmoved, hstack⟩ := moved_keeps (g := f.g.place (otherSlot f.slot) succ rest join) (k := f.slot)
    (o := some { f.sl.goTo target with mask := t, join := join })
  have honly := onlySlot_moved (g := f.g.place (otherSlot f.slot) succ rest join) (k := f.slot)
    (o := some { f.sl.goTo target with mask := t, join := join })
  have hu : u.group? f.g.gid = some (((f.g.place (otherSlot f.slot) succ rest join).emptyQueue f.slot).issuedIn f.slot
      (some { f.sl.goTo target with mask := t, join := join })) := by
    rw [← hsucc] at hgid ⊢
    exact group?_transfer hgroup hgid hp hissued
  obtain ⟨hapart, hwhole⟩ := split_mask f.sl.mask t
  refine ⟨_, _, hu, slot?_issuedIn _ _ _, rfl, rfl, rfl, ?_, ?_, hmoved.trans hmode, hapart, hwhole, fun hfree => ?_, fun htaken => ?_⟩
  · rw [queue_issuedIn]
    exact queue_setQueue _ _ _
  · rw [regs_issuedIn]
    exact (regs_setQueue _ _ _).trans hregs
  · rw [hstack, honly.queueBeside, honly.slotBeside, dstack_place_free hfree, place_free hfree]
    exact ⟨rfl, queue_setQueue _ _ _, _, (slot?_setQueue _ _ _ _).trans (slot?_setSlot _ _ _), rfl, rfl, rfl⟩
  · rw [hstack, honly.queueBeside, honly.slotBeside, place_taken htaken]
    exact ⟨rfl, rfl, rfl⟩

end Sys2Proof.Machine
end

/-! # BRA, CALL and BRK (R85, R156 to R158, R160) -/

section
namespace Sys2Proof.Machine

variable {s : State} {f : Frag} {m : Marks} {k : BitVec 3} {n : Bool} {target : Addr} {g : Group}

/-- Reading the divergence stack from its record changes nothing else of the fragment. -/
theorem stacked_eq : s.stacked f = { f with g := { f.g with dstack := (s.stacked f).g.dstack } } := by
  unfold State.stacked
  split <;> rfl

theorem taken_stacked : (s.stacked f).taken k n = f.taken k n := by
  rw [stacked_eq]
  rfl

theorem placeNeed_stacked : (s.stacked f).placeNeed = if (f.g.slot? (otherSlot f.slot)).isSome then 1 else 0 := by
  rw [stacked_eq]
  rfl

theorem pend_stacked : (s.stacked f).g.regs.pend = f.g.regs.pend := by
  rw [stacked_eq]

/-- A branch that no lane takes (R157). -/
theorem branchOut_none (ht : f.taken k n = 0) : branchOut s f m k n target g = .next (s.jump f m 0 (f.sl.succ m 0)) := if_pos ht

/-- A branch that every lane takes (R157). -/
theorem branchOut_all (ht : f.taken k n ≠ 0) (ha : aligned4 target = true) (hall : f.taken k n = f.sl.mask) :
    branchOut s f m k n target g = .next (s.transfer f m 0 g (f.sl.goTo target)) := by
  unfold branchOut
  dsimp only
  rw [if_neg ht, if_neg (by simp [ha]), if_pos hall]

/-- A branch that some lanes take, with room on the stack for the others (R157). -/
theorem branchOut_some (ht : f.taken k n ≠ 0) (ha : aligned4 target = true) (hall : f.taken k n ≠ f.sl.mask) (hroom : f.g.dsp + f.placeNeed ≤ 64) :
    branchOut s f m k n target g = .next (s.diverge f m 0 g (f.taken k n) target f.sl.join) := by
  unfold branchOut
  dsimp only
  rw [if_neg ht, if_neg (by simp [ha]), if_neg hall, if_neg (Nat.not_lt.2 hroom)]

theorem exec_bra {i : BitVec 18} (h : Runs s f (.bra m n k i) m {}) :
    exec (.bra m n k i) s = branchOut s (s.stacked f) m k n (branchTarget f.sl.pc i) (s.stacked f).g := issue_go h

/-- The group with a CALL's link, the address `ret`, in G7:G6 (R160). -/
def Group.linked (g : Group) (ret : Addr) : Group := (g.setG 6 (ret.setWidth 32)).setG 7 ((ret >>> 32).setWidth 32)

theorem exec_call {i : BitVec 18} (h : Runs s f (.call m n k i) m {}) (h62 : f.g.regs.pend.contains 62 = false) (h63 : f.g.regs.pend.contains 63 = false) :
    exec (.call m n k i) s =
      branchOut s (s.stacked f) m k n (branchTarget f.sl.pc i) ((s.stacked f).g.linked (f.sl.succ m 0)) := by
  refine (issue_go h).trans ?_
  dsimp only
  rw [pend_stacked, h62, h63, stacked_sl]
  simp only [Bool.or_self, Bool.and_false, Bool.false_eq_true, if_false]
  rfl

/-- The group with a new join record at `addr` that expects the lanes of `mask` (R85). -/
def Group.expecting (g : Group) (addr : Addr) (mask : LaneMask) (parent : Option Nat) : Group :=
  { g with dstack := g.dstack ++ [DEntry.record (freeJoin g.dstack) addr mask 0 parent] }

/-- BRK with aligned addresses, by the lanes that take it (R158). -/
theorem exec_brk {i : BitVec 18} {jw : Word} (h : Runs s f (.brk m n k i jw) m {}) (ha : aligned4 (branchTarget f.sl.pc i) = true)
    (hja : aligned4 (branchTarget f.sl.pc (jw.setWidth 18)) = true) :
    let q := s.stacked f
    let t := f.taken k n
    exec (.brk m n k i jw) s =
      if t = f.sl.mask then .next (s.jump q m 1 (branchTarget f.sl.pc i))
      else if t = 0 then .next (s.jump q m 1 (f.sl.succ m 1))
      else if 64 < q.g.dsp + 1 + q.placeNeed then .next (s.takeTrap q (maskAt f.sl m 1) ⟨0x0C, 0, 0, f.sl.mask⟩)
      else .next (s.diverge q m 1 (q.g.expecting (branchTarget f.sl.pc (jw.setWidth 18)) f.sl.mask f.sl.join) t (branchTarget f.sl.pc i)
        (some (freeJoin q.g.dstack))) := by
  refine (issue_go h).trans ?_
  dsimp only
  rw [taken_stacked, stacked_sl]
  exact if_neg (by simp [ha, hja])

/-- Settles O13: BRA and CALL by `branchOut`, BRK by its own cases. -/
theorem branchesComplete : Obligations.BranchesComplete := by
  intro s f m n k i jw t target jaddr succ full q called g branches
  have hbranches {j : Instr} {link : Bool} (hj : exec j s = branchOut s q m k n target (g link)) : branches j link := by
    refine ⟨fun ht => hj.trans ?_, fun ht ha => ⟨fun hall => hj.trans ?_, fun hsome hroom => hj.trans ?_⟩⟩
    · rw [branchOut_none (taken_stacked.trans ht), stacked_sl]
      rfl
    · rw [branchOut_all (taken_stacked.trans_ne ht) ha (by rw [taken_stacked, stacked_sl]; exact hall), stacked_sl]
    · rw [branchOut_some (taken_stacked.trans_ne ht) ha (by rw [taken_stacked, stacked_sl]; exact hsome) (by rw [placeNeed_stacked]; exact hroom),
        taken_stacked, stacked_sl]
  refine ⟨fun h => hbranches (exec_bra h), fun h h62 h63 => hbranches (exec_call h h62 h63),
    fun h ha hja => ⟨fun hall => ?_, fun ht hnot => ?_, fun ht hnot hroom => ?_⟩⟩
  · exact (exec_brk h ha hja).trans (if_pos hall)
  · exact (exec_brk h ha hja).trans ((if_neg hnot).trans (if_pos ht))
  · have hfits : ¬64 < q.g.dsp + 1 + q.placeNeed := by
      rw [placeNeed_stacked]
      exact Nat.not_lt.2 hroom
    exact (exec_brk h ha hja).trans ((if_neg hnot).trans ((if_neg ht).trans (if_neg hfits)))

end Sys2Proof.Machine
end

/-! # JOIN (R86, R106, R159) -/

section
namespace Sys2Proof.Machine

variable {s : State} {f : Frag} {m : Marks}

/-- A JOIN at another address than its record's goes on with an empty queue; the read that found the record has gone through the L2 (R106). -/
theorem exec_join_elsewhere (h : Runs s f (.join m) m {}) {id : Nat} {addr : Addr} {ex ar : LaneMask} {parent : Option Nat}
    (hrecord : (s.stacked f).sl.join.bind (findJoin (s.stacked f).g.dstack) = some (DEntry.record id addr ex ar parent))
    (haddr : addr ≠ (s.stacked f).sl.pc) :
    exec (.join m) s = .next ((s.stackRead (s.stacked f).g).jump (s.stacked f) m 0 ((s.stacked f).sl.succ m 0)) := by
  refine (issue_go h).trans ?_
  dsimp only
  rw [hrecord]
  exact if_pos haddr

/-- A group of role ANY with the turn at 0x10000, whose fragment's join record 3, of address 0x10004, lies in the group's record in the save area. -/
def joinElsewhere : State :=
  let s := State.reset.withProgram.at 3 0
  let e := DEntry.record 3 0x10004 (BitVec.allOnes 64) 0 none
  let place (g : Group) : Group := { g with dstack := [e], slot0 := some (Slot.at 0x10000 0xFFFFFFFF (some 3)) }
  (s.setGroups (s.groups.map place)).setMem (Memory.write [] 0x2A140 e.bytes)

/-- A JOIN without marks only empties the queue, from state `t`. -/
def State.joinPasses (s t : State) (f : Frag) : State := t.jump (s.stacked f) ⟨false, false⟩ 0 ((s.stacked f).sl.succ ⟨false, false⟩ 0)

/-- The fragment issues a JOIN, finds record 3 of address 0x10004 while it stands elsewhere, and the L2 counts the read of the stack. -/
abbrev JoinsElsewhere (s : State) (f : Frag) : Prop :=
  s.gate f (.join ⟨false, false⟩) ⟨false, false⟩ {} = .go ∧
  (s.stacked f).sl.join.bind (findJoin (s.stacked f).g.dstack) = some (DEntry.record 3 0x10004 (BitVec.allOnes 64) 0 none) ∧
  0x10004 ≠ (s.stacked f).sl.pc ∧
  (s.joinPasses (s.stackRead (s.stacked f).g) f).msys.l2Clock ≠ (s.joinPasses s f).msys.l2Clock

theorem joinElsewhere_turn : ∃ f, joinElsewhere.frag? = some f ∧ JoinsElsewhere joinElsewhere f := by
  have h : joinElsewhere.frag?.any (fun f => decide (JoinsElsewhere joinElsewhere f)) = true := by decide +kernel
  obtain ⟨f, hf, hd⟩ := (Option.any_eq_true _ _).1 h
  exact ⟨f, hf, of_decide_eq_true hd⟩

/-- Refutes O15: a JOIN that finds a record of another address has read the divergence stack through the L2, which has counted the access;
the statement says that only the fragment's group changes. -/
theorem not_joinCompletes : ¬Obligations.JoinCompletes := by
  intro h
  obtain ⟨f, hf, hgate, hrecord, haddr, hclock⟩ := joinElsewhere_turn
  obtain ⟨_, helsewhere, _⟩ := h joinElsewhere f ⟨false, false⟩ ⟨hf, hgate⟩
  have hsaid := helsewhere 3 0x10004 _ _ _ hrecord haddr
  rw [exec_join_elsewhere ⟨hf, hgate⟩ hrecord haddr] at hsaid
  have hsame : joinElsewhere.joinPasses (joinElsewhere.stackRead (joinElsewhere.stacked f).g) f = joinElsewhere.joinPasses joinElsewhere f :=
    Host.Outcome.next.inj hsaid
  exact hclock (by rw [hsame])

end Sys2Proof.Machine
end

/-! # Long-latency arithmetic (R81, R127, R132, R133, R360, R361) -/

section
namespace Sys2Proof.Machine

variable {s : State} {f : Frag} {i : Instr} {m : Marks} {n : Frag → Need} {d : Code}

/-- A long-latency result whose events do not trap: they are counted, and it is under way. -/
theorem laneLateOp_awaits {v : Frag → Nat → Nat × List Nat} (h : Runs s f i m (n f)) (hq : Quiet s f (laneNums.map fun l => (v f l).2)) :
    ∃ t, laneLateOp s i m n d Frag.words Frag.fmt v = .next t ∧
      Awaits (s.countFp f (typeFmt f.g.type) (laneNums.map fun l => (v f l).2) f.active) f m d (typeWords f.g.type) f.active
        (laneNums.map fun l => (v f l).1) 0 .alu t :=
  ⟨_, laneLateOp_go h hq, awaits_resultLater ((frag?_counts (onlyCounts_countFp _ _ _)).trans h.1)⟩

/-- Events that raise no ARITH are left to the delivery of a late result (R360). -/
theorem withEventsLate_quiet {mask : Option Nat} {fmt : Nat} {evs : LaneEvents} {a : LaneMask} {k : List Nat → State → State}
    (hskip : f.slot ∉ f.g.arithSkip) (hquiet : unionEvents evs a = 0 ∨ s.trapsArith f.g = false) :
    s.withEventsLate f mask fmt evs a k = k ((List.range 4).map (countEvent evs a)) s := by
  have htraps : s.arithTraps f evs a = false := by
    unfold State.arithTraps
    rcases hquiet with h | h <;> simp [h]
  unfold State.withEventsLate
  rw [if_neg (by simpa using hskip), htraps]
  rfl

/-- What FCVT needs: types by direction and format, words by direction (R361). -/
def Frag.fcvtNeed (f : Frag) (q : FSlot) (d a : Code) (dec : Bool) : Need :=
  { typed := f.g.type = 6 || f.g.type = 9 || (f.g.type = 0 && (!dec || fmtKind q.afmt = 2)) || (f.g.type = 1 && !dec)
    srcs := [opnd a (if dec then q.words else f.words)], dst := some (opnd d (if dec then f.words else q.words)), late := true }

/-- The value and the events of one lane of FCVT. -/
def Frag.fcvtLane (f : Frag) (q : FSlot) (a : Code) (dec : Bool) (l : Nat) : Nat × List Nat :=
  if dec then decodeLane q f.g.type (f.src a q.words l) else encodeLane q f.g.type (f.src a f.words l)

/-- FCVT whose events do not trap: its result is under way, with the counts that its delivery adds. -/
theorem exec_fcvt {a : Code} {dec : Bool} {x : BitVec 3}
    (h : Runs s f (.fcvt m d a dec x) m (f.fcvtNeed (s.fslot f.g x.toNat) d a dec)) (hskip : f.slot ∉ f.g.arithSkip)
    (hquiet : unionEvents (laneNums.map fun l => (f.fcvtLane (s.fslot f.g x.toNat) a dec l).2) f.sl.mask = 0 ∨ s.trapsArith f.g = false) :
    let q := s.fslot f.g x.toNat
    exec (.fcvt m d a dec x) s = .next ((s.resultLater f d (if dec then f.words else q.words) (laneNums.map fun l => (f.fcvtLane q a dec l).1) f.sl.mask 0
      (.narrow ((List.range 4).map (countEvent (laneNums.map fun l => (f.fcvtLane q a dec l).2) f.sl.mask)))).goOn f m) := by
  intro q
  refine (issue_go (n := fun f => f.fcvtNeed (s.fslot f.g x.toNat) d a dec) h).trans ?_
  dsimp only
  rw [List.map_map, List.map_map]
  exact congrArg Host.Outcome.next (withEventsLate_quiet hskip hquiet)

/-- Settles O7: each but FCVT is one late result by lane, of its elements' values. -/
theorem longArithmeticComplete : Obligations.LongArithmeticComplete := by
  intro s f m d a b dec x ty w awaits of1
  have hlane {j : Instr} {n : Frag → Need} (v : Frag → Nat → Nat × List Nat) (hj : exec j s = laneLateOp s j m n d Frag.words Frag.fmt v) :
      awaits j (n f) (v f) := fun h hq => by
    rw [hj]
    exact laneLateOp_awaits h hq
  have hfunc {j : Instr} (fn : Nat → FFmt → Nat → Nat × Nat) (hj : exec j s = funcOp s j m d a fn) :
      awaits j (lateDA floatType d a f) (of1 (fn f.g.round)) :=
    hlane (fun f l => byElem f.g.type (fltElem f.g.type (fn f.g.round)) [f.src a f.words l]) hj
  refine ⟨hlane (fun f l => byElem f.g.type (divElem f.g.type f.g.round f.g.sat) (f.ab a b l)) rfl,
    hlane (fun f l => byElem f.g.type (remElem f.g.type) (f.ab a b l)) rfl,
    hfunc (fun rm g v => fSqrt g rm v) rfl, hfunc (fun _ => fRcp) rfl, hfunc (fun _ => fRsq) rfl, hfunc (fun _ => fExp2) rfl,
    hfunc (fun _ => fLog2) rfl, hfunc (fun _ g => fTrig g false) rfl, hfunc (fun _ g => fTrig g true) rfl, ?_⟩
  intro q reads writes value evs typed h hskip hquiet
  have hneed : f.fcvtNeed q d a dec = { typed := decide typed, srcs := [opnd a reads], dst := some (opnd d writes), late := true } := by
    have htyped : (f.fcvtNeed q d a dec).typed = decide typed := by
      simp only [Frag.fcvtNeed, typed, ty, Bool.decide_or, Bool.decide_and, Bool.decide_eq_false, Bool.or_assoc]
    rw [← htyped]
    rfl
  have hvalue : f.fcvtLane q a dec = value := by
    funext l
    cases dec <;> rfl
  rw [← hneed] at h
  refine ⟨_, exec_fcvt h hskip (by rw [hvalue]; exact hquiet), ?_⟩
  rw [hvalue]
  exact awaits_resultLater h.1

end Sys2Proof.Machine
end

/-! # Growth, load windows, page walks and shootdowns (R77, R89, R208, R213) -/

section
namespace Sys2Proof.Machine

variable {s t u : State} {g : Group}

/-! ## Growth -/

/-- The end of a wait changes slots alone. -/
theorem release_eq (i n : Nat) : g.release i n = { g with slot0 := (g.release i n).slot0, slot1 := (g.release i n).slot1 } := by
  unfold Group.release
  split
  · split
    · rfl
    · exact setSlot_eq g i _
  · rfl

/-- A slot that is parked in GROW goes on. -/
def Group.ungrow (g : Group) (i : Nat) : Group := match (g.slot? i).bind (·.park) with | some (.grow n) => g.release i n | _ => g

theorem ungrow_eq (i : Nat) : g.ungrow i = { g with slot0 := (g.ungrow i).slot0, slot1 := (g.ungrow i).slot1 } := by
  unfold Group.ungrow
  split
  · exact release_eq i _
  · rfl

/-- The group with the declared allotment, the registers gained reading 0. -/
def Group.enlarged (g : Group) (allot : Nat) : Group :=
  { g with allot := allot, grown := true
           regs := { g.regs with n := g.regs.n.mapIdx fun r x => if g.allot ≤ r && r < allot then List.replicate W 0 else x } }

/-- Growth enlarges the group, and its slots that wait for it go on. -/
theorem grow_eq (allot : Nat) : ∃ o p, g.grow allot = { g.enlarged allot with slot0 := o, slot1 := p } := by
  have h : g.grow allot = ((g.enlarged allot).ungrow 0).ungrow 1 := rfl
  rw [h, ungrow_eq 1, ungrow_eq 0]
  exact ⟨_, _, rfl⟩

theorem nLane_enlarged {allot q : Nat} (hq : q < g.regs.n.length) (l : Nat) :
    (g.enlarged allot).nLane q l = if g.allot ≤ q ∧ q < allot then 0 else g.nLane q l := by
  simp only [Group.nLane, Group.enlarged, List.getD_eq_getElem?_getD, List.getElem?_mapIdx, List.getElem?_eq_getElem hq, Option.map_some,
    Option.getD_some, Bool.and_eq_true, decide_eq_true_eq]
  by_cases hgained : g.allot ≤ q ∧ q < allot
  · simp only [hgained, and_self, if_true, List.getElem?_replicate]
    split <;> rfl
  · simp only [hgained, if_false]

theorem exec_growGrant {gid : Nat} (hg : s.group? gid = some g) (hdue : s.growDue g = true) (hroom : s.growRoom g = true) :
    exec (.growGrant gid) s = .next (s.putGroup (g.grow (s.fullAllot g))) := by
  show execGrowGrant gid s = _
  unfold execGrowGrant
  simp only [hg, hdue, hroom, Bool.and_self, if_true]

/-! ## The end of a window -/

theorem core_modCore_self {core : Nat} {w : Core → Core} (h : core < s.cores.length) : (s.modCore core w).core core = w (s.core core) := by
  simp [State.core, State.modCore, List.getD_eq_getElem?_getD, h]

theorem core_modCore_ne {core k : Nat} {w : Core → Core} (h : k ≠ core) : (s.modCore core w).core k = s.core k := by
  simp [State.core, State.modCore, List.getD_eq_getElem?_getD, h.symm]

/-- A core at the end of its window (R89). -/
def Core.windowEnd (c : Core) : Core :=
  let cap := if 64 ≤ c.remiss then max 2 (c.ldcap / 2) else min 48 (c.ldcap + 1)
  { c with ldcap := cap, remiss := 0, ldPtr := (c.ldPtr + cap) % 48, ldWindow := c.ldWindow + 4096 }

theorem exec_ldcapWindowEnd {core : Nat} (h : (s.core core).ldWindow + 4096 ≤ s.clock (coreDie core)) :
    exec (.ldcapWindowEnd core) s = .next (s.modCore core Core.windowEnd) := if_neg (Nat.not_lt.2 h)

/-! ## Translations and shootdowns under way -/

/-- The translations that the units hold, and the shootdowns under way, are as they were. -/
def KeepsPages (s t : State) : Prop := t.msys.tlb = s.msys.tlb ∧ t.msys.shootdowns = s.msys.shootdowns

theorem KeepsPages.trans (h : KeepsPages s t) (k : KeepsPages t u) : KeepsPages s u := ⟨k.1.trans h.1, k.2.trans h.2⟩

theorem keepsPages_foldl {α : Type} {f : State → α → State} (h : ∀ s x, KeepsPages s (f s x)) (l : List α) : KeepsPages s (l.foldl f s) := by
  induction l generalizing s with
  | nil => exact ⟨rfl, rfl⟩
  | cons x l ih => exact (h s x).trans ih

theorem keepsPages_touchHome (unit a : Nat) : KeepsPages s (s.touchHome unit a) := by
  unfold State.touchHome
  split
  · exact ⟨rfl, rfl⟩
  · split <;> exact ⟨rfl, rfl⟩

theorem keepsPages_l2Access (slice a cls ctx : Nat) : KeepsPages s (s.l2Access slice a cls ctx) := by
  unfold State.l2Access
  dsimp only
  split
  · exact ⟨rfl, rfl⟩
  · split <;> exact ⟨rfl, rfl⟩

/-- A request for itself alone reads no guest copy. -/
theorem keepsPages_request (unit a cls ctx : Nat) : KeepsPages s (s.request unit a cls ctx false) := by
  unfold State.request
  split
  · exact ⟨rfl, rfl⟩
  · exact (keepsPages_touchHome unit a).trans (keepsPages_l2Access _ _ _ _)

theorem keepsPages_writeHome (a : Nat) (bs : List Byte) : KeepsPages s (s.writeHome a bs) := ⟨rfl, rfl⟩

theorem keepsPages_cleanLines (p : L1Line → Bool) : KeepsPages s (s.cleanLines p) := by
  refine KeepsPages.trans (keepsPages_foldl (fun s l => ?_) (s.msys.l1.filter p)) ⟨rfl, rfl⟩
  unfold State.writeBack
  split
  · exact ⟨rfl, rfl⟩
  · exact (keepsPages_touchHome _ _).trans (keepsPages_foldl (fun _ _ => keepsPages_writeHome _ _) _)

theorem keepsPages_force (hit : Release → Bool) : KeepsPages s (s.force hit) := (keepsPages_cleanLines _).trans ⟨rfl, rfl⟩

/-- A walk goes to the homes of its entries, and neither installs a translation nor loses one. -/
theorem keepsPages_walkHomes (ag : Agent) (va : Nat) : KeepsPages s (s.walkHomes ag va) :=
  keepsPages_foldl (fun _ _ => (keepsPages_force _).trans (keepsPages_request _ _ _ _)) _

/-! ## Page walks -/

/-- The translations of a unit's table with one more: a full unit gives up its oldest (R207). -/
def withTlb (tlb : List Tlb) (t : Tlb) : List Tlb :=
  let mine := tlb.filter fun x => x.unit = t.unit
  (match mine with
    | old :: _ => if mine.length < 4096 then tlb else tlb.erase old
    | [] => tlb) ++ [t]

theorem tlb_install {ag : Agent} {x : Tlb} {va : Nat} (h : s.tlbHit ag va = none) : (s.install ag x va).msys.tlb = withTlb s.msys.tlb x := by
  unfold State.install
  rw [if_neg (by simp [h])]
  exact congrArg (fun tlb => withTlb tlb x) (keepsPages_walkHomes ag va).1

theorem withTlb_of_room {tlb : List Tlb} {t : Tlb} (h : (tlb.filter fun x => x.unit = t.unit).length < 4096) : withTlb tlb t = tlb ++ [t] := by
  unfold withTlb
  dsimp only
  split
  · rw [if_pos h]
  · rfl

theorem mem_withTlb_other {tlb : List Tlb} {t x : Tlb} (hx : x ∈ tlb) (hunit : x.unit ≠ t.unit) : x ∈ withTlb tlb t := by
  refine List.mem_append_left _ ?_
  split
  next old rest hmine =>
    have hold : old.unit = t.unit := by
      have hmem : old ∈ tlb.filter fun x => x.unit = t.unit := by rw [hmine]; exact List.mem_cons_self
      simpa using (List.mem_filter.1 hmem).2
    split
    · exact hx
    · exact (List.mem_erase_of_ne fun he => hunit (by rw [he, hold])).2 hx
  next => exact hx

theorem exec_pageWalkComplete {unit asid va : Nat} {c : Ctx} {x : Tlb} (hc : (s.contexts.find? fun c => c.asid = asid && !c.killed) = some c)
    (hmiss : s.tlbHit (c.agent 1000 unit) va = none) (hwalk : s.walk (c.agent 1000 unit) va = some x) :
    exec (.pageWalkComplete unit asid va) s = .next (s.install (c.agent 1000 unit) x va) := by
  show execPageWalkComplete unit asid va s = _
  unfold execPageWalkComplete
  simp only [hc, hmiss, hwalk]

/-! ## Shootdowns -/

/-- Lines leave an L1, written back: no group, translation or shootdown changes. -/
theorem dropLines_keeps (p : L1Line → Bool) : (s.dropLines p).groups = s.groups ∧ KeepsPages s (s.dropLines p) := by
  obtain ⟨_, _, hhomes⟩ := onlyHomes_cleanLines (s := s) p
  refine ⟨?_, (keepsPages_cleanLines p).trans ⟨rfl, rfl⟩⟩
  unfold State.dropLines
  rw [hhomes]
  rfl

theorem mem_dropLines {p : L1Line → Bool} {l : L1Line} (h : l ∈ (s.dropLines p).msys.l1) : p l = false := by
  simpa using (List.mem_filter.1 h).2

/-- The state in which a shootdown is over. -/
def State.shotDown (s : State) (d : Shootdown) : State :=
  (s.shootdown d).setMsys { (s.shootdown d).msys with shootdowns := (s.shootdown d).msys.shootdowns.filter fun x => x.sid ≠ d.sid }

theorem exec_shootdownComplete {d : Shootdown} (hd : (s.msys.shootdowns.find? fun x => x.sid = d.sid) = some d) (hbusy : s.shootdownBusy d = false) :
    exec (.shootdownComplete d.sid) s = .next (s.shotDown d) := by
  show execShootdownComplete d.sid s = _
  unfold execShootdownComplete
  rw [hd]
  simp only [hbusy, Bool.false_eq_true, if_false]
  rfl

/-- Settles O41: each event by what it does to the group, the core, the unit or the L1 lines that it names. -/
theorem fabricEventsComplete : Obligations.FabricEventsComplete := by
  intro s gid core unit va
  refine ⟨fun g hg hdue hroom => ?_, fun hcore hwindow => ?_, fun c asid x hc hmiss hwalk => ?_, fun d hd hbusy => ?_⟩
  · obtain ⟨o, p, hgrow⟩ := grow_eq (g := g) (s.fullAllot g)
    refine ⟨_, exec_growGrant hg hdue hroom, ?_⟩
    rw [hgrow]
    exact ⟨rfl, rfl, fun q l hq => nLane_enlarged hq l⟩
  · refine ⟨_, exec_ldcapWindowEnd hwindow, fun k hk => core_modCore_ne hk, ?_⟩
    rw [core_modCore_self hcore]
    exact ⟨rfl, rfl, rfl, rfl⟩
  · refine ⟨_, exec_pageWalkComplete hc hmiss hwalk, ?_⟩
    rw [tlb_install hmiss]
    exact ⟨List.mem_append_right _ (List.mem_singleton_self x), fun y hy hunit => mem_withTlb_other hy hunit, withTlb_of_room⟩
  · obtain ⟨hgroups, htlb, hshoot⟩ := dropLines_keeps (s := s) d.hitsLine
    refine ⟨_, exec_shootdownComplete hd hbusy, hgroups, fun y => ?_, fun l hl => mem_dropLines hl, fun y => ?_⟩
    · show y ∈ (s.dropLines d.hitsLine).msys.tlb.filter _ ↔ _
      rw [htlb, List.mem_filter, Bool.not_eq_true']
    · show y ∈ (s.dropLines d.hitsLine).msys.shootdowns.filter _ ↔ _
      rw [hshoot, List.mem_filter, decide_eq_true_eq]

end Sys2Proof.Machine
end

/-! # Placement, pre-emption, saving, resuming, harvest and completion (R91 to R96, R283, R291 to R303) -/

section
namespace Sys2Proof.Machine

variable {s u : State} {l : Launch} {t : Team} {c : Ctx} {die : Nat}

/-- A launch's next unit is placed in the launch's turn. -/
theorem exec_teamPlace (hl : s.launch? l.lid = some l) (hmay : s.mayPlace s.levels l = true) (hplace : s.placeNext l = some u)
    (hdie : s.nextDie l = some die) (hturn : s.launchTurn s.levels (s.levels.launch l.lid) die = some l.lid) :
    exec (.teamPlace l.lid) s = .next (u.tookDieTurn die l.lid) := by
  show execTeamPlace l.lid s = _
  unfold execTeamPlace
  simp only [hl, hmay, hplace, hdie, hturn, Bool.not_true, Bool.false_eq_true, if_false, if_true]

/-- A team that a launch asks for is asked to stop with its unit. -/
theorem exec_preemptRequest (ht : s.team? t.tid = some t) {m : Launch} (hm : m ∈ s.launches) (hasks : s.asksFor s.levels m t = true) :
    exec (.preemptRequest t.tid) s = .next (s.askUnit (s.unitOf t) (s.evictsFor s.levels t)) := by
  show execPreemptRequest t.tid s = _
  unfold execPreemptRequest
  rw [ht]
  exact if_pos (List.any_eq_true.2 ⟨m, hm, hasks⟩)

section
variable (hl : s.launch? l.lid = some l) (ht : s.team? t.tid = some t) (htl : t.lid = l.lid)
include hl ht htl

theorem exec_teamSave (hc : s.ctx? t.ctx = some c) (hplace : t.place = .running) (hstopped : s.unitStopped (s.unitOf t) = true)
    (hdrained : s.unitDrained (s.unitOf t) = true) (hfit : s.imagesFit c (s.unitOf t) = true) :
    exec (.teamSave t.tid) s = .next (s.saveUnit c l (s.unitOf t)) := by
  show execTeamSave t.tid s = _
  unfold execTeamSave
  simp only [ht, htl, hl, hc, hplace, hstopped, hdrained, hfit, decide_true, Bool.and_self, if_true]

/-- A unit whose window is over is killed to run again, or goes on, by its grid's REPLAYABLE (R94). -/
theorem exec_preemptTimeout (hc : s.ctx? t.ctx = some c) {at_ : Nat} (hpreempt : t.preempt = some at_) (hplace : t.place = .running)
    (hover : at_ + 20000 ≤ s.clock (coreDie t.core)) (hhalted : s.unitHalted c (s.unitOf t) = false) :
    exec (.preemptTimeout t.tid) s =
      if l.kd.gflags / 2 % 2 = 1 then
        let v := (s.unitOf t).foldl (fun (s : State) u => s.killTeam u .replay) s
        .next (match v.launch? l.lid with | some l => v.putLaunch { l with replayed := true } | none => v).reapPads
      else .next (s.goOnUnit (s.unitOf t)) := by
  have hwindow : ¬s.clock (coreDie t.core) < at_ + preemptWindow := Nat.not_lt.2 hover
  show execPreemptTimeout t.tid s = _
  unfold execPreemptTimeout
  rw [ht]
  dsimp only
  rw [htl, hl, hc, hpreempt]
  exact if_neg (by simp [hplace, hwindow, hhalted])

theorem exec_teamResume (hmem : t ∈ s.resumable l) (hkilled : l.killed = false) (hrank : s.outranked s.levels l true = false)
    (hresumed : s.resumed l t = some u) (hdie : s.resumeDie l t = some die)
    (hturn : s.launchTurn s.levels (s.levels.launch l.lid) die = some l.lid) :
    exec (.teamResume t.tid) s = .next (u.tookDieTurn die l.lid) := by
  show execTeamResume t.tid s = _
  unfold execTeamResume
  simp only [ht, htl, hl, hkilled, hrank, List.contains_iff_mem.2 hmem, hresumed, hdie, hturn, Bool.not_true, Bool.or_self, Bool.false_eq_true, if_false,
    if_true]

/-- A revoked unit that may return does so in place if it has lost no span, and else restarts once nothing of it is under way (R96, R383). -/
theorem exec_harvestResume (hmay : s.reapPads.mayReturn l (s.reapPads.unitOf t) = true) :
    let r := s.reapPads
    exec (.harvestResume t.tid) s =
      if ∀ u ∈ r.unitOf t, u.lost = [] then .next ((r.unitOf t).foldl (fun (s : State) u => s.returnTeam u) r)
      else if ∀ u ∈ r.unitOf t, (∀ g ∈ r.groupsOf u.tid, r.issuedDone g = true) ∧ r.forwarded u = true then
        .next ((r.unitOf t).foldl (fun (s : State) u => s.restartTeam u) r)
      else .next s := by
  show execHarvestResume t.tid s = _
  unfold execHarvestResume
  simp only [ht, htl, hl, hmay, Bool.not_true, Bool.false_eq_true, if_false, List.all_eq_true, decide_eq_true_eq, Bool.and_eq_true]

end

/-- The saved team of a unit that may resume is among its launch's. -/
theorem mem_resumable (ht : s.team? t.tid = some t) (htl : t.lid = l.lid) (hsaved : t.place = .saved)
    (hlimit : s.underLimit l (s.unitOf t).length = true) (hevicted : s.evictedYet (s.unitOf t) = false) : t ∈ s.resumable l := by
  refine List.mem_filter.2 ⟨(pick_some _ ht).1, ?_⟩
  simp only [htl, hsaved, hlimit, hevicted, decide_true, Bool.not_false, Bool.and_self]

theorem exec_harvestRevoke (ht : s.team? t.tid = some t) (hharvest : t.harvest = true) (hplace : t.place = .running) (hmust : s.mustRevoke t = true) :
    exec (.harvestRevoke t.tid) s = .next ((s.unitOf t).foldl (fun (s : State) u => s.revokeTeam u) s) := by
  show execHarvestRevoke t.tid s = _
  unfold execHarvestRevoke
  simp only [ht, hharvest, hplace, hmust, decide_true, Bool.and_self, if_true]

/-- A drained launch is over, by its kind (R283, R387). -/
theorem exec_launchComplete (hl : s.launch? l.lid = some l) (hkilled : l.killed = false) (hheld : l.held = none) (hdrained : s.launchDrained l = true) :
    exec (.launchComplete l.lid) s = match l.kind with
      | .grid => .next (s.completeLaunch l 0)
      | .meshlets f => match s.frame? f with
        | some fr => .next (s.putFrame { fr with meshDone := true })
        | none => .next s
      | _ => .next ((s.lendCores l).endLaunch l) := by
  show execLaunchComplete l.lid s = _
  unfold execLaunchComplete
  rw [hl]
  exact if_neg (by simp [hkilled, hheld, hdrained])

/-- Settles O46: each event by the checks that it makes. -/
theorem teamEventsComplete : Obligations.TeamEventsComplete := by
  intro s l t c hl ht htl hc us
  refine ⟨fun u die hmay hplace hdie hturn => exec_teamPlace hl hmay hplace hdie hturn, fun m hm hstarved hasked hchosen => ?_,
    exec_teamSave hl ht htl hc, fun at_ hpreempt hplace hover hhalted => ⟨fun hflag => ?_, fun m hflag hm => ?_⟩,
    fun u die x hsaved hkilled hlimit hevicted hrank hunit hx hdie hturn => ?_, exec_harvestRevoke ht, ?_, fun hkilled hheld hdrained => ?_⟩
  · refine exec_preemptRequest ht hm ?_
    simp only [State.asksFor, hstarved, hasked, Bool.not_false, Bool.true_and, Bool.or_eq_true, decide_eq_true_eq]
    exact hchosen
  · exact (exec_preemptTimeout hl ht htl hc hpreempt hplace hover hhalted).trans (if_neg (by omega))
  · refine (exec_preemptTimeout hl ht htl hc hpreempt hplace hover hhalted).trans ((if_pos hflag).trans ?_)
    dsimp only
    rw [hm]
  · have hresumed : s.resumed l t = some u := by
      unfold State.resumed
      rw [hc]
      exact hunit
    refine exec_teamResume hl ht htl (mem_resumable ht htl hsaved hlimit hevicted) hkilled hrank hresumed ?_ hturn
    unfold State.resumeDie
    rw [hresumed, Option.bind_some, hx, Option.map_some, hdie]
  · intro r hmay
    refine ⟨fun hkept => (exec_harvestResume hl ht htl hmay).trans (if_pos hkept), fun ⟨u, hu, hlost⟩ hdone => ?_⟩
    exact (exec_harvestResume hl ht htl hmay).trans ((if_neg fun hkept => hlost (hkept u hu)).trans (if_pos fun u hu => (hdone u hu).symm))
  · have hexec := exec_launchComplete hl hkilled hheld hdrained
    refine ⟨fun hkind => ?_, fun f fr hkind hfr => ?_, fun hpooled => ?_⟩
    · rw [hexec, hkind]
    · rw [hexec, hkind]
      dsimp only
      rw [hfr]
    · rw [hexec]
      cases hkind : l.kind <;> simp [hkind, LaunchKind.pooled] at hpooled ⊢

end Sys2Proof.Machine
end

/-! # Results by lane (R41 to R45, R112, R113) -/

section
namespace Sys2Proof.Machine

variable {s : State} {f : Frag} {i : Instr} {m : Marks} {n : Frag → Need} {d k : Code}

/-- A lane-wise result is given in the active lanes. -/
theorem laneOp_gives {w : Frag → Nat} {v : Frag → Nat → Nat} (h : Runs s f i m (n f)) :
    ∃ t, laneOp s i m n d w v = .next t ∧ Gives s f m d (w f) f.active (v f) t :=
  ⟨_, laneOp_go h, gives_result h.1⟩

/-- A lane-wise result whose events do not trap is given in the state that has counted them. -/
theorem laneEventOp_gives {w fmt : Frag → Nat} {v : Frag → Nat → Nat × List Nat} (h : Runs s f i m (n f))
    (hq : Quiet s f (laneNums.map fun l => (v f l).2)) :
    ∃ t, laneEventOp s i m n d w fmt v = .next t ∧
      Gives (s.countFp f (fmt f) (laneNums.map fun l => (v f l).2) f.active) f m d (w f) f.active (fun l => (v f l).1) t :=
  ⟨_, laneEventOp_go h hq, gives_result ((frag?_counts (onlyCounts_countFp _ _ _)).trans h.1)⟩

/-- A predicate result is written in the active lanes. -/
theorem predOp_decides {v : Frag → Nat → Bool} (h : Runs s f i m (n f)) :
    ∃ t, predOp s i m n k v = .next t ∧ Decides s f m k.toNat (v f) t :=
  ⟨_, predOp_go h, decides_setPredicate h.1⟩

/-- Events that raise no ARITH are counted in the lanes `counted`, and the instruction goes on. -/
theorem withEventsIn_quiet {mask : Option Nat} {fmt : Nat} {evs : LaneEvents} {counted : LaneMask} {next : State → State} (h : Quiet s f evs) :
    s.withEventsIn f mask fmt evs counted f.active next = next (s.countFp f fmt evs counted) := by
  obtain ⟨hskip, hquiet⟩ := h
  have htraps : (s.countFp f fmt evs counted).arithTraps f evs f.active = false := by
    unfold State.arithTraps
    rw [trapsArith_counts (onlyCounts_countFp fmt evs counted)]
    rcases hquiet with h | h <;> simp [h]
  unfold State.withEventsIn
  rw [if_neg (by simpa using hskip)]
  dsimp only
  rw [htraps]
  rfl

theorem foldl_or_zero {l : List Nat} (h : ∀ b ∈ l, b = 0) : l.foldl (· ||| ·) 0 = 0 := by
  induction l with
  | nil => rfl
  | cons b l ih =>
    obtain ⟨hb, hl⟩ := List.forall_mem_cons.1 h
    rw [List.foldl_cons, hb]
    exact ih hl

/-- Lanes that raise no event have an empty union. -/
theorem unionEvents_eq_zero {evs : LaneEvents} {a : LaneMask} (h : ∀ es ∈ evs, ∀ b ∈ es, b = 0) : unionEvents evs a = 0 := by
  refine foldl_or_zero fun b hb => ?_
  obtain ⟨l, hl, rfl⟩ := List.mem_mapIdx.1 hb
  split
  · exact foldl_or_zero (h _ (List.getElem_mem hl))
  · rfl

/-- An instruction of no floating format that raises no event goes on: nothing is counted, and nothing traps. -/
theorem withEvents_none {mask : Option Nat} {fmt : Nat} {evs : LaneEvents} {next : State → State} (hfmt : 4 < fmt)
    (hnone : ∀ es ∈ evs, ∀ b ∈ es, b = 0) : s.withEvents f mask fmt evs f.active next = next s := by
  unfold State.withEvents State.withEventsIn State.countFp State.arithTraps
  simp only [if_pos hfmt, unionEvents_eq_zero hnone, ne_eq, not_true_eq_false, decide_false, Bool.false_and, Bool.false_eq_true, if_false, ite_self]

/-- A lane-wise result of no floating format that raises no event. -/
theorem laneEventOp_gives_none {w fmt : Frag → Nat} {v : Frag → Nat → Nat × List Nat} (h : Runs s f i m (n f)) (hfmt : 4 < fmt f)
    (hnone : ∀ l, (v f l).2 = [0]) :
    ∃ t, laneEventOp s i m n d w fmt v = .next t ∧ Gives s f m d (w f) f.active (fun l => (v f l).1) t := by
  refine ⟨_, (issue_go h).trans ?_, gives_result h.1⟩
  dsimp only
  rw [withEvents_none hfmt]
  · rw [List.map_map]
    rfl
  · simp [hnone]

end Sys2Proof.Machine
end

/-! # Logic, shifts and bit fields of one word (R137 to R143) -/

section
namespace Sys2Proof.Machine

variable {s : State} {f : Frag} {i : Instr} {m : Marks} {d a b : Code} {v : Nat → Nat}

/-! ## Functions of words -/

/-- The word of a source of one word in a lane. -/
def Frag.aWord (f : Frag) (a : Code) (l : Nat) : Word := BitVec.ofNat 32 (f.src a 1 l)

/-- The word of B in a lane. -/
def Frag.bWord (f : Frag) (b : Code) (l : Nat) : Word := BitVec.ofNat 32 (f.srcB b 1 l)

theorem wordOp1_gives (op : Word → Word) (hj : exec i s = wordOp1 s i m d a op)
    (hv : ∀ l, (op (f.aWord a l)).toNat = v l) (h : Runs s f i m (needDA d a f)) :
    ∃ t, exec i s = .next t ∧ Gives s f m d 1 f.active v t := by
  rw [hj, ← funext hv]
  exact laneOp_gives h

theorem wordOp_gives (op : Word → Word → Word) (hj : exec i s = wordOp s i m d a b op)
    (hv : ∀ l, (op (f.aWord a l) (f.bWord b l)).toNat = v l) (h : Runs s f i m (needDAB d a b f)) :
    ∃ t, exec i s = .next t ∧ Gives s f m d 1 f.active v t := by
  rw [hj, ← funext hv]
  exact laneOp_gives h

theorem wordOp3_gives {c : BitVec 4} (op : Word → Word → Word → Word) (hj : exec i s = wordOp3 s i m d a b c op)
    (hv : ∀ l, (op (f.aWord a l) (f.bWord b l) (f.aWord (cCode d c) l)).toNat = v l)
    (h : Runs s f i m (needDABC d a b c f)) : ∃ t, exec i s = .next t ∧ Gives s f m d 1 f.active v t := by
  rw [hj, ← funext hv]
  exact laneOp_gives h

/-! ## Words of the encoding -/

/-- The word of an opcode with its marks and three operand codes (R34, R35): its fields in one sum. -/
theorem encode_word_eq (m : Marks) (d a b : Code) {op bits : Nat} (h : bits = op * 2 ^ 22) :
    [BitVec.ofNat 32 (marksBits m + (bits + d.toNat * 65536 + a.toNat * 1024 + b.toNat * 16))] =
      [BitVec.ofNat 32 (m.s.toNat * 2 ^ 31 + m.p.toNat * 2 ^ 30 + op * 2 ^ 22 + d.toNat * 2 ^ 16 + a.toNat * 2 ^ 10 + b.toNat * 2 ^ 4)] := by
  have hsum : marksBits m + (bits + d.toNat * 65536 + a.toNat * 1024 + b.toNat * 16) =
      m.s.toNat * 2 ^ 31 + m.p.toNat * 2 ^ 30 + op * 2 ^ 22 + d.toNat * 2 ^ 16 + a.toNat * 2 ^ 10 + b.toNat * 2 ^ 4 := by
    unfold marksBits
    omega
  rw [hsum]

/-- Settles O1: each is one function of words by lane, and its word a row of the encoding. -/
theorem logicComplete : Obligations.LogicComplete := by
  intro s f m d a b x y
  exact ⟨wordOp_gives (fun x y => x &&& y) rfl fun _ => rfl, wordOp_gives (fun x y => x &&& ~~~y) rfl fun _ => rfl,
    wordOp_gives (fun x y => x ||| y) rfl fun _ => rfl, wordOp_gives (fun x y => x ^^^ y) rfl fun _ => rfl,
    wordOp_gives (fun x y => x <<< count6 y) rfl fun _ => rfl, wordOp_gives (fun x y => x >>> count6 y) rfl fun _ => rfl,
    wordOp_gives (fun x y => x.sshiftRight (count6 y)) rfl fun _ => rfl, wordOp_gives (fun x y => x.rotateLeft (y.toNat % 32)) rfl fun _ => rfl,
    encode_word_eq m d a b rfl, encode_word_eq m d a b rfl, encode_word_eq m d a b rfl, encode_word_eq m d a b rfl, encode_word_eq m d a b rfl, encode_word_eq m d a b rfl,
    encode_word_eq m d a b rfl, encode_word_eq m d a b rfl⟩

section
variable (x y z : Word)

/-! ## Funnel shifts -/

/-- Two words in a row are one number. -/
theorem toNat_append_word : (x ++ y).toNat = x.toNat * 2 ^ 32 + y.toNat := by
  rw [BitVec.toNat_append, ← Nat.shiftLeft_add_eq_or_of_lt y.isLt, Nat.shiftLeft_eq]

theorem toNat_funnelLeft : (funnelLeft x y z).toNat = ((x ++ y) <<< (z.toNat % 32)).toNat / 2 ^ 32 := by
  rw [BitVec.toNat_shiftLeft, Nat.shiftLeft_eq, toNat_append_word, pow_add, Nat.mod_mul_right_div_self]
  unfold funnelLeft
  rw [BitVec.toNat_ofNat]

theorem toNat_funnelRight : (funnelRight x y z).toNat = ((x ++ y) >>> (z.toNat % 32)).toNat % 2 ^ 32 := by
  rw [BitVec.toNat_ushiftRight, Nat.shiftRight_eq_div_pow, toNat_append_word]
  unfold funnelRight
  rw [BitVec.toNat_ofNat]

/-! ## Fields of a word (R140, R141) -/

/-- The field of a word that `y` describes. -/
def bitField (x y : Word) : Nat := x.toNat / 2 ^ fieldOff y % 2 ^ fieldWidth y

theorem bitField_lt : bitField x y < 2 ^ fieldWidth y := Nat.mod_lt _ (by positivity)

theorem fieldWidth_le : fieldWidth y ≤ 32 := (Nat.min_le_right _ _).trans (Nat.sub_le _ _)

theorem toNat_bfxWord : (bfxWord x y).toNat = bitField x y :=
  (BitVec.toNat_ofNat _ _).trans (Nat.mod_eq_of_lt ((bitField_lt x y).trans_le (Nat.pow_le_pow_right (by decide) (fieldWidth_le y))))

theorem two_pow_eq_double {w : Nat} (hw : 0 < w) : 2 ^ w = 2 * 2 ^ (w - 1) := by
  rw [← pow_succ', Nat.sub_add_cancel hw]

theorem toNat_ofNat_unsignedOf (v : Int) : (BitVec.ofNat 32 (unsignedOf 32 v)).toNat = unsignedOf 32 v := by
  rw [BitVec.toNat_ofNat]
  unfold unsignedOf
  omega

/-- A field read as a signed integer, as a word. -/
theorem toNat_bfxsWord : (bfxsWord x y).toNat =
    if fieldWidth y = 0 then 0 else if bitField x y < 2 ^ (fieldWidth y - 1) then bitField x y else bitField x y + 2 ^ 32 - 2 ^ fieldWidth y := by
  unfold bfxsWord
  split
  · rfl
  next hwidth =>
    have hlt := bitField_lt x y
    have hhalf := two_pow_eq_double (Nat.pos_of_ne_zero hwidth)
    have hle : 2 ^ fieldWidth y ≤ 2 ^ 32 := Nat.pow_le_pow_right (by decide) (fieldWidth_le y)
    rw [toNat_ofNat_unsignedOf, toNat_bfxWord]
    unfold signedOf unsignedOf
    rw [Nat.mod_eq_of_lt hlt, ← Nat.cast_ofNat (R := Int), ← Nat.cast_pow]
    generalize 2 ^ (fieldWidth y - 1) = q at *
    generalize 2 ^ fieldWidth y = p at *
    split <;> split <;> omega

/-- The bits of a field's mask. -/
theorem testBit_fieldMask (w o k : Nat) : ((2 ^ w - 1) * 2 ^ o).testBit k = (decide (o ≤ k) && decide (k < o + w)) := by
  rw [Nat.testBit_mul_two_pow, Nat.testBit_two_pow_sub_one]
  by_cases h : o ≤ k
  · simp only [h, decide_true, Bool.true_and, decide_eq_decide]
    omega
  · simp [h]

/-- Bit `k` of an insertion: the value's in the field, and else the old word's. -/
theorem getLsbD_insertField {k : Nat} (hk : k < 32) : (insertField x y z).getLsbD k =
    if fieldOff y ≤ k ∧ k < fieldOff y + fieldWidth y then x.getLsbD (k - fieldOff y) else z.getLsbD k := by
  simp only [insertField, BitVec.getLsbD_or, BitVec.getLsbD_and, BitVec.getLsbD_not, BitVec.getLsbD_shiftLeft, BitVec.getLsbD_ofNat, hk,
    testBit_fieldMask, decide_true, Bool.true_and]
  by_cases hlo : fieldOff y ≤ k
  · by_cases hhi : k < fieldOff y + fieldWidth y <;> simp [hlo, hhi]
  · simp [hlo]

/-! ## Counts (R142), and halves (R143) -/

theorem toNat_ofNat_of_le_32 {n : Nat} (h : n ≤ 32) : (BitVec.ofNat 32 n).toNat = n := Nat.mod_eq_of_lt (by omega)

theorem popCount_le (n v : Nat) : popCount n v ≤ n := (List.length_filter_le _ _).trans_eq List.length_range

/-- The first number below `n` with a property, or `n`: as many as stand before it have it not. -/
theorem find?_range_getD (p : Nat → Bool) (n : Nat) : ((List.range n).find? p).getD n = ((List.range n).takeWhile fun k => !p k).length := by
  rw [List.find?_eq_getElem?_findIdx, List.takeWhile_eq_take_findIdx_not, List.length_take, List.length_range]
  simp only [Bool.not_not]
  have h : List.findIdx p (List.range n) ≤ n := List.findIdx_le_length.trans_eq List.length_range
  rw [Nat.min_eq_left h]
  rcases h.lt_or_eq with hlt | heq
  · rw [List.getElem?_range hlt, Option.getD_some]
  · rw [List.getElem?_eq_none (by simp [heq]), Option.getD_none, heq]

theorem toNat_popCount : (BitVec.ofNat 32 (popCount 32 x.toNat)).toNat = ((List.range 32).filter fun k => x.getLsbD k).length :=
  toNat_ofNat_of_le_32 (popCount_le 32 x.toNat)

theorem takeWhile_range_le (p : Nat → Bool) (n : Nat) : ((List.range n).takeWhile p).length ≤ n :=
  (List.takeWhile_sublist _).length_le.trans_eq List.length_range

theorem toNat_leadingZeros : (BitVec.ofNat 32 (leadingZeros x.toNat)).toNat = ((List.range 32).takeWhile fun k => !x.getLsbD (31 - k)).length := by
  unfold leadingZeros
  rw [find?_range_getD]
  exact toNat_ofNat_of_le_32 (takeWhile_range_le _ 32)

theorem toNat_trailingZeros : (BitVec.ofNat 32 (trailingZeros x.toNat)).toNat = ((List.range 32).takeWhile fun k => !x.getLsbD k).length := by
  unfold trailingZeros
  rw [find?_range_getD]
  exact toNat_ofNat_of_le_32 (takeWhile_range_le _ 32)

theorem toNat_lowHalf : (x &&& 0xFFFF).toNat = x.toNat % 2 ^ 16 := by
  rw [BitVec.toNat_and, ← Nat.and_two_pow_sub_one_eq_mod]
  rfl

/-- Two halves side by side. -/
theorem toNat_halves : ((y <<< 16) ||| (x &&& 0xFFFF)).toNat = y.toNat % 2 ^ 16 * 2 ^ 16 + x.toNat % 2 ^ 16 := by
  have hhigh : (y <<< 16).toNat = (y.toNat % 2 ^ 16) <<< 16 := by
    rw [BitVec.toNat_shiftLeft, Nat.shiftLeft_eq, Nat.shiftLeft_eq, show 2 ^ 32 = 2 ^ 16 * 2 ^ 16 from rfl, Nat.mul_mod_mul_right]
  rw [BitVec.toNat_or, toNat_lowHalf, hhigh, ← Nat.shiftLeft_add_eq_or_of_lt (Nat.mod_lt _ (by decide)), Nat.shiftLeft_eq]

/-- A half of a word, by X. -/
theorem toNat_half (c : BitVec 4) : (if c.toNat = 0 then x &&& 0xFFFF else x >>> 16).toNat = if c = 0 then x.toNat % 2 ^ 16 else x.toNat / 2 ^ 16 := by
  by_cases hc : c = 0
  · rw [if_pos (by simp [hc]), if_pos hc, toNat_lowHalf]
  · rw [if_neg (by simpa [← BitVec.toNat_inj] using hc), if_neg hc, BitVec.toNat_ushiftRight, Nat.shiftRight_eq_div_pow]

end

/-- Settles O2: each is one function of words by lane, whose value is what the rule says of bits and numbers. -/
theorem bitFieldsComplete : Obligations.BitFieldsComplete := by
  intro s f m d a b c x y z off width field
  exact ⟨wordOp3_gives funnelLeft rfl fun l => toNat_funnelLeft (x l) (y l) (z l),
    wordOp3_gives funnelRight rfl fun l => toNat_funnelRight (x l) (y l) (z l),
    wordOp_gives bfxWord rfl fun l => toNat_bfxWord (x l) (y l), wordOp_gives bfxsWord rfl fun l => toNat_bfxsWord (x l) (y l),
    fun h =>
      have ⟨t, ht, hgives⟩ := wordOp3_gives insertField rfl (fun _ => rfl) h
      ⟨t, ht, fun l => insertField (x l) (y l) (z l), hgives, fun l _ hk => getLsbD_insertField (x l) (y l) (z l) hk⟩,
    wordOp1_gives (fun x => BitVec.ofNat 32 (popCount 32 x.toNat)) rfl fun l => toNat_popCount (x l),
    wordOp1_gives (fun x => BitVec.ofNat 32 (leadingZeros x.toNat)) rfl fun l => toNat_leadingZeros (x l),
    wordOp1_gives (fun x => BitVec.ofNat 32 (trailingZeros x.toNat)) rfl fun l => toNat_trailingZeros (x l),
    wordOp1_gives BitVec.reverse rfl fun _ => rfl, wordOp_gives (fun x y => (y <<< 16) ||| (x &&& 0xFFFF)) rfl fun l => toNat_halves (x l) (y l),
    wordOp1_gives (fun v => if c.toNat = 0 then v &&& 0xFFFF else v >>> 16) rfl fun l => toNat_half (x l) c⟩

end Sys2Proof.Machine
end

/-! # Moves and immediates (R116, R119 to R123, R130, R135, R136) -/

section
namespace Sys2Proof.Machine

variable {s : State} {f : Frag} {m : Marks} {d : Code}

theorem exec_getm (h : Runs s f (.getm m d) m (needD d f)) :
    exec (.getm m d) s = .next ((s.result f d 1 (perLane fun _ => f.g.mode.toNat) f.sl.mask).goOn f m) := issue_go h

theorem if_bne_eq_if_eq {α : Type} (p n : Bool) (x y : α) : (if p != n then x else y) = if p = n then y else x := by
  by_cases h : p = n <;> simp [h]

/-- Settles O3: each but GETM is one lane-wise result; SEL takes B where its predicate equals n. -/
theorem movesComplete : Obligations.MovesComplete := by
  intro s f m d a b i j n k x w v
  have hlane {e : Instr} (n : Frag → Need) (w : Frag → Nat) (v : Frag → Nat → Nat) (he : exec e s = laneOp s e m n d w v) (h : Runs s f e m (n f)) :
      ∃ t, exec e s = .next t ∧ Gives s f m d (w f) f.active (v f) t := by
    rw [he]
    exact laneOp_gives h
  have hword {e : Instr} (n : Frag → Need) (v : Frag → Nat → Nat) (he : exec e s = laneOp s e m n d (fun _ => 1) v) := hlane n _ v he
  have htyped {e : Instr} (n : Frag → Need) (v : Frag → Nat → Nat) (he : exec e s = laneOp s e m n d Frag.words v) := hlane n _ v he
  refine ⟨hword (needD d) (fun _ _ => (j.signExtend 32).toNat) rfl, hword (needDA d a) (fun f l => (f.aWord a l &&& i.signExtend 32).toNat) rfl,
    hword (needDA d a) (fun f l => (f.aWord a l ||| i.signExtend 32).toNat) rfl, hword (needDA d a) (fun f l => (f.aWord a l ^^^ i.signExtend 32).toNat) rfl,
    hword (needDA d a) (fun f l => f.src a 1 l * 2 ^ i.toNat % 2 ^ 32) rfl, fun h => ⟨_, exec_getm h, gives_result h.1⟩,
    htyped (typedDA anyType d a) (fun f l => f.src a f.words l) rfl,
    htyped (typedDA intType d a)
      (fun f l => (byElem f.g.type (elemOp f.g.type f.g.sat (fun z => argZ z 0 + i.toInt) fun _ y => (arg y 0, 0)) [f.src a f.words l]).1) rfl,
    htyped (typedDA intType d a) (fun f l => (byElem f.g.type (shrElem f.g.type i.toNat) [f.src a f.words l]).1) rfl, ?_,
    htyped (typedDAB wholeInt d a b) (fun f l => (f.src a f.words l + f.srcB b f.words l * 2 ^ x.toNat) % 2 ^ (32 * f.words)) rfl,
    hword (fun f => { typed := floatType f.g.type, srcs := [opnd a f.words], dst := some (opnd d 1) })
      (fun f l => classWord f.g.type (f.src a f.words l)) rfl⟩
  have hsel := htyped (e := .sel m d a b n k) (typedDAB anyType d a b)
    (fun f l => if (f.g.kReg k.toNat).getLsbD l != n then f.src a f.words l else f.srcB b f.words l) rfl
  simp only [if_bne_eq_if_eq] at hsel
  exact hsel

end Sys2Proof.Machine
end

/-! # Typed arithmetic (R125, R126, R128, R131, R134, R141) -/

section
namespace Sys2Proof.Machine

/-- Settles O5: each is one lane-wise result with the events of its elements. -/
theorem arithmeticComplete : Obligations.ArithmeticComplete := by
  intro s f m d a b c x ty w gives ab of2 of1
  have hlane {j : Instr} (n : Frag → Need) (w fmt : Frag → Nat) (v : Frag → Nat → Nat × List Nat)
      (hj : exec j s = laneEventOp s j m n d w fmt v) : gives j (n f) (w f) (fmt f) (v f) := fun h hq => by
    rw [hj]
    exact laneEventOp_gives h hq
  have hpair {j : Instr} (ok : Nat → Bool) (op : Nat → Nat → Bool → List Nat → Nat × Nat)
      (hj : exec j s = laneEventOp s j m (typedDAB ok d a b) d Frag.words Frag.fmt fun f l => byElem f.g.type (op f.g.type f.g.round f.g.sat) (f.ab a b l)) :
      gives j (typedDAB ok d a b f) w (typeFmt ty) (of2 (op ty f.g.round f.g.sat)) :=
    hlane (typedDAB ok d a b) Frag.words Frag.fmt (fun f l => byElem f.g.type (op f.g.type f.g.round f.g.sat) (f.ab a b l)) hj
  have hone {j : Instr} (ok : Nat → Bool) (op : Nat → Nat → Bool → List Nat → Nat × Nat)
      (hj : exec j s = laneEventOp s j m (typedDA ok d a) d Frag.words Frag.fmt fun f l => byElem f.g.type (op f.g.type f.g.round f.g.sat) [f.src a f.words l]) :
      gives j (typedDA ok d a f) w (typeFmt ty) (of1 (op ty f.g.round f.g.sat)) :=
    hlane (typedDA ok d a) Frag.words Frag.fmt (fun f l => byElem f.g.type (op f.g.type f.g.round f.g.sat) [f.src a f.words l]) hj
  exact ⟨hpair _ addElem rfl, hpair _ subElem rfl, hpair _ mulElem rfl, hpair _ (fun t _ _ => mulhElem t) rfl,
    hlane (typedDABC anyType d a b c) Frag.words Frag.fmt (fun f l => byElem f.g.type (madElem f.g.type f.g.round f.g.sat) (f.abc a b d c l)) rfl,
    hpair _ (fun t _ _ => minMaxElem t false) rfl, hpair _ (fun t _ _ => minMaxElem t true) rfl,
    hone _ (fun t _ => absElem t) rfl, hone _ (fun t _ => negElem t) rfl,
    hone _ (fun t _ _ => fltElem t fun g v => fIntegral g 2 v) rfl, hone _ (fun t _ _ => fltElem t fun g v => fIntegral g 3 v) rfl,
    hone _ (fun t rm _ => fltElem t fun g v => fIntegral g rm v) rfl, hone _ (fun t _ _ => fltElem t fFrac) rfl,
    hlane (fun f => { typed := cvtTyped f.g.type x.toNat, srcs := [opnd a (cvtReads f.g.type x.toNat)], dst := some (opnd d (cvtWrites f.g.type x.toNat)) })
      (fun f => cvtWrites f.g.type x.toNat) (fun f => cvtFmt f.g.type x.toNat)
      (fun f l => cvtValue f.g.type x.toNat f.g.round f.g.sat (f.src a (cvtReads f.g.type x.toNat) l)) rfl,
    hlane (needDABC d a b c) (fun _ => 1) (fun _ => 0xFF) (fun f l =>
      let r := bfisWord (f.aWord a l) (f.bWord b l) (f.aWord (cCode d c) l)
      (r.1, [r.2])) rfl⟩

/-! ## Integers of 32 bits (R109) -/

section
variable {t : Nat} {sg sat : Bool} {v : Nat} {z : Int}

/-- A 32-bit word as a signed or an unsigned integer. -/
theorem intValue_word : intValue sg 32 v = if sg then (BitVec.ofNat 32 v).toInt else ((BitVec.ofNat 32 v).toNat : Int) := by
  cases sg
  · simp [intValue]
  · rw [if_pos rfl, ← intValue_signed]
    simp [intValue, signedOf]

/-- An exact result is reduced modulo 2^32, or clamped to the type's range first. -/
theorem intResult_word : intResult sg 32 sat z =
    let lo : Int := if sg then -2 ^ 31 else 0
    let hi : Int := if sg then 2 ^ 31 - 1 else 2 ^ 32 - 1
    (BitVec.ofInt 32 (if sat then (if z < lo then lo else if hi < z then hi else z) else z)).toNat := by
  have hclamp (lo hi : Int) (h : lo ≤ hi) : max lo (min hi z) = if z < lo then lo else if hi < z then hi else z := by
    split <;> [skip; split] <;> omega
  rw [BitVec.toNat_ofInt]
  unfold intResult unsignedOf
  dsimp only
  rw [hclamp _ _ (by cases sg <;> decide)]
  rfl

/-- An operation of a type of one 32-bit integer to a word raises no event. -/
theorem byElem_word {int : List Int → Int} {flt : FFmt → List Nat → Nat × Nat} {args : List Nat} (ht : elemOf t = .int sg 32) (hone : typePacked t = false) :
    byElem t (elemOp t sat int flt) args = (intResult sg 32 sat (int (args.map (intValue sg 32))), [0]) := by
  unfold byElem elemOp ofElems elemsOf
  simp [ht, hone, Function.comp_def]

end

theorem min_eq_ite_lt (x y : Int) : min x y = if x < y then x else y := by
  split <;> omega

theorem max_eq_ite_lt (x y : Int) : max x y = if x < y then y else x := by
  split <;> omega

/-- Settles O6: the exact integer of the words' values, in types that count and trap no event. -/
theorem integerArithmeticExact : Obligations.IntegerArithmeticExact := by
  intro s f m d a b c htype z lo hi fit p q gives
  obtain ⟨sg, helem, hsg, hone, hwords, hfmt⟩ : ∃ sg, elemOf f.g.type = .int sg 32 ∧ (sg = true ↔ f.g.type = 0) ∧ typePacked f.g.type = false ∧
      f.words = 1 ∧ f.fmt = 0xFF := by
    unfold Frag.words Frag.fmt
    rcases htype with h | h <;> rw [h]
    · exact ⟨true, rfl, by decide, rfl, rfl, rfl⟩
    · exact ⟨false, rfl, by decide, rfl, rfl, rfl⟩
  have hz (v : Nat) : intValue sg 32 v = z v := by simp only [intValue_word, hsg, z]
  have hfit (y : Int) : intResult sg 32 f.g.sat y = fit y := by simp only [intResult_word, hsg, fit, lo, hi]
  have hexact (y : Int) : intResult sg 32 false y = (BitVec.ofInt 32 y).toNat := intResult_word
  have hlane {j : Instr} (n : Frag → Need) (v : Frag → Nat → Nat × List Nat) (hj : exec j s = laneEventOp s j m n d Frag.words Frag.fmt v)
      {r : Nat → Nat} (hv : ∀ l, v f l = (r l, [0])) : gives j (n f) r := fun h => by
    have hgives := laneEventOp_gives_none (w := Frag.words) (fmt := Frag.fmt) (d := d) h (by rw [hfmt]; decide) fun l => congrArg Prod.snd (hv l)
    rw [← hj, hwords] at hgives
    simpa only [hv] using hgives
  have hpair {j : Instr} (op : Nat → Nat → Bool → List Nat → Nat × Nat) (int : Int → Int → Int) {sat : Bool} {flt : FFmt → List Nat → Nat × Nat}
      (hop : op f.g.type f.g.round f.g.sat = elemOp f.g.type sat (fun z => int (argZ z 0) (argZ z 1)) flt)
      (hj : exec j s = laneEventOp s j m (typedDAB anyType d a b) d Frag.words Frag.fmt fun f l =>
        byElem f.g.type (op f.g.type f.g.round f.g.sat) (f.ab a b l))
      {r : Nat → Nat} (hr : ∀ l, intResult sg 32 sat (int (p l) (q l)) = r l) : gives j (typedDAB anyType d a b f) r := by
    refine hlane (typedDAB anyType d a b) (fun f l => byElem f.g.type (op f.g.type f.g.round f.g.sat) (f.ab a b l)) hj fun l => ?_
    rw [hop, byElem_word helem hone, Frag.ab, hwords, List.map_cons, List.map_cons, hz, hz, ← hr]
    rfl
  refine ⟨hpair addElem (· + ·) rfl rfl fun l => hfit _, hpair subElem (· - ·) rfl rfl fun l => hfit _, hpair mulElem (· * ·) rfl rfl fun l => hfit _, ?_,
    hpair (fun t _ _ => minMaxElem t false) min rfl rfl fun l => by rw [hexact, min_eq_ite_lt],
    hpair (fun t _ _ => minMaxElem t true) max rfl rfl fun l => by rw [hexact, max_eq_ite_lt], ?_⟩
  · refine hlane (typedDABC anyType d a b c) (fun f l => byElem f.g.type (madElem f.g.type f.g.round f.g.sat) (f.abc a b d c l)) rfl fun l => ?_
    rw [madElem, byElem_word helem hone, Frag.abc, hwords, hfit]
    simp only [List.map_cons, hz]
    rfl
  · refine hlane (typedDA anyType d a) (fun f l => byElem f.g.type (negElem f.g.type f.g.sat) [f.src a f.words l]) rfl fun l => ?_
    rw [negElem, byElem_word helem hone, hwords, hfit]
    simp only [List.map_cons, hz]
    rfl

end Sys2Proof.Machine
end

/-! # Integer division (R127) -/

section
namespace Sys2Proof.Machine

variable {w a b : Nat} {sat : Bool}

/-- A number below 2^w as a signed integer of `w` bits. -/
theorem intValue_signed_of_lt (hw : 0 < w) (ha : a < 2 ^ w) :
    intValue true w a = if a < 2 ^ (w - 1) then (a : Int) else (a : Int) - 2 ^ w := by
  have hhalf : 2 * a < 2 ^ w ↔ a < 2 ^ (w - 1) := by
    have := two_pow_eq_double hw
    omega
  simp only [intValue, signedOf, Nat.mod_eq_of_lt ha, hhalf, if_true]

theorem intValue_unsigned_of_lt (ha : a < 2 ^ w) : intValue false w a = a := by
  simp only [intValue, Nat.mod_eq_of_lt ha, Bool.false_eq_true, if_false]

/-- Only 0 has the value 0. -/
theorem intValue_eq_zero {sg : Bool} (hw : 0 < w) (hb : b < 2 ^ w) : intValue sg w b = 0 ↔ b = 0 := by
  cases sg
  · rw [intValue_unsigned_of_lt hb]
    omega
  · rw [intValue_signed_of_lt hw hb]
    have hcast : ((2 ^ w : Nat) : Int) = 2 ^ w := by push_cast; rfl
    have hpos : 0 < 2 ^ (w - 1) := by positivity
    split <;> omega

/-- A signed integer of `w` bits lies in its range. -/
theorem intValue_signed_range (hw : 0 < w) (ha : a < 2 ^ w) : -2 ^ (w - 1) ≤ intValue true w a ∧ intValue true w a < 2 ^ (w - 1) := by
  have hdouble : (2 : Int) ^ w = 2 * 2 ^ (w - 1) := by exact_mod_cast two_pow_eq_double hw
  have hlt : (a : Int) < 2 ^ w := by exact_mod_cast ha
  have hhalf : a < 2 ^ (w - 1) ↔ (a : Int) < 2 ^ (w - 1) := by exact_mod_cast Iff.rfl
  rw [intValue_signed_of_lt hw ha]
  simp only [hhalf]
  generalize (2 : Int) ^ (w - 1) = h at *
  split <;> omega

theorem unsignedOf_natCast (ha : a < 2 ^ w) : unsignedOf w a = a := by
  unfold unsignedOf
  rw [show ((a : Int) % 2 ^ w) = ((a % 2 ^ w : Nat) : Int) by push_cast; rfl, Nat.mod_eq_of_lt ha, Int.toNat_natCast]

/-- A result that lies in the range of its type is not clamped. -/
theorem intResult_of_range {sg : Bool} {z : Int} (hlo : (if sg then -(2 : Int) ^ (w - 1) else 0) ≤ z)
    (hhi : z ≤ if sg then (2 : Int) ^ (w - 1) - 1 else (2 : Int) ^ w - 1) : intResult sg w sat z = unsignedOf w z := by
  unfold intResult
  dsimp only
  rw [min_eq_right hhi, max_eq_right hlo, ite_self]

/-- One past the greatest signed value is clamped to it. -/
theorem intResult_signed_clamped (hw : 0 < w) : intResult true w true (2 ^ (w - 1)) = 2 ^ (w - 1) - 1 := by
  have hpos : (0 : Int) < 2 ^ (w - 1) := by positivity
  have hlt : 2 ^ (w - 1) - 1 < 2 ^ w := (Nat.sub_le _ _).trans_lt (Nat.pow_lt_pow_right (by decide) (by omega))
  have hcast : (2 : Int) ^ (w - 1) - 1 = ((2 ^ (w - 1) - 1 : Nat) : Int) := by
    rw [Nat.cast_sub Nat.one_le_two_pow]
    push_cast
    rfl
  unfold intResult
  dsimp only
  rw [if_pos rfl, if_pos rfl, if_pos rfl, min_eq_left (by omega), max_eq_right (by omega), hcast, unsignedOf_natCast hlt]

/-- A remainder that truncation leaves is smaller than the divisor and has the dividend's sign. -/
theorem tmod_spec (x : Int) {y : Int} (hy : y ≠ 0) : |x.tmod y| < |y| ∧ (0 ≤ x → 0 ≤ x.tmod y) ∧ (x ≤ 0 → x.tmod y ≤ 0) := by
  refine ⟨?_, Int.tmod_nonneg y, fun hx => ?_⟩
  · rw [Int.abs_eq_natAbs, Int.abs_eq_natAbs, Int.natAbs_tmod]
    exact_mod_cast Nat.mod_lt _ (Int.natAbs_pos.2 hy)
  · have := Int.tmod_nonneg y (neg_nonneg.2 hx)
    rw [Int.neg_tmod] at this
    omega

/-! ## By zero -/

theorem intRem_zero {sg : Bool} (hw : 0 < w) (ha : a < 2 ^ w) : intRem sg w a 0 = (a, evDiv0) := by
  unfold intRem
  rw [if_pos ((intValue_eq_zero hw (by positivity)).2 rfl), Nat.mod_eq_of_lt ha]

theorem intDiv_zero {sg : Bool} (hw : 0 < w) : intDiv sg w sat a 0 =
    (if sg then (if 0 ≤ intValue sg w a then 2 ^ (w - 1) - 1 else 2 ^ (w - 1)) else 2 ^ w - 1, evDiv0) := by
  unfold intDiv
  exact if_pos ((intValue_eq_zero hw (by positivity)).2 rfl)

/-! ## By another number -/

section
variable (hw : 0 < w) (hb : b < 2 ^ w) (hb0 : b ≠ 0)
include hw hb hb0

theorem intDiv_nonzero {sg : Bool} : intDiv sg w sat a b = (intResult sg w sat ((intValue sg w a).tdiv (intValue sg w b)), 0) := by
  unfold intDiv
  exact if_neg (mt (intValue_eq_zero hw hb).1 hb0)

theorem intRem_nonzero {sg : Bool} : intRem sg w a b = (unsignedOf w ((intValue sg w a).tmod (intValue sg w b)), 0) := by
  unfold intRem
  exact if_neg (mt (intValue_eq_zero hw hb).1 hb0)

/-- Unsigned division and its remainder are those of natural numbers. -/
theorem int_unsigned_nonzero (ha : a < 2 ^ w) : intDiv false w sat a b = (a / b, 0) ∧ intRem false w a b = (a % b, 0) := by
  have hquot : a / b < 2 ^ w := (Nat.div_le_self a b).trans_lt ha
  have hrem : a % b < 2 ^ w := (Nat.mod_le a b).trans_lt ha
  rw [intDiv_nonzero hw hb hb0, intRem_nonzero hw hb hb0, intValue_unsigned_of_lt ha, intValue_unsigned_of_lt hb, ← Int.ofNat_tdiv, ← Int.ofNat_tmod,
    intResult_of_range, unsignedOf_natCast hquot, unsignedOf_natCast hrem]
  · exact ⟨rfl, rfl⟩
  · simp only [Bool.false_eq_true, if_false]
    positivity
  · have : ((a / b : Nat) : Int) < 2 ^ w := by exact_mod_cast hquot
    simp only [Bool.false_eq_true, if_false]
    omega

/-- Signed division truncates, and its quotient overflows in one case alone. -/
theorem intDiv_signed_nonzero (ha : a < 2 ^ w) :
    let q := (intValue true w a).tdiv (intValue true w b)
    (sat = false ∨ q < 2 ^ (w - 1) → intDiv true w sat a b = (unsignedOf w q, 0)) ∧
      (sat = true → q = 2 ^ (w - 1) → intDiv true w sat a b = (2 ^ (w - 1) - 1, 0)) := by
  intro q
  have hle : q.natAbs ≤ (intValue true w a).natAbs := Int.natAbs_tdiv_le_natAbs _ _
  obtain ⟨hmin, hmax⟩ := intValue_signed_range hw ha
  rw [intDiv_nonzero hw hb hb0]
  refine ⟨fun h => ?_, fun hsat hq => ?_⟩
  · rcases h with rfl | hlt
    · rfl
    · rw [intResult_of_range]
      · rw [if_pos rfl]
        omega
      · rw [if_pos rfl]
        omega
  · show (intResult true w sat q, 0) = _
    rw [hsat, hq, intResult_signed_clamped hw]

end

/-- Settles O8: by zero each answers its fixed value; else the quotient truncates, and what it leaves is the remainder. -/
theorem integerDivision : Obligations.IntegerDivision := by
  intro w a b sat hw ha hb
  refine ⟨fun hb0 => ?_, fun hb0 => ?_⟩
  · subst hb0
    have hsign : 0 ≤ intValue true w a ↔ a < 2 ^ (w - 1) := by
      have hlt : (a : Int) < 2 ^ w := by exact_mod_cast ha
      rw [intValue_signed_of_lt hw ha]
      split <;> omega
    exact ⟨intDiv_zero hw, intRem_zero hw ha, intRem_zero hw ha, by rw [intDiv_zero hw]; simp only [hsign, if_true]⟩
  · obtain ⟨hdiv, hrem⟩ := int_unsigned_nonzero (sat := sat) hw hb hb0 ha
    refine ⟨hdiv, hrem, ?_⟩
    intro x y
    obtain ⟨hlt, hpos, hneg⟩ := tmod_spec x (mt (intValue_eq_zero (sg := true) hw hb).1 hb0)
    obtain ⟨hin, hover⟩ := intDiv_signed_nonzero (sat := sat) hw hb hb0 ha
    exact ⟨x.tdiv y, x.tmod y, (Int.mul_comm _ _ ▸ Int.mul_tdiv_add_tmod x y).symm, hlt, hpos, hneg, intRem_nonzero hw hb hb0, hin, hover⟩

end Sys2Proof.Machine
end

/-! # Predicates (R124, R129, R144, R146, R175) -/

section
namespace Sys2Proof.Machine

variable {s : State} {f : Frag} {i : Instr} {m : Marks} {n : Frag → Need} {k : Code}

theorem lt_of_mem_laneNums {l : Nat} (h : l ∈ laneNums) : l < 64 := by
  simpa [laneNums] using h

theorem getD_map_laneNums {α : Type} {v : Nat → α} {x : α} {l : Nat} (h : l < 64) : (laneNums.map v).getD l x = v l := by
  simp [laneNums, h]

/-- A predicate result reads its function at lane numbers only. -/
theorem setPredicate_congr {a : LaneMask} {v v' : Nat → Bool} (h : ∀ l, l < 64 → v l = v' l) : s.setPredicate f k a v = s.setPredicate f k a v' := by
  have hpred (old : LaneMask) : predicate old a v = predicate old a v' := by
    unfold predicate
    refine List.foldl_ext _ _ _ fun old l hl => ?_
    rw [h l (lt_of_mem_laneNums hl)]
  unfold State.setPredicate
  simp only [hpred]

/-- A comparison whose events do not trap: they are counted, and the predicate is written in the active lanes. -/
theorem compareOp_decides {v : Frag → Nat → Bool × Nat} (h : Runs s f i m (n f)) (hq : Quiet s f (laneNums.map fun l => [(v f l).2])) :
    ∃ t, compareOp s i m n k v = .next t ∧
      Decides (s.countFp f (typeFmt f.g.type) (laneNums.map fun l => [(v f l).2]) f.active) f m k.toNat (fun l => (v f l).1) t := by
  refine ⟨_, (issue_go h).trans ?_, decides_setPredicate ((frag?_counts (onlyCounts_countFp _ _ _)).trans h.1)⟩
  dsimp only
  rw [List.map_map]
  refine congrArg Host.Outcome.next ((withEvents_quiet hq).trans ?_)
  rw [setPredicate_congr fun l hl => congrArg Prod.fst (getD_map_laneNums hl)]
  rfl

theorem mem_lanesOf {a : LaneMask} {l : Nat} : l ∈ lanesOf a ↔ a.getLsbD l = true := by
  refine List.mem_filter.trans ⟨And.right, fun h => ⟨List.mem_range.2 ?_, h⟩⟩
  exact lt_of_not_ge fun hl => by simp [BitVec.getLsbD_of_ge a l hl] at h

theorem lt_of_getLsbD {a : LaneMask} {l : Nat} (h : a.getLsbD l = true) : l < 64 :=
  lt_of_mem_laneNums (List.mem_filter.1 (mem_lanesOf.2 h)).1

theorem and_eq_self_iff_all (x a : LaneMask) : decide (x &&& a = a) = (lanesOf a).all x.getLsbD := by
  rw [Bool.eq_iff_iff, decide_eq_true_eq, List.all_eq_true, BitVec.eq_of_getLsbD_eq_iff]
  simp only [mem_lanesOf, BitVec.getLsbD_and]
  refine ⟨fun h l hl => by simpa [hl] using h l (lt_of_getLsbD hl), fun h l _ => ?_⟩
  cases hl : a.getLsbD l
  · simp
  · simp [h l hl]

theorem and_ne_zero_iff_any (x a : LaneMask) : decide (x &&& a ≠ 0) = (lanesOf a).any x.getLsbD := by
  rw [Bool.eq_iff_iff, decide_eq_true_eq, List.any_eq_true, ← not_iff_not, not_not, not_exists, BitVec.eq_of_getLsbD_eq_iff]
  simp only [mem_lanesOf, BitVec.getLsbD_and, not_and, Bool.not_eq_true]
  refine ⟨fun h l hl => by simpa [hl] using h l (lt_of_getLsbD hl), fun h l _ => ?_⟩
  cases hl : a.getLsbD l
  · simp
  · simp [h l hl]

/-- Settles O9: each is one predicate result; a comparison counts its events first. -/
theorem predicatesComplete : Obligations.PredicatesComplete := by
  intro s f m k a b c cc kk i ty w bit decides compares
  have hcompare {j : Instr} (n : Frag → Need) (kn : Code) (v : Frag → Nat → Bool × Nat) (hj : exec j s = compareOp s j m n kn v) :
      compares j (n f) kn.toNat (v f) := fun h hq => by
    rw [hj]
    exact compareOp_decides h hq
  have hpred {j : Instr} (v : Frag → Nat → Bool) (hj : exec j s = predOp s j m noNeed k v) : decides j (v f) := fun h => by
    rw [hj]
    exact predOp_decides (n := noNeed) h
  refine ⟨hcompare (fun f => { typed := condTyped f.g.type c.toNat, srcs := [opnd a f.words], srcB := some (opnd b f.words) }) k
      (fun f l => compare f.g.type c.toNat (f.src a f.words l) (f.srcB b f.words l)) rfl, ?_,
    hpred (fun f l => f.kBit a l && f.kBit b l) rfl, hpred (fun f l => f.kBit a l || f.kBit b l) rfl,
    hpred (fun f l => f.kBit a l != f.kBit b l) rfl, hpred (fun f l => !f.kBit a l) rfl, hpred (fun f l => f.kBit a l) rfl, ?_, ?_, ?_⟩
  · have h := hcompare (j := .cmpi m cc kk a i) (fun f => { typed := condTyped f.g.type cc.toNat, srcs := [opnd a f.words] }) (kk.setWidth 6)
      (fun f l => compareImm f.g.type cc.toNat (f.src a f.words l) i.toInt) rfl
    rwa [BitVec.toNat_setWidth_of_le (by decide)] at h
  · have h := hpred (j := .kany m k a) (fun f _ => (f.g.kReg a.toNat &&& f.active) ≠ 0) rfl
    simp only [and_ne_zero_iff_any] at h
    exact h
  · have h := hpred (j := .kall m k a) (fun f _ => (f.g.kReg a.toNat &&& f.active) = f.active) rfl
    simp only [and_eq_self_iff_all] at h
    exact h
  · intro h
    exact predOp_decides (n := fun _ => { srcs := [opnd a 2] })
      (v := fun f l => ((s.decodeAddr (s.agentOf f.g) l (f.src a 2 l) 1).map (·.1)) = some c.toNat) h

end Sys2Proof.Machine
end

/-! # Moves between lanes (R145, R148, R150) -/

section
namespace Sys2Proof.Machine

/-- A lane's number with bits of its place in the quad reversed: the quad is the same. -/
theorem xor_quad (l : Nat) {x : Nat} (h : x < 4) : l ^^^ x = l / 4 * 4 + (l % 4 ^^^ x) := by
  have hdiv : (l ^^^ x) / 2 ^ 2 = l / 2 ^ 2 := by rw [Nat.xor_div_two_pow, Nat.div_eq_of_lt (show x < 2 ^ 2 from h), Nat.xor_zero]
  have hmod : (l ^^^ x) % 4 = l % 4 ^^^ x := by
    simpa [Nat.mod_eq_of_lt h] using Nat.xor_mod_two_pow (a := l) (b := x) (n := 2)
  omega

theorem xor_one_eq (l : Nat) : l ^^^ 1 = if l % 2 = 0 then l + 1 else l - 1 := by
  rw [xor_quad l (by decide)]
  have hquad : ∀ r < 4, r ^^^ 1 = if r % 2 = 0 then r + 1 else r - 1 := by decide
  rw [hquad (l % 4) (Nat.mod_lt _ (by decide))]
  split <;> split <;> omega

theorem xor_two_eq (l : Nat) : l ^^^ 2 = if l / 2 % 2 = 0 then l + 2 else l - 2 := by
  rw [xor_quad l (by decide)]
  have hquad : ∀ r < 4, r ^^^ 2 = if r / 2 = 0 then r + 2 else r - 2 := by decide
  rw [hquad (l % 4) (Nat.mod_lt _ (by decide))]
  split <;> split <;> omega

theorem xor_three_eq (l : Nat) : l ^^^ 3 = l / 4 * 4 + (3 - l % 4) := by
  have hquad : ∀ r < 4, r ^^^ 3 = 3 - r := by decide
  rw [xor_quad l (by decide), hquad (l % 4) (Nat.mod_lt _ (by decide))]

/-- Settles O11: each is one lane-wise result; the lanes of a quad are told apart by two bits. -/
theorem crossLaneComplete : Obligations.CrossLaneComplete := by
  intro s f m d a b x w n gives
  have hcross {j : Instr} (source : Nat → Nat → Nat) (hj : exec j s = crossOp s j m d a b source) :
      gives j n w (fun l => f.src a w (source l (f.srcB b 1 l))) := fun h => by
    rw [hj]
    exact laneOp_gives h
  have hquad {j : Instr} (source : Nat → Nat) (hj : exec j s = quadOp s j m d a source) :
      gives j (typedDA anyType d a f) w (fun l => f.src a w (source l)) := fun h => by
    rw [hj]
    exact laneOp_gives h
  refine ⟨fun h => laneOp_gives (n := fun _ => { dst := some (opnd d 2) }) h, hcross (fun l v => (l + v) % W) rfl, hcross (fun l v => l ^^^ (v % W)) rfl,
    hcross (fun _ v => v % W) rfl, ?_, ?_, ?_, hquad (fun l => l / 4 * 4 + x.toNat) rfl⟩
  · simp only [← xor_one_eq]
    exact hquad (fun l => l ^^^ 1) rfl
  · simp only [← xor_two_eq]
    exact hquad (fun l => l ^^^ 2) rfl
  · simp only [← xor_three_eq]
    exact hquad (fun l => l ^^^ 3) rfl

end Sys2Proof.Machine
end

/-! # Scans and derivatives (R149, R151, R152) -/

section
namespace Sys2Proof.Machine

variable {s : State} {f : Frag} {i : Instr} {m : Marks} {d a : Code}

/-- A scan whose events do not trap: they are counted in every lane, and its results are given in the active ones. -/
theorem scanOp_gives {op form : Nat} (h : Runs s f i m (typedDA (fun t => scanTyped t op) d a f))
    (hq : Quiet s f ((scanAll f.g.type f.g.round op (f.scanStart a)).map (·.evs))) :
    let xs := scanAll f.g.type f.g.round op (f.scanStart a)
    ∃ t, scanOp s i m d a op form = .next t ∧
      Gives (s.countFp f (typeFmt f.g.type) (xs.map (·.evs)) (BitVec.allOnes 64)) f m d (typeWords f.g.type) f.active
        (fun l => scanPick f.g.type op form l xs) t := by
  refine ⟨_, (issue_go h).trans (congrArg Host.Outcome.next (withEventsIn_quiet hq)), ?_⟩
  exact gives_result ((frag?_counts (onlyCounts_countFp _ _ _)).trans h.1)

/-- A derivative whose events do not trap: they are counted, QUADFAULT is set where a lane has no pair, and the result is written. -/
theorem derivOp_go {axis : Nat} {fine : Bool} (h : Runs s f i m (typedDA floatType d a f))
    (hq : Quiet s f (laneNums.map fun l => (f.deriv axis fine a l).1.2)) :
    derivOp s i m d a axis fine = .next ((((s.countFp f (typeFmt f.g.type) (laneNums.map fun l => (f.deriv axis fine a l).1.2) f.active).setQuadFault f
      (f.g.dissolved || (lanesOf f.active).any fun l => (f.deriv axis fine a l).2)).result f d (typeWords f.g.type)
        (laneNums.map fun l => (f.deriv axis fine a l).1.1) f.active).goOn f m) := by
  refine (issue_go h).trans ?_
  dsimp only
  rw [List.map_map, List.map_map]
  refine congrArg Host.Outcome.next ((withEvents_quiet hq).trans ?_)
  have hbad : ((lanesOf f.active).any fun l => ((laneNums.map (f.deriv axis fine a)).getD l ((0, []), false)).2) =
      (lanesOf f.active).any fun l => (f.deriv axis fine a l).2 := by
    rw [Bool.eq_iff_iff, List.any_eq_true, List.any_eq_true]
    exact exists_congr fun l => and_congr_right fun hl => by rw [getD_map_laneNums (lt_of_getLsbD (mem_lanesOf.1 hl))]
  rw [hbad]
  rfl

/-- Settles O12: each form of a scan picks its lane of the six steps; a derivative has its axis. -/
theorem scansAndDerivativesComplete : Obligations.ScansAndDerivativesComplete := by
  intro s f m d a x op e ty w xs scans derives
  refine ⟨fun h hq => scanOp_gives (form := 0) h hq, fun h hq => ?_, derivOp_go, derivOp_go⟩
  have hscan := scanOp_gives (form := if e then 2 else 1) h hq
  cases e
  · exact hscan
  · exact hscan

end Sys2Proof.Machine
end

/-! # Event counters (R153, R154) and ARITH (R113) -/

section
namespace Sys2Proof.Machine

variable {s t : State} {c : Ctx} {ctxid unit fmt n e : Nat} {counts : List Nat}

/-! ## One counter -/

/-- The events of one kind are counted. -/
def State.countEvent (s : State) (ctxid unit fmt : Nat) (counts : List Nat) (e : Nat) : State :=
  match s.ctx? ctxid with
  | none => s
  | some c =>
    let i := 4 * fmt + e
    let n := counts.getD e 0
    if n = 0 then s
    else
      let (v, post) := bumpCounter c.fpxThr (c.fpx.getD i 0) n (c.fired.getD i false)
      let s := s.putCtx { c with fpx := c.fpx.set i v, fired := if post then c.fired.set i true else c.fired }
      let s := (s.touchHome unit (c.save + 0xC0 + 4 * i)).writeHome (c.save + 0xC0 + 4 * i) (bytesOf v 4)
      if post then s.postEvent (unit / 48) 5 ctxid i v else s

theorem countEvents_eq_foldl : s.countEvents ctxid unit fmt counts = (List.range 4).foldl (fun s e => s.countEvent ctxid unit fmt counts e) s := rfl

/-- What a context's counter of one kind of event comes to, and whether it posts an event. -/
def Ctx.bump (c : Ctx) (fmt : Nat) (counts : List Nat) (e : Nat) : Nat × Bool :=
  bumpCounter c.fpxThr (c.fpx.getD (4 * fmt + e) 0) (counts.getD e 0) (c.fired.getD (4 * fmt + e) false)

/-- A context whose counter of one kind of event has been counted. -/
def Ctx.bumped (c : Ctx) (fmt : Nat) (counts : List Nat) (e : Nat) : Ctx :=
  { c with
    fpx := c.fpx.set (4 * fmt + e) (c.bump fmt counts e).1
    fired := if (c.bump fmt counts e).2 then c.fired.set (4 * fmt + e) true else c.fired }

theorem countEvent_none (h : s.ctx? ctxid = none) : s.countEvent ctxid unit fmt counts e = s := by
  unfold State.countEvent
  rw [h]

theorem countEvent_zero (h : counts.getD e 0 = 0) : s.countEvent ctxid unit fmt counts e = s := by
  unfold State.countEvent
  simp only [h, if_true]
  split <;> rfl

/-- A count goes to the context and its save area, and posts an event where the threshold is passed. -/
theorem countEvent_some (hc : s.ctx? ctxid = some c) (hn : counts.getD e 0 ≠ 0) :
    ∃ t, OnlyHomes (s.putCtx (c.bumped fmt counts e)) t ∧ s.countEvent ctxid unit fmt counts e =
      if (c.bump fmt counts e).2 then t.postEvent (unit / 48) 5 ctxid (4 * fmt + e) (c.bump fmt counts e).1 else t := by
  refine ⟨_, onlyHomes_trans (onlyHomes_touchHome unit (c.save + 0xC0 + 4 * (4 * fmt + e)))
    (onlyHomes_writeHome (c.save + 0xC0 + 4 * (4 * fmt + e)) (bytesOf (c.bump fmt counts e).1 4)), ?_⟩
  unfold State.countEvent
  rw [hc]
  exact if_neg hn

/-- A count of nothing changes no counter and passes no threshold. -/
theorem bumpCounter_zero {thr old : Nat} {fired : Bool} (h : old < 2 ^ 32) : bumpCounter thr old 0 fired = (old, false) := by
  have hold : min (old + 0) 0xFFFFFFFF = old := by omega
  unfold bumpCounter
  rw [hold]
  simp only [Prod.mk.injEq, true_and, Bool.and_eq_false_iff, decide_eq_false_iff_not, Bool.not_eq_false']
  by_cases hthr : thr ≤ old
  · exact .inl (.inl (.inr (Nat.not_lt.2 hthr)))
  · exact .inl (.inr hthr)

theorem dies_length_postEvent (die kind ctx a b : Nat) : (s.postEvent die kind ctx a b).dies.length = s.dies.length := by
  simp [State.postEvent, State.modDie]

theorem raised_postEvent {die kind ctx a b : Nat} (h : die < s.dies.length) :
    ((s.postEvent die kind ctx a b).die die).raised = (s.die die).raised ++ [⟨kind, die, ctx, a, b⟩] := by
  simp [State.die, State.postEvent, State.modDie, List.getD_eq_getElem?_getD, h]

theorem onlyHomes_ctx? (h : OnlyHomes s t) (k : Nat) : t.ctx? k = s.ctx? k := by
  obtain ⟨_, _, rfl⟩ := h
  rfl

theorem onlyHomes_die (h : OnlyHomes s t) (d : Nat) : t.die d = s.die d := by
  obtain ⟨_, _, rfl⟩ := h
  rfl

/-! ## The four counters of a format -/

/-- In `t` the first `n` counters of a format have been counted for context `c` of `s`: each holds its new value, the events of those that
passed the threshold are raised, and the rest of the counters and their marks are as they were. -/
structure Counted (s : State) (c : Ctx) (die fmt : Nat) (counts : List Nat) (n : Nat) (t : State) : Prop where
  ctx : ∃ c', t.ctx? c.ctxid = some c' ∧ c'.ctxid = c.ctxid ∧ c'.fpxThr = c.fpxThr ∧ c'.fpx.length = c.fpx.length ∧
    (∀ i, c'.fpx.getD i 0 = if 4 * fmt ≤ i ∧ i < 4 * fmt + n then (c.bump fmt counts (i - 4 * fmt)).1 else c.fpx.getD i 0) ∧
    ∀ i, 4 * fmt + n ≤ i → c'.fired.getD i false = c.fired.getD i false
  raised : (t.die die).raised = (s.die die).raised ++
    ((List.range n).filter fun e => (c.bump fmt counts e).2).map fun e => ⟨5, die, c.ctxid, 4 * fmt + e, (c.bump fmt counts e).1⟩
  dies : t.dies.length = s.dies.length

theorem counted_zero {die : Nat} (hc : s.ctx? c.ctxid = some c) : Counted s c die fmt counts 0 s where
  ctx := ⟨c, hc, rfl, rfl, rfl, fun i => by rw [if_neg (by omega)], fun _ _ => rfl⟩
  raised := by simp
  dies := rfl

/-- The events that the first `n + 1` counters post: those of the first `n`, and that of the next if it posts one. -/
theorem filter_map_range_succ {α : Type} (q : Nat → Bool) (g : Nat → α) (n : Nat) :
    ((List.range (n + 1)).filter q).map g = ((List.range n).filter q).map g ++ if q n then [g n] else [] := by
  rw [List.range_succ, List.filter_append, List.map_append]
  cases h : q n <;> simp [h]

section
variable (h : Counted s c (unit / 48) fmt counts n t)
include h

/-- The next counter is as it was, so that it comes to what it would have come to at first. -/
theorem Counted.bump_next : ∃ c', t.ctx? c.ctxid = some c' ∧ c'.ctxid = c.ctxid ∧ c'.bump fmt counts n = c.bump fmt counts n := by
  obtain ⟨c', hc, hid, hthr, _, hfpx, hfired⟩ := h.ctx
  refine ⟨c', hc, hid, ?_⟩
  unfold Ctx.bump
  rw [hthr, hfpx, if_neg (by omega), hfired _ le_rfl]

/-- A next counter without events is passed over. -/
theorem Counted.succ_of_zero (hn : counts.getD n 0 = 0) (hold : c.fpx.getD (4 * fmt + n) 0 < 2 ^ 32) : Counted s c (unit / 48) fmt counts (n + 1) t := by
  obtain ⟨⟨c', hc, hid, hthr, hlen, hfpx, hfired⟩, hraised, hdies⟩ := h
  have hsame : c.bump fmt counts n = (c.fpx.getD (4 * fmt + n) 0, false) := by
    unfold Ctx.bump
    rw [hn, bumpCounter_zero hold]
  refine ⟨⟨c', hc, hid, hthr, hlen, fun i => ?_, fun i hi => hfired i (by omega)⟩, ?_, hdies⟩
  · rw [hfpx]
    by_cases hi : i = 4 * fmt + n
    · rw [if_neg (by omega), if_pos (by omega), hi, Nat.add_sub_cancel_left, hsame]
    · congr 1
      simp only [eq_iff_iff]
      omega
  · rw [filter_map_range_succ, hsame, hraised]
    simp

/-- A context with its next counter bumped, and that counter's event, are what counting it leaves. -/
theorem Counted.succ_of_bumped {c' : Ctx} {u : State} (hlen : 4 * fmt + n < c.fpx.length) (hc : t.ctx? c.ctxid = some c')
    (hu : u.ctx? c.ctxid = some (c'.bumped fmt counts n)) (hbump : c'.bump fmt counts n = c.bump fmt counts n)
    (hraised : (u.die (unit / 48)).raised = (t.die (unit / 48)).raised ++
      if (c.bump fmt counts n).2 then [⟨5, unit / 48, c.ctxid, 4 * fmt + n, (c.bump fmt counts n).1⟩] else [])
    (hdies : u.dies.length = t.dies.length) : Counted s c (unit / 48) fmt counts (n + 1) u := by
  obtain ⟨⟨x, hx, hid, hthr, hlen', hfpx, hfired⟩, hposted, hdies'⟩ := h
  obtain rfl : c' = x := Option.some.inj (hc.symm.trans hx)
  refine ⟨⟨_, hu, hid, hthr, List.length_set.trans hlen', fun i => ?_, fun i hi => ?_⟩, ?_, hdies.trans hdies'⟩
  · show (c'.fpx.set (4 * fmt + n) (c'.bump fmt counts n).1).getD i 0 = _
    rw [List.getD_eq_getElem?_getD, List.getElem?_set]
    by_cases hi : 4 * fmt + n = i
    · rw [if_pos hi, if_pos (by omega), if_pos (by omega), ← hi, Nat.add_sub_cancel_left, hbump]
      rfl
    · rw [if_neg hi, ← List.getD_eq_getElem?_getD, hfpx]
      congr 1
      simp only [eq_iff_iff]
      omega
  · show (if (c'.bump fmt counts n).2 then c'.fired.set (4 * fmt + n) true else c'.fired).getD i false = _
    rw [← hfired i (by omega)]
    split
    · rw [List.getD_eq_getElem?_getD, List.getElem?_set_ne (by omega), ← List.getD_eq_getElem?_getD]
    · rfl
  · rw [filter_map_range_succ, ← List.append_assoc, ← hposted, hraised]

/-- One more counter is counted. -/
theorem Counted.succ (hdie : unit / 48 < s.dies.length) (hlen : 4 * fmt + n < c.fpx.length) (hold : c.fpx.getD (4 * fmt + n) 0 < 2 ^ 32) :
    Counted s c (unit / 48) fmt counts (n + 1) (t.countEvent c.ctxid unit fmt counts n) := by
  by_cases hn : counts.getD n 0 = 0
  · rw [countEvent_zero hn]
    exact h.succ_of_zero hn hold
  obtain ⟨c', hc, hid, hbump⟩ := h.bump_next
  obtain ⟨u, hu, hcount⟩ := countEvent_some (unit := unit) (fmt := fmt) hc hn
  have hudie : unit / 48 < u.dies.length := by rwa [onlyHomes_dies hu, State.putCtx, setContexts_dies, h.dies]
  have hctx : u.ctx? c.ctxid = some (c'.bumped fmt counts n) := by
    rw [onlyHomes_ctx? hu]
    rw [← hid] at hc ⊢
    exact pick_put_self Ctx.ctxid (x := c'.bumped fmt counts n) hc
  have hraised : (u.die (unit / 48)).raised = (t.die (unit / 48)).raised := congrArg Die.raised (onlyHomes_die hu _)
  have hdies : u.dies.length = t.dies.length := congrArg List.length (onlyHomes_dies hu :)
  rw [hcount]
  split
  next hpost =>
    refine h.succ_of_bumped hlen hc hctx hbump ?_ ((dies_length_postEvent _ _ _ _ _).trans hdies)
    rw [raised_postEvent hudie, hraised, ← hbump, if_pos hpost]
  next hpost => exact h.succ_of_bumped hlen hc hctx hbump (by rw [hraised, ← hbump, if_neg hpost, List.append_nil]) hdies

end

/-- The four counters of a format are counted one after the other. -/
theorem counted_countEvents (hc : s.ctx? c.ctxid = some c) (hdie : unit / 48 < s.dies.length) (hlen : 4 * fmt + 4 ≤ c.fpx.length)
    (hold : ∀ v ∈ c.fpx, v < 2 ^ 32) : Counted s c (unit / 48) fmt counts 4 (s.countEvents c.ctxid unit fmt counts) := by
  have hcounted (n : Nat) (hn : n ≤ 4) :
      Counted s c (unit / 48) fmt counts n ((List.range n).foldl (fun s e => s.countEvent c.ctxid unit fmt counts e) s) := by
    induction n with
    | zero => exact counted_zero hc
    | succ n ih =>
      rw [List.range_succ, List.foldl_append, List.foldl_cons, List.foldl_nil]
      refine (ih (by omega)).succ hdie (by omega) ?_
      rw [List.getD_eq_getElem _ _ (by omega)]
      exact hold _ (List.getElem_mem _)
  exact hcounted 4 le_rfl

/-! ## The trap ARITH -/

theorem dies_length_countEvents : (s.countEvents ctxid unit fmt counts).dies.length = s.dies.length := by
  have hone (s : State) (e : Nat) : (s.countEvent ctxid unit fmt counts e).dies.length = s.dies.length := by
    cases hc : s.ctx? ctxid with
    | none => rw [countEvent_none hc]
    | some c =>
      by_cases hn : counts.getD e 0 = 0
      · rw [countEvent_zero hn]
      · obtain ⟨u, hu, hcount⟩ := countEvent_some (unit := unit) (fmt := fmt) hc hn
        have hudies : u.dies.length = s.dies.length := (congrArg List.length (onlyHomes_dies hu) :)
        rw [hcount]
        split
        · rw [dies_length_postEvent, hudies]
        · exact hudies
  rw [countEvents_eq_foldl]
  generalize List.range 4 = l
  induction l generalizing s with
  | nil => rfl
  | cons e l ih => rw [List.foldl_cons, ih, hone]

variable {f : Frag} {i : Instr} {m : Marks} {evs : LaneEvents}

theorem dies_length_countFp {a : LaneMask} : (s.countFp f fmt evs a).dies.length = s.dies.length := by
  unfold State.countFp
  split
  · rfl
  · exact dies_length_countEvents

theorem typeFmt_mod (ty : Nat) : typeFmt ty % 256 = typeFmt ty := by
  unfold typeFmt
  split_ifs <;> rfl

section
variable (hf : s.frag? = some f) (hfw : f.g.fw = false) (hdie : coreDie f.g.core < s.dies.length) (htraps : s.trapsArith f.g = true)
  (hskip : f.slot ∉ f.g.arithSkip) (hraised : unionEvents evs f.active ≠ 0)
include hf hfw hdie htraps hskip hraised

/-- An event in an active lane of a context that traps arithmetic: the events are counted, and the group parks with ARITH. -/
theorem withEvents_trapParked {mask : Option Nat} {ty : Nat} {next : State → State} :
    TrapParked f 0x11 (typeFmt ty * 256 + unionEvents evs f.active) 0 (eventLanes evs f.active)
      (s.withEvents f mask (typeFmt ty) evs f.active next) := by
  have hcounts : OnlyCounts s (s.countFp f (typeFmt ty) evs f.active) := onlyCounts_countFp _ _ _
  have hfrag : (s.countFp f (typeFmt ty) evs f.active).frag? = some f := (frag?_counts hcounts).trans hf
  obtain ⟨hgroup, _⟩ := frag?_some hfrag
  have harith : (s.countFp f (typeFmt ty) evs f.active).arithTraps f evs f.active = true := by
    unfold State.arithTraps
    rw [trapsArith_counts hcounts, htraps]
    simpa using hraised
  have htrap := trapParked_takeTrap (mask := mask) (t := ⟨0x11, typeFmt ty % 256 * 256 + unionEvents evs f.active, 0, eventLanes evs f.active⟩)
    (onlyHomes_refl (s := s.countFp f (typeFmt ty) evs f.active)) hfrag hfw (dies_length_countFp.symm ▸ hdie)
  unfold State.withEvents State.withEventsIn
  rw [if_neg (by simpa using hskip)]
  dsimp only
  rw [if_pos harith]
  unfold State.trapArith
  rw [hgroup]
  rw [typeFmt_mod] at htrap ⊢
  exact htrap

/-- An instruction that comes down to its events parks with ARITH. -/
theorem trapParked_of_withEvents {ty : Nat} {o : Out} (ho : ∃ mask next, o = .next (s.withEvents f mask (typeFmt ty) evs f.active next)) :
    ∃ t, o = .next t ∧ TrapParked f 0x11 (typeFmt ty * 256 + unionEvents evs f.active) 0 (eventLanes evs f.active) t := by
  obtain ⟨mask, next, rfl⟩ := ho
  exact ⟨_, rfl, withEvents_trapParked hf hfw hdie htraps hskip hraised⟩

end

/-! ## What comes down to its events -/

section
variable {n : Frag → Need} {d k : Code} {w fmt : Frag → Nat}

theorem map_after_lanes {α β : Type} (g : α → β) (v : Nat → α) : (laneNums.map fun l => g (v l)) = (laneNums.map v).map g := by
  rw [List.map_map]
  rfl

theorem laneEventOp_withEvents {v : Frag → Nat → Nat × List Nat} (h : Runs s f i m (n f)) : ∃ mask next, laneEventOp s i m n d w fmt v =
    .next (s.withEvents f mask (fmt f) (laneNums.map fun l => (v f l).2) f.active next) := by
  rw [map_after_lanes (·.2) (v f)]
  exact ⟨_, _, issue_go h⟩

theorem laneLateOp_withEvents {v : Frag → Nat → Nat × List Nat} (h : Runs s f i m (n f)) : ∃ mask next, laneLateOp s i m n d w fmt v =
    .next (s.withEvents f mask (fmt f) (laneNums.map fun l => (v f l).2) f.active next) := by
  rw [map_after_lanes (·.2) (v f)]
  exact ⟨_, _, issue_go h⟩

theorem compareOp_withEvents {v : Frag → Nat → Bool × Nat} (h : Runs s f i m (n f)) : ∃ mask next, compareOp s i m n k v =
    .next (s.withEvents f mask f.fmt (laneNums.map fun l => [(v f l).2]) f.active next) := by
  rw [map_after_lanes (fun r => [r.2]) (v f)]
  exact ⟨_, _, issue_go h⟩

end

/-- Settles O59: the four counters are counted one by one; and an instruction's events, once counted, trap. -/
theorem arithmeticEvents : Obligations.ArithmeticEvents := by
  intro s f m d a b x
  refine ⟨fun c unit fmt counts hc hlen hfired hold hfmt hdie => ?_, ?_⟩
  · intro die u new fires
    obtain ⟨⟨c', hc', _, _, _, hfpx, _⟩, hposted, _⟩ := counted_countEvents (counts := counts) (fmt := fmt) hc hdie (by omega) hold
    exact ⟨⟨c', hc', fun i _ => hfpx i⟩, hposted⟩
  intro ty w traps ab
  have hlane {j : Instr} (n : Frag → Need) (v : Frag → Nat → Nat × List Nat) (hj : exec j s = laneEventOp s j m n d Frag.words Frag.fmt v) :
      traps j (n f) (typeFmt ty) fun l => (v f l).2 := fun h hfw hdie htraps hskip hraised => by
    rw [hj]
    exact trapParked_of_withEvents h.1 hfw hdie htraps hskip hraised (laneEventOp_withEvents h)
  have hlate {j : Instr} (n : Frag → Need) (v : Frag → Nat → Nat × List Nat) (hj : exec j s = laneLateOp s j m n d Frag.words Frag.fmt v) :
      traps j (n f) (typeFmt ty) fun l => (v f l).2 := fun h hfw hdie htraps hskip hraised => by
    rw [hj]
    exact trapParked_of_withEvents h.1 hfw hdie htraps hskip hraised (laneLateOp_withEvents h)
  refine ⟨hlane (typedDAB anyType d a b) (fun f l => byElem f.g.type (addElem f.g.type f.g.round f.g.sat) (f.ab a b l)) rfl,
    hlane (typedDAB anyType d a b) (fun f l => byElem f.g.type (mulElem f.g.type f.g.round f.g.sat) (f.ab a b l)) rfl,
    hlate (lateDAB anyType d a b) (fun f l => byElem f.g.type (divElem f.g.type f.g.round f.g.sat) (f.ab a b l)) rfl,
    hlate (lateDAB anyType d a b) (fun f l => byElem f.g.type (remElem f.g.type) (f.ab a b l)) rfl, ?_⟩
  intro h hfw hdie htraps hskip hraised
  exact trapParked_of_withEvents h.1 hfw hdie htraps hskip hraised
    (compareOp_withEvents (n := fun f => { typed := condTyped f.g.type x.toNat, srcs := [opnd a f.words], srcB := some (opnd b f.words) })
      (v := fun f l => compare f.g.type x.toNat (f.src a f.words l) (f.srcB b f.words l)) h)

end Sys2Proof.Machine
end

/-! # A barrier's phase (R180, R182)

The end of a phase is one change of each slot of a group: a slot that waits for it, and is not stopped, goes on. -/

section
namespace Sys2Proof.Machine

variable {s : State} {n : Nat} {phase : Bool}

/-- A slot that is parked at barrier `n` for a phase, and is not stopped, goes on. -/
def Slot.passBarrier (n : Nat) (phase : Bool) (sl : Slot) : Slot := match sl.park with
  | some (.barw k p len) => if k = n ∧ p = phase ∧ sl.stop = none then sl.goTo (sl.pc + BitVec.ofNat 64 len) else sl
  | _ => sl

/-- A slot of a group with a change of it. -/
def Group.mapSlot (g : Group) (i : Nat) (F : Slot → Slot) : Group := g.setSlot i ((g.slot? i).map F)

theorem mapSlot_self {g : Group} {i : Nat} {F : Slot → Slot} (h : ∀ sl, g.slot? i = some sl → F sl = sl) : g.mapSlot i F = g := by
  have hslot : (g.slot? i).map F = g.slot? i := by
    cases hs : g.slot? i with
    | none => rfl
    | some sl => exact congrArg some (h sl hs)
  unfold Group.mapSlot
  rw [hslot]
  by_cases hi : i = 0 <;> simp [Group.setSlot, Group.slot?, hi]

/-- What the end of a barrier's phase makes of one slot of a group. -/
def Group.passIn (g : Group) (n : Nat) (phase : Bool) (i : Nat) : Group := match (g.slot? i).bind (·.park) with
  | some (.barw b p len) => if b = n && p = phase then g.release i len else g
  | _ => g

/-- The slot that waits at the barrier is released; any other stays. -/
theorem passIn_eq (g : Group) (i : Nat) : g.passIn n phase i = g.mapSlot i (Slot.passBarrier n phase) := by
  unfold Group.passIn
  cases hs : g.slot? i with
  | none => exact (mapSlot_self (by simp [hs])).symm
  | some sl =>
    have hself (h : sl.passBarrier n phase = sl) : g.mapSlot i (Slot.passBarrier n phase) = g := mapSlot_self fun x hx => by
      rw [hs] at hx
      cases hx
      exact h
    rw [Option.bind_some]
    split
    next b p len hpark =>
      by_cases hwaits : b = n ∧ p = phase ∧ sl.stop = none
      · obtain ⟨hb, hp, hstop⟩ := hwaits
        rw [if_pos (by simp [hb, hp])]
        simp [Group.release, Group.mapSlot, Slot.passBarrier, hs, hstop, hpark, hb, hp]
      · rw [hself (by simp [Slot.passBarrier, hpark, hwaits])]
        split
        next h =>
          obtain ⟨hb, hp⟩ : b = n ∧ p = phase := by simpa using h
          have hstop : sl.stop.isSome = true := Option.isSome_iff_ne_none.2 fun hn => hwaits ⟨hb, hp, hn⟩
          simp [Group.release, hs, hstop]
        next => rfl
    next hpark =>
      refine (hself ?_).symm
      unfold Slot.passBarrier
      split
      next h => exact absurd h (hpark _ _ _)
      next => rfl

/-- A phase that ends is passed in both slots of a group. -/
theorem passBarrier_eq (g : Group) : g.passBarrier n phase =
    { g with slot0 := g.slot0.map (Slot.passBarrier n phase), slot1 := g.slot1.map (Slot.passBarrier n phase) } := by
  change (g.passIn n phase 0).passIn n phase 1 = _
  rw [passIn_eq, passIn_eq]
  rfl

theorem Barrier.complete_iff {b : Barrier} : b.complete = true ↔ b.expect ≤ b.arrived ∧ b.balance = 0 := by simp [Barrier.complete]

theorem putBarrier_incomplete {t : Team} {b : Barrier} (ht : s.team? t.tid = some t) (hb : ¬b.complete = true) :
    s.putBarrier t.tid n b = s.putTeam { t with barriers := t.barriers.set n b } := by
  unfold State.putBarrier
  simp only [ht, hb, Bool.false_eq_true, if_false]

theorem putBarrier_complete {t : Team} {b : Barrier} (ht : s.team? t.tid = some t) (hb : b.complete = true) :
    s.putBarrier t.tid n b = (s.putTeam { t with barriers := t.barriers.set n b.next }).setGroups
      (mapWhere (fun g => g.tid = t.tid) (fun g => g.passBarrier n b.phase) s.groups) := by
  unfold State.putBarrier
  simp only [ht, hb, if_true]

/-- Settles O23: by whether the barrier's phase is complete. -/
theorem barrierPhase : Obligations.BarrierPhase := by
  intro s t n b ht hn u done pass
  refine ⟨fun h => putBarrier_incomplete ht (mt Barrier.complete_iff.1 h), fun h => ?_⟩
  have hu : u = _ := putBarrier_complete (n := n) ht (Barrier.complete_iff.2 h)
  rw [hu]
  refine ⟨{ t with barriers := t.barriers.set n b.next }, pick_put_self Team.tid (x := { t with barriers := t.barriers.set n b.next }) ht,
    List.getElem?_set_self hn, fun k hk => List.getElem?_set_ne hk.symm, rfl, rfl, ?_⟩
  refine List.map_congr_left fun g _ => ?_
  simp only [decide_eq_true_eq, passBarrier_eq]
  rfl

end Sys2Proof.Machine
end

/-! # BARI, BARA, BARW and BARX (R180 to R182)

A barrier instruction that finds its barrier looks at the number it brings, then whether an earlier access of the group holds it. -/

section
namespace Sys2Proof.Machine

variable {s : State} {f : Frag} {m : Marks} {a : Code} {i : BitVec 10} {b : Barrier}

/-- A barrier that one more fragment has arrived at. -/
def Barrier.arrive (b : Barrier) : Barrier := { b with arrived := b.arrived + 1 }

section
variable (hb : s.barrier? f.g i.toNat = some b)
include hb

theorem exec_bari (h : Runs s f (.bari m a i) m { srcs := [opnd a 1] }) (hlo : 1 ≤ f.src a 1 f.low) (hhi : f.src a 1 f.low ≤ 32) :
    exec (.bari m a i) s = .next ((s.putBarrier f.g.tid i.toNat { b with expect := f.src a 1 f.low }).goOn f m) := by
  have hbad : ¬(f.src a 1 f.low = 0 ∨ 32 < f.src a 1 f.low) := by omega
  change execBari m a i s = _
  unfold execBari
  refine (issue_go (f := f) (by rw [hb]; exact h)).trans ?_
  rw [hb]
  dsimp only
  rw [if_neg (by simpa using hbad)]

theorem exec_bara (h : Runs s f (.bara m i) m {}) (hroom : b.arrived < b.expect) (hrel : s.relBusy f.g = false) :
    exec (.bara m i) s = .next ((s.putBarrier f.g.tid i.toNat b.arrive).goOn f m) := by
  change execBara m i s = _
  unfold execBara
  refine (issue_go (f := f) (by rw [hb]; exact h)).trans ?_
  rw [hb]
  dsimp only
  rw [if_neg (Nat.not_le.2 hroom), hrel]
  rfl

theorem exec_barw (h : Runs s f (.barw m i) m {}) (hroom : b.arrived < b.expect) (hrel : s.relBusy f.g = false) :
    exec (.barw m i) s = if b.arrive.complete then .next ((s.putBarrier f.g.tid i.toNat b.arrive).goOn f m)
      else .next ((s.putBarrier f.g.tid i.toNat b.arrive).park f (.barw i.toNat b.phase (unitLen m 0))) := by
  change execBarw m i s = _
  unfold execBarw
  refine (issue_go (f := f) (by rw [hb]; exact h)).trans ?_
  rw [hb]
  dsimp only
  rw [if_neg (Nat.not_le.2 hroom), hrel]
  rfl

theorem exec_barx (h : Runs s f (.barx m a i) m { srcs := [opnd a 1] }) (hcount : f.src a 1 f.low < 2 ^ 31) (hroom : b.balance + f.src a 1 f.low < 2 ^ 31) :
    exec (.barx m a i) s =
      .next ((s.putBarrier f.g.tid i.toNat { b with balance := b.balance + f.src a 1 f.low, posted := true }).goOn f m) := by
  change execBarx m a i s = _
  unfold execBarx
  refine (issue_go (f := f) (by rw [hb]; exact h)).trans ?_
  rw [hb]
  dsimp only
  rw [if_neg (Nat.not_le.2 hcount), if_neg (by omega)]

end

/-- Settles O22: each barrier instruction by what it brings; a BARW parks unless its arrival completes the phase. -/
theorem barriersComplete : Obligations.BarriersComplete := by
  intro s f m a i b hb v n more
  refine ⟨exec_bari hb, exec_bara hb, fun h hroom hrel => (exec_barw hb h hroom hrel).trans ?_, exec_barx hb⟩
  rw [apply_ite Host.Outcome.next]
  exact if_congr Barrier.complete_iff rfl rfl

end Sys2Proof.Machine
end

/-! # System instructions (R190, R191, R196 to R199) -/

section
namespace Sys2Proof.Machine

variable {s : State} {f : Frag} {m : Marks} {d a b : Code} {i : BitVec 10} {x : BitVec 4}

theorem exec_mfs (h : Runs s f (.mfs m d i) m { priv := firmwareReg i.toNat, dst := some (opnd d 1) }) :
    exec (.mfs m d i) s = .next ((s.result f d 1 (perLane (s.sysReg f.g i.toNat)) f.sl.mask).goOn f m) := issue_go h

theorem exec_mts (h : Runs s f (.mts m a i) m { priv := firmwareReg i.toNat, srcs := [opnd a 1] }) :
    exec (.mts m a i) s = .next ((s.writeSysReg f.g i.toNat (f.src a 1 f.low)).goOn f m) := issue_go h

theorem exec_eret (h : Runs s f (.eret m) m { priv := true }) (hpc : (s.die (coreDie f.g.core)).fwepc.toNat % 4 = 0) :
    exec (.eret m) s = .next (s.returnFirmware f) := (issue_go h).trans (if_pos hpc)

theorem exec_halt (h : Runs s f (.halt m) m { priv := true }) : exec (.halt m) s =
    if (s.die (coreDie f.g.core)).wakeHeld then .next ((s.modDie (coreDie f.g.core) fun y => { y with wakeHeld := false }).goOn f m)
    else .next (s.park f (.halt (unitLen m 0))) := issue_go h

theorem exec_cinv (h : Runs s f (.cinv m a b x) m { srcs := [opnd a 2] }) :
    exec (.cinv m a b x) s = cacheOpOut s f m a b.toNat (x.toNat = 1) true := issue_go h

theorem exec_cwb (h : Runs s f (.cwb m a b x) m { srcs := [opnd a 2] }) :
    exec (.cwb m a b x) s = cacheOpOut s f m a b.toNat (x.toNat = 1) false := issue_go h

/-- A state with one more shootdown, under a number of its own. -/
def State.withShootdown (s : State) (d : Shootdown) : State :=
  (s.setCtl { s.ctl with nextId := s.ctl.nextId + 1 }).setMsys { s.msys with shootdowns := s.msys.shootdowns ++ [d] }

theorem exec_tlbi (h : Runs s f (.tlbi m a b x) m { priv := true, srcs := [opnd a 2], srcB := some (opnd b 1) }) : exec (.tlbi m a b x) s =
    .next ((s.withShootdown ⟨s.ctl.nextId, x.toNat, f.srcB b 1 f.low % 65536, f.src a 2 f.low, some (f.g.gid, f.slot)⟩).goOn f m) := issue_go h

theorem exec_rgrel (h : Runs s f (.rgrel m a) m { srcs := [opnd a 2] }) (hlt : f.src a 2 f.low < 2 ^ 56) {pa : Nat} (hpa : s.mappedPa f a f.low = some pa) :
    let walked := s.mapLane f a f.low
    exec (.rgrel m a) s = if pa < 2 ^ 46 && walked.msys.region.any (fun r => r.1 = regionOf pa) then
      .next ((walked.releaseRegion (regionOf pa)).goOn f m) else .next (walked.goOn f m) := by
  refine (issue_go h).trans ?_
  dsimp only
  rw [if_neg (Nat.not_le.2 hlt), hpa]

/-- Settles O27: each system instruction by its own meaning, HALT and RGREL by what they find. -/
theorem systemComplete : Obligations.SystemComplete := by
  intro s f m d a b i x die hits walked cast held
  refine ⟨fun h => ⟨_, exec_mfs h, gives_result h.1⟩, exec_mts, exec_eret, fun h => ⟨fun hwake => ?_, fun hwake => ?_⟩, exec_cinv, exec_cwb,
    fun h => ?_, fun h hlt pa hpa => ?_⟩
  · obtain ⟨hg, -, -, hsl, -⟩ := frag?_some h.1
    exact ⟨_, (exec_halt h).trans (if_pos hwake), passes_self hg hsl⟩
  · exact (exec_halt h).trans (if_neg (by rw [hwake]; exact Bool.false_ne_true))
  · obtain ⟨hg, -, -, hsl, -⟩ := frag?_some h.1
    exact ⟨_, exec_tlbi h, passes_self hg hsl⟩
  · refine (exec_rgrel h hlt hpa).trans ?_
    rw [apply_ite (fun u : State => u.goOn f m), apply_ite Host.Outcome.next]
    exact if_congr (by rw [Bool.and_eq_true, decide_eq_true_eq]) rfl rfl

end Sys2Proof.Machine
end

/-! # FENCE and ACVT (R173, R174, R238) -/

section
namespace Sys2Proof.Machine

variable {s : State} {f : Frag} {m : Marks} {d a b : Code} {x : BitVec 4}

theorem exec_fence (h : Runs s f (.fence m b x) m {}) : exec (.fence m b x) s =
    if s.relBusy f.g || (x.toNat ≠ 2 && f.g.reading) then .next s else .next ((s.fence f.g b.toNat x.toNat).goOn f m) := issue_go h

/-- The aperture of a lane's address, if R167 and R200 accept it. -/
def State.laneAperture (s : State) (f : Frag) (a : Code) (l : Nat) : Option Nat := (s.decodeAddr (s.agentOf f.g) l (f.src a 2 l) 1).map (·.1)

/-- ACVT converts where every active lane's address is accepted. -/
theorem exec_acvt (h : Runs s f (.acvt m d a x) m { srcs := [opnd a 2], dst := some (opnd d 2), late := true })
    (hall : ∀ l ∈ lanesOf f.active, (s.laneAperture f a l).isSome = true) : exec (.acvt m d a x) s =
      .next ((s.resultLater f d 2 (perLane fun l => s.convertAddr f.g l (f.src a 2 l) ((s.laneAperture f a l).getD 0) x.toNat) f.active 0 .alu).goOn f m) := by
  have hbad : ((lanesOf f.active).filter fun l => (s.laneAperture f a l).isNone) = [] :=
    List.filter_eq_nil_iff.2 fun l hl => by simp [hall l hl, ← Option.not_isSome]
  refine (issue_go h).trans ?_
  unfold State.laneAperture at hbad
  simp only [hbad]
  rfl

/-- Settles O20: FENCE by whether it waits, ACVT by the apertures of its lanes. -/
theorem fenceAndConvertComplete : Obligations.FenceAndConvertComplete := by
  intro s f m d a b x ap
  refine ⟨fun h => (exec_fence h).trans ?_, fun h hall => ⟨_, exec_acvt h hall, awaits_resultLater h.1⟩⟩
  have hkind : x.toNat ≠ 2 ↔ x ≠ 2 := not_congr (BitVec.toNat_inj (y := 2))
  rw [apply_ite Host.Outcome.next]
  refine if_congr ?_ rfl rfl
  rw [← hkind]
  simp

end Sys2Proof.Machine
end

/-! # What accesses leave (R205 to R208, R216, R217, R231, R241, R242)

Walks, misses, write-backs and releases change memory, the memory system's own data and the cores' LDCAP data alone; and where no L1 line
is dirty they leave every byte of memory as it was. -/

section
namespace Sys2Proof.Machine

variable {s t u : State}

/-- No line of an L1 holds a dirty byte. -/
def State.undirtied (s : State) : Prop := ∀ l ∈ s.msys.l1, l.dirty = []

/-- From `s`, only memory, the memory system's own data and the cores' data have changed, and no shootdown; without dirty bytes, no byte of memory. -/
structure OnlyFabric (s t : State) : Prop where
  rest : t = { s with mem := t.mem, msys := t.msys, cores := t.cores }
  shootdowns : t.msys.shootdowns = s.msys.shootdowns
  clean : s.undirtied → t.undirtied ∧ t.mem = s.mem

theorem OnlyFabric.refl : OnlyFabric s s := ⟨rfl, rfl, fun h => ⟨h, rfl⟩⟩

theorem OnlyFabric.trans (h : OnlyFabric s t) (k : OnlyFabric t u) : OnlyFabric s u where
  rest := by rw [k.rest, h.rest]
  shootdowns := k.shootdowns.trans h.shootdowns
  clean hs := ⟨(k.clean (h.clean hs).1).1, (k.clean (h.clean hs).1).2.trans (h.clean hs).2⟩

theorem OnlyFabric.foldl {α : Type} {F : State → α → State} (h : ∀ s x, OnlyFabric s (F s x)) (l : List α) : OnlyFabric s (l.foldl F s) := by
  induction l generalizing s with
  | nil => exact .refl
  | cons x l ih => exact (h s x).trans ih

theorem OnlyFabric.ite {c : Prop} [Decidable c] (h : OnlyFabric s t) (k : OnlyFabric s u) : OnlyFabric s (if c then t else u) := by
  split
  · exact h
  · exact k

/-- A change of the memory system that touches neither the L1s nor the shootdowns. -/
theorem OnlyFabric.of_setMsys {y : MemSys} (h1 : y.l1 = s.msys.l1) (h2 : y.shootdowns = s.msys.shootdowns) : OnlyFabric s (s.setMsys y) :=
  ⟨rfl, h2, fun h => ⟨fun l hl => h l (h1 ▸ hl), rfl⟩⟩

theorem onlyFabric_touchHome (unit a : Nat) : OnlyFabric s (s.touchHome unit a) := by
  unfold State.touchHome
  split
  · exact .refl
  · split
    · exact .refl
    · exact .of_setMsys rfl rfl

theorem onlyFabric_l2Access (slice a cls ctx : Nat) : OnlyFabric s (s.l2Access slice a cls ctx) := by
  unfold State.l2Access
  dsimp only
  split
  · exact .of_setMsys rfl rfl
  · split
    · exact .refl
    · exact .of_setMsys rfl rfl

theorem onlyFabric_request (unit a cls ctx : Nat) (guest : Bool) : OnlyFabric s (s.request unit a cls ctx guest) := by
  unfold State.request
  split
  · exact .refl
  · have hhome := (onlyFabric_touchHome (s := s) unit a).trans (onlyFabric_l2Access ((s.touchHome unit a).homeOf a) a cls ctx)
    dsimp only
    split
    · have hguest := hhome.trans (onlyFabric_l2Access (16 * clusterSector unit + hashLane a) a cls ctx)
      split
      · exact hguest
      · exact hguest.trans (.of_setMsys rfl rfl)
    · exact hhome

/-! ## Write-backs -/

/-- A state that differs at the homes: what is left to say of it is what its L1s and memory hold where nothing was dirty. -/
theorem OnlyFabric.of_homes (h : OnlyHomes s t) (k : KeepsPages s t) (hc : s.undirtied → t.undirtied ∧ t.mem = s.mem) : OnlyFabric s t := by
  refine ⟨?_, k.2, hc⟩
  obtain ⟨mem, y, rfl⟩ := h
  rfl

/-- A line without dirty bytes has nothing to write back. -/
theorem writeBack_clean {l : L1Line} (h : l.dirty = []) : s.writeBack l = s := if_pos h

theorem writeBacks_clean {ls : List L1Line} (h : ∀ l ∈ ls, l.dirty = []) : ls.foldl State.writeBack s = s := by
  induction ls with
  | nil => rfl
  | cons l ls ih =>
    rw [List.foldl_cons, writeBack_clean (h l List.mem_cons_self)]
    exact ih fun x hx => h x (List.mem_cons_of_mem l hx)

theorem undirtied_mapWhere {p : L1Line → Bool} {F : L1Line → L1Line} (hF : ∀ l, l.dirty = [] → (F l).dirty = []) {ls : List L1Line}
    (h : ∀ l ∈ ls, l.dirty = []) : ∀ l ∈ mapWhere p F ls, l.dirty = [] := by
  intro l hl
  obtain ⟨x, hx, rfl⟩ := List.mem_map.1 hl
  split
  · exact hF x (h x hx)
  · exact h x hx

theorem onlyFabric_cleanLines (p : L1Line → Bool) : OnlyFabric s (s.cleanLines p) := by
  refine .of_homes (onlyHomes_cleanLines p) (keepsPages_cleanLines p) fun h => ?_
  have hnone : (s.msys.l1.filter p).foldl State.writeBack s = s := writeBacks_clean fun l hl => h l (List.mem_of_mem_filter hl)
  unfold State.cleanLines
  rw [hnone]
  exact ⟨undirtied_mapWhere (fun _ _ => rfl) h, rfl⟩

/-- Some lines of the L1s are gone. -/
theorem onlyFabric_filterL1 (p : L1Line → Bool) : OnlyFabric s (s.setMsys { s.msys with l1 := s.msys.l1.filter p }) :=
  ⟨rfl, rfl, fun h => ⟨fun l hl => h l (List.mem_of_mem_filter hl), rfl⟩⟩

theorem onlyFabric_dropLines (p : L1Line → Bool) : OnlyFabric s (s.dropLines p) := (onlyFabric_cleanLines p).trans (onlyFabric_filterL1 _)

theorem onlyFabric_force (hit : Release → Bool) : OnlyFabric s (s.force hit) := (onlyFabric_cleanLines _).trans (.of_setMsys rfl rfl)

theorem onlyFabric_modCore (core : Nat) (F : Core → Core) : OnlyFabric s (s.modCore core F) := ⟨rfl, rfl, fun h => ⟨h, rfl⟩⟩

theorem onlyFabric_flushBit (core : Nat) (b : Bit) : OnlyFabric s (s.flushBit core b) := onlyFabric_cleanLines _

theorem onlyFabric_requestBit (ag : Agent) (guest : Bool) (b : Bit) : OnlyFabric s (s.requestBit ag guest b) :=
  .foldl (fun _ _ => onlyFabric_request _ _ _ _ _) _

/-! ## Walks and misses -/

theorem onlyFabric_walkHomes (ag : Agent) (va : Nat) : OnlyFabric s (s.walkHomes ag va) :=
  .foldl (fun _ _ => (onlyFabric_force _).trans (onlyFabric_request _ _ _ _ _)) _

theorem onlyFabric_install (ag : Agent) (x : Tlb) (va : Nat) : OnlyFabric s (s.install ag x va) := by
  unfold State.install
  split
  · exact .refl
  · exact (onlyFabric_walkHomes ag va).trans (.of_setMsys rfl rfl)

theorem onlyFabric_evictLine (old : L1Line) : OnlyFabric s (s.evictLine old) := (onlyFabric_dropLines _).trans (onlyFabric_modCore _ _)

/-- A line is filled without dirty bytes. -/
theorem onlyFabric_addLine {l : L1Line} (h : l.dirty = []) : OnlyFabric s (s.setMsys { s.msys with l1 := s.msys.l1 ++ [l] }) := by
  refine ⟨rfl, rfl, fun hs => ⟨fun x hx => ?_, rfl⟩⟩
  rcases List.mem_append.1 hx with hx | hx
  · exact hs x hx
  · rw [List.mem_singleton.1 hx, h]

theorem onlyFabric_fillL1 (ag : Agent) (x : Tlb) (va : Nat) : OnlyFabric s (s.fillL1 ag x va) := by
  unfold State.fillL1
  dsimp only
  split
  · split
    · exact onlyFabric_addLine rfl
    · exact (onlyFabric_evictLine _).trans (onlyFabric_addLine rfl)
  · exact onlyFabric_addLine rfl

/-- A hit marks the line as touched. -/
theorem onlyFabric_touchL1 (p : L1Line → Bool) (k : Nat) :
    OnlyFabric s (s.setMsys { s.msys with l1 := mapWhere p (fun l => { l with touch := k }) s.msys.l1 }) :=
  ⟨rfl, rfl, fun h => ⟨undirtied_mapWhere (F := fun l => { l with touch := k }) (fun _ hl => hl) h, rfl⟩⟩

theorem onlyFabric_dropAlias (ag : Agent) (x : Tlb) (va : Nat) : OnlyFabric s (s.dropAlias ag x va) := onlyFabric_dropLines _

/-- A hit marks its line; a miss walks, counts if it is a re-miss, drops the line's other tags, goes to the home and fills. -/
theorem onlyFabric_bringLine (ag : Agent) (x : Tlb) (va : Nat) (load : Bool) : OnlyFabric s (s.bringLine ag x va load) := by
  unfold State.bringLine
  split
  · exact onlyFabric_touchL1 _ _
  · have hwalk := OnlyFabric.ite (c := ag.flat = true) (.refl (s := s)) (onlyFabric_install ag x va)
    exact (((hwalk.trans (.ite (onlyFabric_modCore _ _) .refl)).trans (onlyFabric_dropAlias _ _ _)).trans (onlyFabric_request _ _ _ _ _)).trans
      (.ite .refl (onlyFabric_fillL1 _ _ _))

/-! ## Releases and acquires -/

theorem onlyFabric_acquireLine (core scope line : Nat) : OnlyFabric s (s.acquireLine core scope line) := by
  unfold State.acquireLine
  split
  · exact .refl
  · exact onlyFabric_force _

theorem onlyFabric_recordRelease (core asid scope line : Nat) : OnlyFabric s (s.recordRelease core asid scope line) := by
  unfold State.recordRelease
  split
  · exact .refl
  · dsimp only
    split
    · split
      · exact .of_setMsys rfl rfl
      · exact (onlyFabric_force _).trans (.of_setMsys rfl rfl)
    · exact .of_setMsys rfl rfl

/-! ## Whose turn it is -/

/-- An access leaves whose turn it is. -/
theorem OnlyFabric.sameTurn (h : OnlyFabric s t) : SameTurn s t := by
  refine ⟨?_, ?_, ?_, h.shootdowns⟩ <;> rw [h.rest]

theorem frag?_tick : s.tick.frag? = s.frag? := rfl

/-- So does a load's or a store's making of lines, and its free value for a device register. -/
theorem frag?_bringBit (ag : Agent) (load : Bool) (b : Bit) : (s.bringBit ag load b).frag? = s.frag? := by
  unfold State.bringBit
  split
  · rfl
  · split
    · exact frag?_tick
    · exact (onlyFabric_bringLine _ _ _ _).sameTurn.frag?

/-- What each step of a fold keeps of a state, the fold keeps. -/
theorem foldl_keeps {α β : Type} (p : State → β) {F : State → α → State} (h : ∀ s x, p (F s x) = p s) (l : List α) : p (l.foldl F s) = p s := by
  induction l generalizing s with
  | nil => rfl
  | cons x l ih => exact ih.trans (h s x)

theorem overBits_keeps {β : Type} (p : State → β) {F : State → Bit → List Byte → State} (h : ∀ s b v, p (F s b v) = p s) (bs : List Bit) (v : List Byte) :
    p (overBits F s bs v) = p s := by
  induction bs generalizing s v with
  | nil => rfl
  | cons b bs ih => exact (ih _).trans (h s b v)

/-! ## Whose address space it is -/

variable {g : Group}

theorem OnlyFabric.asidOf (h : OnlyFabric s t) : t.asidOf g = s.asidOf g := by rw [h.rest]; rfl

theorem asidOf_bringBit (ag : Agent) (load : Bool) (b : Bit) : (s.bringBit ag load b).asidOf g = s.asidOf g := by
  unfold State.bringBit
  split
  · rfl
  · split
    · rfl
    · exact (onlyFabric_bringLine _ _ _ _).asidOf

theorem asidOf_writePad (pid off : Nat) (bs : List Byte) : (s.writePad pid off bs).asidOf g = s.asidOf g := by
  unfold State.writePad
  split <;> rfl

theorem asidOf_homeBit (ag : Agent) (b : Bit) (v : List Byte) : (s.homeBit ag b v).asidOf g = s.asidOf g := by
  unfold State.homeBit
  split
  · exact asidOf_writePad _ _ _
  · split
    · rfl
    · exact ((onlyFabric_flushBit _ _).trans (onlyFabric_requestBit _ _ _)).asidOf

end Sys2Proof.Machine
end

/-! # ST and STREL (R168 to R172, R231, R232, R401) -/

section
namespace Sys2Proof.Machine

variable {s : State} {f : Frag} {j : Instr} {m : Marks} {d a b : Code} {i : BitVec 10} {x : BitVec 4}

/-- The accesses of an ST's lanes. -/
def State.storeLanes (s : State) (f : Frag) (a : Code) (i : BitVec 10) (size : Nat) : List LaneAccess :=
  s.checkLanes f.g .wr anyAperture 1 (sizeBytes size) (f.memAddr a i (sizeBytes size)) (lanesOf f.writers)

/-- A store that raises nothing waits, or performs its lanes. -/
theorem storeOp_go {size : Nat} (h : Runs s f j m { srcs := [opnd d (sizeWords size), opnd a 2] }) (ht : lanesTrap 1 (s.storeLanes f a i size) = none) :
    let xs := s.storeLanes f a i size
    storeOp s j m d a i size = if s.writeHeld f.g (xs.flatMap LaneAccess.pieces) then .next s
      else .next (((s.performStores f.g (sizeBytes size) (f.src d (sizeWords size)) xs).noteWrite f.g (linesOfLanes xs)).goOn f m) := by
  unfold storeOp
  refine (issue_go (f := f) h).trans ?_
  unfold State.storeLanes at ht
  simp only [ht]
  rfl

/-- The accesses of a STREL's lanes. -/
def State.strelLanes (s : State) (f : Frag) (a : Code) (size : Nat) : List LaneAccess :=
  s.checkLanes f.g .wr anyAperture (sizeBytes size) (sizeBytes size) (f.src a 2) (lanesOf f.writers)

/-- A lane's store at the homes of its pieces, once their lines are there. -/
def State.homeStore (s : State) (ag : Agent) (v : List Byte) (y : LaneAccess) : State :=
  (y.pieces.foldl (fun u b => u.bringBit ag false b) s).homeBits ag y.pieces v

/-- The stores of a STREL, and the releases that it records at their lines. -/
def State.strelStores (s : State) (f : Frag) (d b : Code) (size : Nat) (xs : List LaneAccess) : State :=
  (linesOfLanes xs).foldl (fun u ln => u.recordRelease f.g.core (s.asidOf f.g) b.toNat ln)
    (xs.foldl (fun u y => u.homeStore (s.agentOf f.g) (bytesOf (f.src d (sizeWords size) y.lane) (sizeBytes size)) y) s)

/-- The address space under which the releases are recorded is the group's before its stores. -/
theorem strelStores_eq {size : Nat} {xs : List LaneAccess} : s.strelStores f d b size xs =
    (linesOfLanes xs).foldl (fun u ln => u.recordRelease f.g.core (u.asidOf f.g) b.toNat ln)
      (xs.foldl (fun u y => u.homeStore (s.agentOf f.g) (bytesOf (f.src d (sizeWords size) y.lane) (sizeBytes size)) y) s) := by
  have hstored : (xs.foldl (fun u y => u.homeStore (s.agentOf f.g) (bytesOf (f.src d (sizeWords size) y.lane) (sizeBytes size)) y) s).asidOf f.g =
      s.asidOf f.g := foldl_keeps (·.asidOf f.g) (fun u y => (overBits_keeps (·.asidOf f.g) (fun _ _ _ => asidOf_homeBit _ _ _) _ _).trans
    (foldl_keeps (·.asidOf f.g) (fun _ _ => asidOf_bringBit _ _ _) _)) xs
  unfold State.strelStores
  rw [← hstored]
  generalize xs.foldl _ s = u
  induction linesOfLanes xs generalizing u with
  | nil => rfl
  | cons ln lines ih =>
    rw [List.foldl_cons, List.foldl_cons, ← ih, (onlyFabric_recordRelease _ _ _ _).asidOf]

/-- A STREL that raises nothing, behind every earlier access, performs its lanes. -/
theorem exec_strel (h : Runs s f (.strel m d a b x) m { srcs := [opnd d (sizeWords x.toNat), opnd a 2] }) (ht : lanesTrap 1 (s.strelLanes f a x.toNat) = none)
    (hfar : s.farPending f.g true (linesOfLanes (s.strelLanes f a x.toNat)) = false) (hrel : s.relBusy f.g = false)
    (hlate : s.lateAhead f.g (memLines ((s.strelLanes f a x.toNat).flatMap LaneAccess.pieces)) = false) :
    let xs := s.strelLanes f a x.toNat
    exec (.strel m d a b x) s = .next (((s.strelStores f d b x.toNat xs).noteWrite f.g (linesOfLanes xs)).goOn f m) := by
  change execStrel m d a b x s = _
  unfold execStrel
  refine (issue_go (f := f) h).trans ?_
  unfold State.strelLanes at ht hfar hlate
  simp only [ht, hfar, hrel, hlate]
  rw [strelStores_eq]
  rfl

/-- Settles O18: each ST is the same store of its size, which waits or is performed. -/
theorem storesComplete : Obligations.StoresComplete := by
  intro s f m d a b i x stores
  have hst {j : Instr} {size : Nat} (hj : exec j s = storeOp s j m d a i size) : stores j size := by
    intro h ht
    have hgo := hj.trans (storeOp_go h ht)
    exact ⟨fun hheld => hgo.trans (if_pos hheld), fun hheld => hgo.trans (if_neg (Bool.not_eq_true _ ▸ hheld))⟩
  exact ⟨hst rfl, hst rfl, hst rfl, hst rfl, hst rfl, exec_strel⟩

end Sys2Proof.Machine
end

/-! # Local atomics (R176 to R179) -/

section
namespace Sys2Proof.Machine

variable {s : State} {f : Frag} {j : Instr} {m : Marks} {d a b : Code} {w : Nat} {new : Nat → Nat → Nat}

/-- The accesses of a local atomic's lanes. -/
def State.localLanes (s : State) (f : Frag) (a : Code) (w : Nat) : List LaneAccess := s.checkLanes f.g .wr [1, 2] (4 * w) (4 * w) (f.src a 2) (lanesOf f.writers)

/-- A local atomic's lanes performed at their banks and noted, and what the lanes answer. -/
def State.localDone (s : State) (f : Frag) (w : Nat) (new : Nat → Nat → Nat) (xs : List LaneAccess) : State × List Nat :=
  let r := s.localAtomics f.g (4 * w) new xs
  ((r.1.noteRead f.g (linesOfLanes xs)).noteWrite f.g (linesOfLanes xs)).writerVals f (laneValues r.2)

/-- A local atomic that raises nothing, behind the group's loads and far atomics, performs its lanes. -/
theorem localOut_go (ht : lanesTrap 1 (s.localLanes f a w) = none) (hl : s.loadsOpen f.g = false) (hf : s.farBusy f.g = false) :
    let u := s.localDone f w new (s.localLanes f a w)
    localOut s f m d a w new = .next ((u.1.resultLater f d w u.2 f.active 0 .alu).goOn f m) := by
  unfold localOut
  unfold State.localLanes at *
  simp only [ht, hl, hf]
  rfl

/-- Without helper lanes the answers are the old values. -/
theorem writerVals_none {vals : List Nat} (h : f.active &&& f.g.helper = 0) : (s.writerVals f vals).2 = vals := by
  unfold State.writerVals
  rw [if_pos h]

theorem signedOf_word (v : Nat) : signedOf 32 v = (BitVec.ofNat 32 v).toInt := by
  rw [BitVec.toInt_eq_toNat_cond, BitVec.toNat_ofNat]
  rfl

theorem localNew_min (o v : Nat) : localNew 1 o v = if (BitVec.ofNat 32 v).slt (BitVec.ofNat 32 o) then v else o := by
  simp only [localNew, signedOf_word, BitVec.slt, decide_eq_true_eq]

theorem localNew_max (o v : Nat) : localNew 3 o v = if (BitVec.ofNat 32 o).slt (BitVec.ofNat 32 v) then v else o := by
  simp only [localNew, signedOf_word, BitVec.slt, decide_eq_true_eq]

theorem exec_acas {c : BitVec 4} (h : Runs s f (.acas m d a b c) m
    { srcs := [opnd a 2], srcB := some (opnd b 1), srcC := some (opnd (cCode d c) 1), dst := some (opnd d 1), late := true }) :
    exec (.acas m d a b c) s = localOut s f m d a 1 fun l o => if o = f.src (cCode d c) 1 l then f.srcB b 1 l else o := issue_go h

theorem localOp_go {op : Nat} (h : Runs s f j m { srcs := [opnd a 2], srcB := some (opnd b w), dst := some (opnd d w), late := true }) :
    localOp s j m d a b op w = localOut s f m d a w fun l o => localNew op o (f.srcB b w l) := issue_go h

/-- Settles O21: every form is the same lane-by-lane performance, of its own operator. -/
theorem localAtomicsComplete : Obligations.LocalAtomicsComplete := by
  intro s f m d a b c completes n1 v less more
  have hlocal {j : Instr} {w : Nat} {n : Need} {new : Nat → Nat → Nat} (hj : Runs s f j m n → exec j s = localOut s f m d a w new) : completes j w n new :=
    fun h ht hl hfar => ⟨writerVals_none, (hj h).trans (localOut_go ht hl hfar)⟩
  have hmin : (fun l o => if more o l then v l else o) = fun l o => localNew 1 o (v l) := by funext l o; exact (localNew_min _ _).symm
  have hmax : (fun l o => if less o l then v l else o) = fun l o => localNew 3 o (v l) := by funext l o; exact (localNew_max _ _).symm
  rw [hmin, hmax]
  exact ⟨hlocal localOp_go, hlocal localOp_go, hlocal localOp_go, hlocal localOp_go, hlocal localOp_go, hlocal localOp_go, hlocal localOp_go,
    hlocal localOp_go, hlocal localOp_go, hlocal localOp_go, hlocal exec_acas⟩

end Sys2Proof.Machine
end

/-! # LD and LDACQ (R168, R169, R172, R232, R234)

A load that no earlier access holds notes its lines as the group's last read, walks, and has its result under way: read at once, or when it
returns. What it does before that leaves its fragment the turn, in the group that has noted the lines. -/

section
namespace Sys2Proof.Machine

variable {s u : State} {f : Frag} {m : Marks} {d a b : Code} {i : BitVec 10} {x : BitVec 4} {size align : Nat} {acq : Option Nat} {addr : Nat → Nat}

/-- The fragment in its group with lines noted as the last read. -/
def Frag.noted (f : Frag) (lines : List Nat) : Frag := { f with g := { f.g with lastRead := lines, readIn := none } }

/-- The fragment that a group and its slot with the turn make. -/
theorem frag?_of_slot {g : Group} {sl : Slot} (hg : s.group? s.ctl.gid = some g) (hsl : g.slot? s.ctl.slot = some sl) :
    s.frag? = if s.mayIssue g && sl.mayIssue && !g.heldFrom s.ctl.slot then some ⟨g, s.ctl.slot, sl⟩ else none := by
  simp only [State.frag?, hg, hsl]

theorem frag?_noteRead (hf : s.frag? = some f) (lines : List Nat) : (s.noteRead f.g lines).frag? = some (f.noted lines) := by
  obtain ⟨hg, hgid, hslot, hsl, -⟩ := frag?_some hf
  have hnote : s.noteRead f.g lines = s.putGroup (f.noted lines).g := by
    unfold State.noteRead
    rw [hg]
    rfl
  have hput : (s.putGroup (f.noted lines).g).group? s.ctl.gid = some (f.noted lines).g := by
    rw [hgid]
    exact group?_putGroup_self (h := (f.noted lines).g) hg
  rw [hnote, frag?_of_slot hput (sl := f.sl) (by rw [← hsl, ← hslot]; rfl)]
  rw [frag?_of_slot (by rw [hgid]; exact hg) (by rw [hslot]; exact hsl)] at hf
  have hmay : (s.mayIssue f.g && f.sl.mayIssue && !f.g.heldFrom s.ctl.slot) = true := by
    by_contra hno
    rw [if_neg hno] at hf
    cases hf
  refine (if_pos hmay).trans ?_
  change some (⟨(f.noted lines).g, s.ctl.slot, f.sl⟩ : Frag) = _
  rw [hslot]
  rfl

/-- The accesses of a load's lanes. -/
def State.loadLanes (s : State) (f : Frag) (size align : Nat) (addr : Nat → Nat) : List LaneAccess :=
  s.checkLanes f.g .rd anyAperture align (sizeBytes size) addr (lanesOf f.active)

/-- Whether a load is performed when its result returns: a free choice where both are permitted (log 18, log 112). -/
def State.loadChoice (s : State) (f : Frag) (acq : Option Nat) (xs : List LaneAccess) : Bool × State :=
  if acq = none && relaxedBits (xs.flatMap LaneAccess.pieces) && !s.dirtyIn f.g (linesOfLanes xs) then s.choose else (false, s)

/-- The translations that walks have found for some pieces are installed. -/
def State.walkBits (s : State) (g : Group) (bs : List Bit) : State :=
  bs.foldl (fun (u : State) b => match b.spot with | .mem va t true => u.install (u.agentOf g) t va | _ => u) s

/-- An LDACQ acquires at its lines. -/
def State.acquireLines (s : State) (g : Group) (acq : Option Nat) (lines : List Nat) : State := match acq with
  | some sc => lines.foldl (fun (u : State) ln => u.acquireLine g.core sc ln) s
  | none => s

/-- What a load's result tells of it. -/
def Frag.loadKind (f : Frag) (d : Code) (size : Nat) (acq : Option Nat) (xs : List LaneAccess) : OutKind :=
  .load ⟨d, sizeWords size, size, xs.map fun y => (y.lane, BitVec.ofNat 64 y.addr), acq, f.slot, bitSpots (xs.flatMap LaneAccess.pieces)⟩

/-- A load that raises nothing waits, or has its result under way. -/
theorem loadOut_go (ht : lanesTrap 0 (s.loadLanes f size align addr) = none) :
    let xs := s.loadLanes f size align addr
    let c := s.loadChoice f acq xs
    let u := c.2.noteRead f.g (linesOfLanes xs)
    let walked := u.walkBits f.g (xs.flatMap LaneAccess.pieces)
    let r := (u.acquireLines f.g acq (linesOfLanes xs)).performLoads f.g size xs
    loadOut s f m d size align acq addr = if s.loadHeld f.g (xs.flatMap LaneAccess.pieces) then .next s
      else if c.1 then .next ((walked.resultLater f d (sizeWords size) (perLane fun _ => 0) f.active 3 (f.loadKind d size acq xs)).goOn f m)
      else .next ((r.1.resultLater f d (sizeWords size) r.2 f.active 0 (f.loadKind d size acq xs)).goOn f m) := by
  intro xs c u walked r
  unfold loadOut
  change lanesTrap 0 (s.checkLanes _ _ _ _ _ _ _) = none at ht
  simp only [ht]
  refine if_congr Iff.rfl rfl ?_
  let w := if c.1 then walked else u
  let r' := (w.acquireLines f.g acq (linesOfLanes xs)).performLoads f.g size xs
  change (if c.1 then Host.Outcome.next ((w.resultLater f d (sizeWords size) (perLane fun _ => 0) f.active 3 (f.loadKind d size acq xs)).goOn f m)
    else .next ((r'.1.resultLater f d (sizeWords size) r'.2 f.active 0 (f.loadKind d size acq xs)).goOn f m)) = _
  by_cases hlate : c.1 = true
  · simp only [w, if_pos hlate]
  · simp only [w, r', if_neg hlate]
    rfl

/-! ## The turn stays -/

theorem frag?_loadChoice (xs : List LaneAccess) : (s.loadChoice f acq xs).2.frag? = s.frag? := by
  unfold State.loadChoice
  split <;> rfl

theorem frag?_walkBits (g : Group) (bs : List Bit) : (s.walkBits g bs).frag? = s.frag? := by
  refine foldl_keeps State.frag? (fun u b => ?_) bs
  split
  · exact (onlyFabric_install _ _ _).sameTurn.frag?
  · rfl

theorem frag?_acquireLines (g : Group) (lines : List Nat) : (s.acquireLines g acq lines).frag? = s.frag? := by
  unfold State.acquireLines
  split
  · exact foldl_keeps State.frag? (fun _ _ => (onlyFabric_acquireLine _ _ _).sameTurn.frag?) lines
  · rfl

theorem frag?_performLoads (g : Group) (xs : List LaneAccess) : (s.performLoads g size xs).1.frag? = s.frag? :=
  foldl_keeps State.frag? (fun _ _ => foldl_keeps State.frag? (fun _ _ => frag?_bringBit _ _ _) _) xs

/-- A result under way of a fragment whose group has noted lines meanwhile: neither the result nor going on looks at them. -/
theorem awaits_noted {lines vals : List Nat} {w left : Nat} {active : LaneMask} {kind : OutKind} (hf : u.frag? = some (f.noted lines)) :
    Awaits u (f.noted lines) m d w active vals left kind ((u.resultLater f d w vals active left kind).goOn f m) := awaits_resultLater hf

/-- The choice of a load in the words of the statement. -/
theorem loadChoice_eq (xs : List LaneAccess) : s.loadChoice f acq xs =
    if acq = none ∧ relaxedBits (xs.flatMap LaneAccess.pieces) = true ∧ s.dirtyIn f.g (linesOfLanes xs) = false then s.choose else (false, s) :=
  if_congr (by simp [and_assoc]) rfl rfl

theorem exec_ldacq (h : Runs s f (.ldacq m d a b x) m { srcs := [opnd a 2], dst := some (opnd d (sizeWords x.toNat)), late := true, load := true }) :
    exec (.ldacq m d a b x) s = loadOut s f m d x.toNat (sizeBytes x.toNat) (some b.toNat) (f.src a 2) := issue_go h

theorem loadOp_go {j : Instr} (h : Runs s f j m { srcs := [opnd a 2], dst := some (opnd d (sizeWords size)), late := true, load := true }) :
    loadOp s j m d a i size = loadOut s f m d size 1 none (f.memAddr a i (sizeBytes size)) := issue_go h

/-- Settles O17: each LD and LDACQ is the same load, which waits, or is performed late or at once. -/
theorem loadsComplete : Obligations.LoadsComplete := by
  intro s f m d a b i x loads at_
  have hload {j : Instr} {size align : Nat} {acq : Option Nat} {addr : Nat → Nat}
      (hj : Runs s f j m { srcs := [opnd a 2], dst := some (opnd d (sizeWords size)), late := true, load := true } →
        exec j s = loadOut s f m d size align acq addr) : loads j size align acq addr := by
    intro h ht
    have hgo := (hj h).trans (loadOut_go (acq := acq) ht)
    have hturn : ((s.loadChoice f acq (s.loadLanes f size align addr)).2.noteRead f.g (linesOfLanes (s.loadLanes f size align addr))).frag? = _ :=
      frag?_noteRead ((frag?_loadChoice _).trans h.1) _
    rw [← loadChoice_eq]
    refine ⟨fun hheld => hgo.trans (if_pos hheld), fun hheld => ?_⟩
    have hgo := hgo.trans (if_neg (Bool.not_eq_true _ ▸ hheld))
    by_cases hlate : (s.loadChoice f acq (s.loadLanes f size align addr)).1 = true
    · exact ⟨_, hgo.trans (if_pos hlate), fun _ => awaits_noted ((frag?_walkBits _ _).trans hturn), fun h => absurd (hlate.symm.trans h) nofun⟩
    · exact ⟨_, hgo.trans (if_neg hlate), fun h => absurd h hlate,
        fun _ => awaits_noted (((frag?_performLoads _ _).trans (frag?_acquireLines _ _)).trans hturn)⟩
  exact ⟨hload loadOp_go, hload loadOp_go, hload loadOp_go, hload loadOp_go, hload loadOp_go, hload loadOp_go, hload loadOp_go, hload exec_ldacq⟩

end Sys2Proof.Machine
end

/-! # What strongly ordered stores and STREL leave in memory (R170, R172, R231, R236, R401)

Where no L1 line is dirty, what a store does beside its writes leaves every byte; its writes put the pieces of each lane's value, lane
after lane, at their physical addresses, and the pieces of an access are no longer than its value. -/

section
namespace Sys2Proof.Machine

variable {s t u : State} {n : Nat}

/-! ## Writes one after another -/

/-- Memory is in canonical form and no L1 line is dirty. -/
def State.homed (s : State) : Prop := s.mem.wf = true ∧ s.undirtied

/-- From `s`, bytes have been written at homes: `o` says which, and every other is as before. -/
structure Puts (s t : State) (o : Nat → Option Byte) : Prop where
  rest : t = { s with mem := t.mem, msys := t.msys, cores := t.cores }
  homed : t.homed
  byte : ∀ k, t.mem.byte k = (o k).getD (s.mem.byte k)

/-- A later write wins. -/
theorem Puts.trans {o o' : Nat → Option Byte} (h : Puts s t o) (h' : Puts t u o') : Puts s u fun k => (o' k).or (o k) where
  rest := by rw [h'.rest, h.rest]
  homed := h'.homed
  byte k := by
    rw [h'.byte k, h.byte k]
    cases o' k <;> rfl

/-- What changes no byte writes none. -/
theorem OnlyFabric.puts (h : OnlyFabric s t) (hs : s.homed) : Puts s t fun _ => none where
  rest := h.rest
  homed := ⟨by rw [(h.clean hs.2).2]; exact hs.1, (h.clean hs.2).1⟩
  byte k := by rw [(h.clean hs.2).2]; rfl

theorem Puts.of_eq {o o' : Nat → Option Byte} (h : Puts s t o) (e : ∀ k, o k = o' k) : Puts s t o' := by rwa [← funext e]

/-- What lies in memory from address `a` as the bytes `v`. -/
def bytesAt (a : Nat) (v : List Byte) (k : Nat) : Option Byte := if a ≤ k ∧ k < a + v.length then some (v.getD (k - a) 0) else none

theorem puts_writeHome (hs : s.homed) (a : Nat) (v : List Byte) : Puts s (s.writeHome a v) (bytesAt a v) where
  rest := rfl
  homed := ⟨wf_write v a hs.1, hs.2⟩
  byte k := by
    refine (byte_write v a hs.1 k).trans ?_
    unfold bytesAt
    split <;> rfl

/-- Writes of single bytes upward are the write of all of them. -/
theorem puts_writeHomes (hs : s.homed) (a : Nat) (v : List Byte) (n : Nat) :
    Puts s ((List.range n).foldl (fun s i => s.writeHome (a + i) [v.getD i 0]) s)
      fun k => if a ≤ k ∧ k < a + n then some (v.getD (k - a) 0) else none := by
  induction n with
  | zero => exact (OnlyFabric.refl.puts hs).of_eq fun k => (if_neg (by omega)).symm
  | succ n ih =>
    rw [List.range_succ, List.foldl_append]
    refine (ih.trans (puts_writeHome ih.homed (a + n) [v.getD n 0])).of_eq fun k => ?_
    unfold bytesAt
    simp only [List.length_singleton]
    by_cases hlast : k = a + n
    · subst hlast
      simp
    · have hout : ¬(a + n ≤ k ∧ k < a + n + 1) := by omega
      have hin : (a ≤ k ∧ k < a + n) ↔ (a ≤ k ∧ k < a + (n + 1)) := by omega
      rw [if_neg hout, Option.none_or, if_congr hin rfl rfl]

/-! ## Pieces of a value -/

/-- What a store of `v` puts at physical address `k` by piece `p`, if anything. -/
def spotByte (k : Nat) (p : Bit) (v : List Byte) : Option Byte := match p.spot with
  | .mem va t _ => if t.pa va ≤ k ∧ k < t.pa va + p.len then some (v.getD (k - t.pa va) 0) else none
  | .pad _ _ => none

theorem pieceByte_cons (k : Nat) (p : Bit) (ps : List Bit) (v : List Byte) :
    pieceByte k (p :: ps) v = (pieceByte k ps (v.drop p.len)).or (spotByte k p v) := by
  rw [pieceByte]
  cases pieceByte k ps (v.drop p.len) <;> rfl

/-- The bytes that pieces take. -/
def bitsLen (bs : List Bit) : Nat := (bs.map (·.len)).sum

/-- A piece lies in memory, outside the device register window. -/
def Bit.inMemory (b : Bit) : Prop := ∃ va t w, b.spot = .mem va t w ∧ devicePa (t.pa va) = false

theorem isDevice_mem {b : Bit} {va : Nat} {t : Tlb} {w : Bool} (h : b.spot = .mem va t w) : b.isDevice = devicePa (t.pa va) := by
  unfold Bit.isDevice
  rw [h]

/-- A piece in memory lies in strongly ordered pages. -/
def Bit.ordered (b : Bit) : Prop := ∀ va t w, b.spot = .mem va t w → t.kind = .so

theorem puts_storeBit (hs : s.homed) (ag : Agent) {b : Bit} (hb : b.inMemory) (hso : b.ordered) (v : List Byte) :
    Puts s (s.storeBit ag b v) fun k => spotByte k b v := by
  obtain ⟨va, t, w, hspot, hdev⟩ := hb
  have hdevice : b.isDevice = false := (isDevice_mem hspot).trans hdev
  have hstore : s.storeBit ag b v = (List.range b.len).foldl (fun s i => s.writeHome (t.pa va + i) [v.getD i 0]) s := by
    unfold State.storeBit State.storeByte
    simp only [hspot, hdevice, hso va t w hspot, Bool.false_eq_true, if_false, if_true]
  rw [hstore]
  unfold spotByte
  simp only [hspot]
  exact puts_writeHomes hs _ _ _

theorem puts_homeBit (hs : s.homed) (ag : Agent) {b : Bit} (hb : b.inMemory) {v : List Byte} (hv : b.len ≤ v.length) :
    Puts s (s.homeBit ag b v) fun k => spotByte k b v := by
  obtain ⟨va, t, w, hspot, hdev⟩ := hb
  have hdevice : b.isDevice = false := (isDevice_mem hspot).trans hdev
  have hhome : s.homeBit ag b v = ((s.flushBit ag.core b).requestBit ag false b).writeHome (t.pa va) (v.take b.len) := by
    unfold State.homeBit
    simp only [hspot, hdevice, Bool.false_eq_true, if_false]
  have hready := ((onlyFabric_flushBit ag.core b).trans (onlyFabric_requestBit ag false b)).puts hs
  rw [hhome]
  refine (hready.trans (puts_writeHome hready.homed _ _)).of_eq fun k => ?_
  unfold bytesAt spotByte
  simp only [hspot, Option.or_none, List.length_take, Nat.min_eq_left hv]
  by_cases hin : t.pa va ≤ k ∧ k < t.pa va + b.len
  · rw [if_pos hin, if_pos hin, List.getD_eq_getElem?_getD, List.getElem?_take_of_lt (by omega), ← List.getD_eq_getElem?_getD]
  · rw [if_neg hin, if_neg hin]

/-- Pieces that each put their share of a value put it together. -/
theorem puts_overBits {F : State → Bit → List Byte → State} {P : Bit → Prop}
    (hF : ∀ s b v, s.homed → P b → b.len ≤ v.length → Puts s (F s b v) fun k => spotByte k b v) :
    ∀ {bs : List Bit} {v : List Byte} {s : State}, s.homed → (∀ b ∈ bs, P b) → bitsLen bs ≤ v.length →
      Puts s (overBits F s bs v) fun k => pieceByte k bs v
  | [], _, _, hs, _, _ => OnlyFabric.refl.puts hs
  | b :: bs, v, s, hs, hP, hlen => by
    have hsum : b.len + bitsLen bs ≤ v.length := hlen
    have hfirst := hF s b v hs (hP b List.mem_cons_self) (by omega)
    have hrest := puts_overBits hF (bs := bs) (v := v.drop b.len) hfirst.homed (fun x hx => hP x (List.mem_cons_of_mem b hx))
      (by rw [List.length_drop]; omega)
    exact (hfirst.trans hrest).of_eq fun k => (pieceByte_cons k b bs v).symm

/-! ## Lanes -/

/-- Lanes that each put their bytes put what the last one that stores there does. -/
theorem puts_lanes {F : State → LaneAccess → State} {v : Nat → List Byte} {xs : List LaneAccess} (hs : s.homed)
    (hF : ∀ s, ∀ x ∈ xs, s.homed → Puts s (F s x) fun k => pieceByte k x.pieces (v x.lane)) :
    Puts s (xs.foldl F s) fun k => storedByte k v xs := by
  induction xs using List.reverseRecOn with
  | nil => exact OnlyFabric.refl.puts hs
  | append_singleton xs x ih =>
    have hxs := ih fun s y hy => hF s y (List.mem_append_left _ hy)
    rw [List.foldl_append]
    refine (hxs.trans (hF _ x (List.mem_append_right _ List.mem_cons_self) hxs.homed)).of_eq fun k => ?_
    unfold storedByte
    rw [List.foldl_append, List.foldl_cons, List.foldl_nil]
    cases pieceByte k x.pieces (v x.lane) <;> rfl

theorem onlyFabric_bringBit (ag : Agent) {b : Bit} (hb : b.inMemory) : OnlyFabric s (s.bringBit ag false b) := by
  obtain ⟨va, t, w, hspot, hdev⟩ := hb
  have hdevice : b.isDevice = false := (isDevice_mem hspot).trans hdev
  unfold State.bringBit
  simp only [hspot, hdevice, Bool.false_eq_true, if_false]
  exact onlyFabric_bringLine _ _ _ _

theorem onlyFabric_bringBits (ag : Agent) {bs : List Bit} (hb : ∀ b ∈ bs, b.inMemory) : OnlyFabric s (bs.foldl (fun u b => u.bringBit ag false b) s) := by
  induction bs generalizing s with
  | nil => exact .refl
  | cons b bs ih => exact (onlyFabric_bringBit ag (hb b List.mem_cons_self)).trans (ih fun x hx => hb x (List.mem_cons_of_mem b hx))

/-! ## The pieces of an access are no longer than it -/

/-- Differences of a rising sequence sum to no more than its last value less its first. -/
theorem sum_steps {c : Nat → Nat} (hc : ∀ i, c i ≤ c (i + 1)) (m : Nat) : ((List.range m).map fun i => c (i + 1) - c i).sum = c m - c 0 := by
  have hle : ∀ m, c 0 ≤ c m := fun m => monotone_nat_of_le_succ hc (Nat.zero_le m)
  induction m with
  | zero => simp
  | succ m ih =>
    rw [List.range_succ, List.map_append, List.sum_append, ih]
    have h1 := hc m
    have h2 := hle m
    simp only [List.map_cons, List.map_nil, List.sum_singleton]
    omega

/-- The bytes of the pieces of an access. -/
def piecesLen (ps : List Piece) : Nat := (ps.map (·.len)).sum

/-- A range of `n` bytes at `a`, cut at the multiples of `k`, sums to at most `n` bytes. -/
theorem sum_cuts (k a n m : Nat) (hk : 0 < k) : ((List.range m).map fun i => min (a + n) ((a / k + i + 1) * k) - max a ((a / k + i) * k)).sum ≤ n := by
  let c (i : Nat) : Nat := min (a + n) (max a ((a / k + i) * k))
  have hstep (i : Nat) : (a / k + i) * k ≤ (a / k + (i + 1)) * k := Nat.mul_le_mul_right k (by omega)
  have hnext (i : Nat) : a ≤ (a / k + i + 1) * k := by
    have h1 : a < (a / k + 1) * k := by rw [Nat.mul_comm]; exact Nat.lt_mul_div_succ a hk
    have h2 : (a / k + 1) * k ≤ (a / k + i + 1) * k := Nat.mul_le_mul_right k (by omega)
    omega
  have hcut (i : Nat) : min (a + n) ((a / k + i + 1) * k) - max a ((a / k + i) * k) = c (i + 1) - c i := by
    have h1 := hnext i
    have h2 := hstep i
    have h3 : (a / k + (i + 1)) * k = (a / k + i + 1) * k := rfl
    simp only [c]
    omega
  have hsum := sum_steps (c := c) (fun i => by have h := hstep i; simp only [c]; omega) m
  simp only [hcut, hsum]
  simp only [c]
  omega

theorem piecesLen_vaPieces (a n : Nat) : piecesLen (vaPieces a n) ≤ n := by
  unfold piecesLen vaPieces cutAt
  rw [List.map_map]
  exact sum_cuts 64 a n _ (by decide)

theorem piecesLen_localPieces (l : Launch) (slot lane o n : Nat) : piecesLen (localPieces l slot lane o n) ≤ n := by
  have hfirst (i : Nat) : (if i = 0 then o else (o / 4 + i) * 4) = max o ((o / 4 + i) * 4) := by split <;> omega
  unfold piecesLen localPieces
  rw [List.map_map]
  refine le_of_eq_of_le ?_ (sum_cuts 4 o n ((o % 4 + n + 3) / 4) (by decide))
  simp only [Function.comp_def, hfirst]

theorem piecesLen_decodeAddr {ag : Agent} {lane a n ap : Nat} {ps : List Piece} (h : s.decodeAddr ag lane a n = some (ap, ps)) : piecesLen ps ≤ n := by
  unfold State.decodeAddr at h
  dsimp only at h
  split at h
  · split at h <;> cases h
    exact piecesLen_vaPieces a n
  split at h
  · cases h
  split at h
  · split at h
    · split at h <;> cases h
      simp [piecesLen]
    · cases h
  split at h
  · split at h
    · cases h
    · split at h
      · split at h <;> cases h
        simp [piecesLen]
      · cases h
  · split at h
    · split at h <;> cases h
      exact piecesLen_localPieces _ _ _ _ _
    · cases h

theorem len_checkPiece {ag : Agent} {acc : Acc} {p : Piece} {b : Bit} (h : s.checkPiece ag acc p = .ok b) : b.len = p.len := by
  unfold State.checkPiece at h
  split at h
  · cases h
    rfl
  · split at h
    · cases h
    · split at h
      · cases h
      · split at h <;> cases h
        rfl

theorem bitsLen_checkPieces {ag : Agent} {acc : Acc} : ∀ {ps : List Piece} {bs : List Bit}, s.checkPieces ag acc ps = .ok bs → bitsLen bs = piecesLen ps
  | [], bs, h => by cases h; rfl
  | p :: ps, bs, h => by
    unfold State.checkPieces at h
    split at h <;> cases h
    next b bs hb hbs =>
      change b.len + bitsLen bs = p.len + piecesLen ps
      rw [len_checkPiece hb, bitsLen_checkPieces hbs]

theorem bitsLen_checkAccess {ag : Agent} {acc : Acc} {aps : List Nat} {align lane a n : Nat} {bs : List Bit}
    (h : s.checkAccess ag acc aps align lane a n = .ok bs) : bitsLen bs ≤ n := by
  unfold State.checkAccess at h
  split at h
  · cases h
  · split at h
    · cases h
    next ap ps hdecode =>
      split at h
      · rw [bitsLen_checkPieces h]
        exact piecesLen_decodeAddr hdecode
      · cases h

theorem bitsLen_checkLanes {g : Group} {acc : Acc} {aps : List Nat} {align n : Nat} {addr : Nat → Nat} {ls : List Nat} {x : LaneAccess}
    (hx : x ∈ s.checkLanes g acc aps align n addr ls) : bitsLen x.pieces ≤ n := by
  obtain ⟨l, -, rfl⟩ := List.mem_map.1 hx
  unfold LaneAccess.pieces
  split
  next bs hbs => exact bitsLen_checkAccess hbs
  next => exact Nat.zero_le n

/-! ## The stores -/

/-- Every lane's pieces are in memory, and take no more than its value's `n` bytes. -/
def InMemory (n : Nat) (xs : List LaneAccess) : Prop := ∀ x ∈ xs, (∀ b ∈ x.pieces, b.inMemory) ∧ bitsLen x.pieces ≤ n

/-- Lanes that bring their lines in and then store their pieces. -/
theorem puts_laneStores {xs : List LaneAccess} {F : State → Bit → List Byte → State} {P : Bit → Prop} (ag : Agent) (data : Nat → Nat) (hs : s.homed)
    (hF : ∀ s b v, s.homed → P b → b.len ≤ v.length → Puts s (F s b v) fun k => spotByte k b v)
    (hmem : InMemory n xs) (hP : ∀ x ∈ xs, ∀ b ∈ x.pieces, P b) :
    Puts s (xs.foldl (fun s x => overBits F (x.pieces.foldl (fun s b => s.bringBit ag false b) s) x.pieces (bytesOf (data x.lane) n)) s)
      fun k => storedByte k (fun l => bytesOf (data l) n) xs := by
  refine puts_lanes hs fun s x hx hs => ?_
  obtain ⟨hin, hlen⟩ := hmem x hx
  have hbrought := (onlyFabric_bringBits ag hin).puts hs
  have hstored := puts_overBits hF hbrought.homed (hP x hx) (hlen.trans_eq (length_bytesOf (data x.lane) n).symm)
  exact (hbrought.trans hstored).of_eq fun k => Option.or_none

variable {f : Frag} {j : Instr} {m : Marks} {d a b : Code} {i : BitVec 10} {x : BitVec 4} {size : Nat} {xs : List LaneAccess}

theorem puts_performStores (data : Nat → Nat) (hs : s.homed) (hmem : InMemory n xs) (hso : ∀ x ∈ xs, ∀ b ∈ x.pieces, b.ordered) :
    Puts s (s.performStores f.g n data xs) fun k => storedByte k (fun l => bytesOf (data l) n) xs :=
  puts_laneStores (P := fun b => b.inMemory ∧ b.ordered) (s.agentOf f.g) data hs (fun _ _ v hs hb _ => puts_storeBit hs _ hb.1 hb.2 v) hmem
    fun x hx b hb => ⟨(hmem x hx).1 b hb, hso x hx b hb⟩

theorem puts_strelStores (hs : s.homed) (hmem : InMemory (sizeBytes size) xs) : Puts s (s.strelStores f d b size xs)
    fun k => storedByte k (fun l => bytesOf (f.src d (sizeWords size) l) (sizeBytes size)) xs := by
  have hstored := puts_laneStores (s.agentOf f.g) (f.src d (sizeWords size)) hs (fun _ _ _ hs hb hv => puts_homeBit hs (s.agentOf f.g) hb hv) hmem
    fun x hx => (hmem x hx).1
  exact (hstored.trans (OnlyFabric.puts (.foldl (fun _ _ => onlyFabric_recordRelease _ _ _ _) _) hstored.homed)).of_eq fun k => rfl

/-- A group without a FENCE.rel before its write records no release. -/
theorem noteWrite_none {g : Group} (h : g.relScope = none) (lines : List Nat) : s.noteWrite g lines = s := by
  unfold State.noteWrite
  rw [h]

/-- A fragment that has stored and goes on changes its slot and what it has put. -/
theorem frame_of_puts {o : Nat → Option Byte} (hf : s.frag? = some f) (hu : Puts s u o) :
    Passes u f m 0 f.g (u.goOn f m) ∧ u = { s with mem := u.mem, msys := u.msys, cores := u.cores } ∧ ∀ k, u.mem.byte k = (o k).getD (s.mem.byte k) := by
  obtain ⟨hg, -, -, hsl, -⟩ := frag?_some hf
  refine ⟨passes_self ?_ hsl, hu.rest, hu.byte⟩
  rw [hu.rest]
  exact hg

theorem farPending_none {g : Group} (h : s.net.origs = []) (write : Bool) (lines : List Nat) : s.farPending g write lines = false := by
  unfold State.farPending
  rw [h]
  rfl

/-- A write behind every earlier access of the group, with no far atomic under way, is not held. -/
theorem writeHeld_eq_false {g : Group} {bs : List Bit} (hn : s.net.origs = []) (hrel : s.relBusy g = false) (hlate : s.lateAhead g (memLines bs) = false) :
    s.writeHeld g bs = false := by
  unfold State.relBusy at hrel
  simp only [Bool.or_eq_false_iff] at hrel
  obtain ⟨⟨hfar, hloads⟩, -⟩ := hrel
  simp [State.writeHeld, farPending_none hn, hlate, hloads, hfar, State.farReturning, hn]

theorem sizeWords_eq (h : strelSize size = true) : sizeBytes size / 4 + (if sizeBytes size < 4 then 1 else 0) = sizeWords size := by
  simp only [strelSize, Bool.or_eq_true, decide_eq_true_eq] at h
  obtain (((rfl | rfl) | rfl) | rfl) | rfl := h <;> rfl

/-- An instruction that runs is well-formed. -/
theorem wellFormed_of_runs {need : Need} (h : Runs s f j m need) : j.wellFormed = true := by
  have hready : ¬s.waits f m need := fun hwaits => nomatch (gate_of_waits hwaits).symm.trans h.2
  have hgo : f.checks j need = .go := (gate_of_ready hready).symm.trans h.2
  by_contra hbad
  rw [Bool.not_eq_true] at hbad
  simp only [Frag.checks, hbad, Bool.false_and, Bool.not_false, if_true] at hgo
  split_ifs at hgo

theorem strelSize_of_runs {need : Need} (h : Runs s f (.strel m d a b x) m need) : strelSize x.toNat = true := by
  have hwf : (strelSize x.toNat && srcOk (sizeWords x.toNat) d && srcOk 2 a && scopeOk b) = true := wellFormed_of_runs h
  simp only [Bool.and_eq_true] at hwf
  obtain ⟨⟨⟨hsize, -⟩, -⟩, -⟩ := hwf
  exact hsize

/-- Settles O51: each ST and STREL puts the bytes of its lanes; the rest of what it does leaves every byte. -/
theorem sharedStoreFrame : Obligations.SharedStoreFrame := by
  intro s f m d a b i x hok hclean hrel hnet inMemory ordered frames st
  have hs : s.homed := ⟨hok.1, hclean⟩
  have hst {j : Instr} {size : Nat} (hsize : strelSize size = true) (hj : exec j s = storeOp s j m d a i size) : st j size := by
    intro hrun htrap hbusy hlate hlanes
    have hput := puts_performStores (f := f) (f.src d (sizeWords size)) hs (fun y hy => ⟨(hlanes y hy).1, bitsLen_checkLanes hy⟩)
      fun y hy => (hlanes y hy).2 rfl
    have hexec := (hj.trans (storeOp_go hrun htrap)).trans (if_neg (Bool.not_eq_true _ ▸ writeHeld_eq_false hnet hbusy hlate))
    rw [noteWrite_none hrel] at hexec
    rw [sizeWords_eq hsize]
    exact ⟨_, _, hexec, frame_of_puts hrun.1 hput⟩
  refine ⟨hst rfl rfl, hst rfl rfl, hst rfl rfl, hst rfl rfl, hst rfl rfl, fun hrun htrap hbusy hlate hlanes => ?_⟩
  have hput := puts_strelStores (f := f) (d := d) (b := b) hs fun y hy => ⟨(hlanes y hy).1, bitsLen_checkLanes hy⟩
  have hexec := exec_strel hrun htrap (farPending_none hnet true _) hbusy hlate
  simp only [noteWrite_none hrel] at hexec
  rw [sizeWords_eq (strelSize_of_runs hrun)]
  exact ⟨_, _, hexec, frame_of_puts hrun.1 hput⟩

end Sys2Proof.Machine
end

/-! # Work that the task unit has given up (R308, R316) -/

section
namespace Sys2Proof.Machine

variable {s : State} {r : Outst} {k : WorkOf} {w : TaskWork}

/-- A retry leaves a result whose work the task unit does not go on with. -/
theorem exec_taskEnqueueRetry_idle (hr : s.out? r.oid = some r) (hw : r.kind.work? = some (k, w)) (hleft : r.left ≠ 1) :
    exec (.taskEnqueueRetry r.oid) s = .next s := by
  change execTaskEnqueueRetry r.oid s = _
  unfold execTaskEnqueueRetry
  simp only [hr, hw, hleft, if_false]

/-- A residency report with nothing left to do ends at once. -/
theorem runWork_post (hstamp : w.stamp = none) (hblocked : w.blocked = none) (hsuccs : w.succs = []) :
    s.runWork r .post w = s.putOut { r with kind := .post w, left := 0, vals := perLane fun _ => w.count, retried := false } := by
  have hwork : s.work (s.taskAgent w.ctx w.core) .post w w.fuel = ⟨s, w, true, none⟩ := by
    unfold TaskWork.fuel State.work
    simp [hstamp, hblocked, hsuccs]
  unfold State.runWork
  simp only [hwork]
  rfl

/-- Firmware's TKPOST of a task that it posts again (R316), whose access has faulted twice: it is left as failed, with the address of the fault. -/
def failedReport : Outst := ⟨7, 0, 0, 0, 1, 1, [0x10100], 2, .post ⟨0x10100, [], none, none, 0, 0x10200, 1, 0, none⟩, 0x10000, true⟩

/-- A group whose task firmware posts again, beside the report that has failed. -/
def withFailedReport : State :=
  let s := State.reset.withProgram
  (s.setGroups (s.groups.map fun g => { g with phase := .taskPosting 7, task := some 0x10100 })).setOuts [failedReport]

theorem withFailedReport_group : ∃ g sl, withFailedReport.group? 3 = some g ∧ g.slot? 0 = some sl ∧ sl.stop = none := by
  have h : (withFailedReport.group? 3).any (fun g => (g.slot? 0).any fun sl => sl.stop.isNone) = true := by decide +kernel
  obtain ⟨g, hg, hslot⟩ := (Option.any_eq_true _ _).1 h
  obtain ⟨sl, hsl, hstop⟩ := (Option.any_eq_true _ _).1 hslot
  exact ⟨g, sl, hg, hsl, Option.isNone_iff_eq_none.1 hstop⟩

/-- Refutes O43: the task unit tries the work of a result again only where it waits for its turn, 1 left; a report that firmware has to
look at stays with 2 left, and the statement has it performed. -/
theorem not_waitEventsComplete : ¬Obligations.WaitEventsComplete := by
  intro h
  obtain ⟨g, sl, hg, hsl, hstop⟩ := withFailedReport_group
  obtain ⟨_, _, _, hretry, _⟩ := h withFailedReport 3 0 0 0 g sl hg hsl hstop
  have hsaid := hretry failedReport _ _ rfl rfl (by decide)
  rw [exec_taskEnqueueRetry_idle (k := .post) rfl rfl (by decide), runWork_post rfl rfl rfl] at hsaid
  have houts := congrArg State.outs (Host.Outcome.next.inj hsaid)
  exact absurd (congrArg (List.map Outst.left) houts) (by decide)

end Sys2Proof.Machine
end

/-! # Canonical memory: the rules (R203, R214)

What a step leaves is followed through every function that makes a state. `s.memoryOk` of what one leaves is a lemma named after
the function, so that the proof about a composition is the composition: `h.walkHomes.setMsys`. Physical memory
is written by `writeHome` and by RESET alone, a scratchpad by `putPad` and `addPad` alone. -/

section
namespace Sys2Proof.Machine

variable {s t : State} {α β ε : Type}

namespace State.memoryOk

theorem foldl {f : State → α → State} (h : s.memoryOk) (hf : ∀ t x, t.memoryOk → (f t x).memoryOk) (l : List α) :
    (l.foldl f s).memoryOk := by
  induction l generalizing s with
  | nil => exact h
  | cons x l ih => exact ih (hf s x h)

theorem foldlOf {π : β → State} {f : β → α → β} {b : β} (h : (π b).memoryOk)
    (hf : ∀ c x, (π c).memoryOk → (π (f c x)).memoryOk) (l : List α) :
    (π (l.foldl f b)).memoryOk := by
  induction l generalizing b with
  | nil => exact h
  | cons x l ih => exact ih (hf b x h)

theorem ite {c : Prop} [Decidable c] (h : s.memoryOk) (h' : t.memoryOk) : (if c then s else t).memoryOk := by
  split
  · exact h
  · exact h'

/-- The form in which a `match` on a pair gives its first part. -/
theorem of_fst {r : State × α} {a : α} (h : r.1.memoryOk) (e : r = (t, a)) : t.memoryOk := by
  subst e
  exact h

end State.memoryOk

/-- What an outcome that may fail answers, if it answers, satisfies `p`. -/
def IfOk (p : α → Prop) (r : Except ε α) : Prop := ∀ a, r = .ok a → p a

/-- What a search finds, if it finds anything, satisfies `p`. -/
def IfSome (p : α → Prop) (r : Option α) : Prop := ∀ a, r = some a → p a

/-- Work that answers a state either way: where it fails, the error carries the state that it leaves. -/
structure OkBoth (q : ε → Prop) (p : α → Prop) (r : Except ε α) : Prop where
  ok : IfOk p r
  error : ∀ e, r = .error e → q e

/-- The next state, if there is one, has its memories in canonical form. -/
def NextOk (o : Out) : Prop := ∀ t, o = .next t → t.memoryOk

variable {p : α → Prop} {q : β → Prop}

theorem IfOk.ok {a : α} (h : p a) : IfOk p (.ok a : Except ε α) := fun _ e => Except.ok.inj e ▸ h

theorem IfOk.error (e : ε) : IfOk p (.error e : Except ε α) := fun _ h => nomatch h

theorem IfOk.map {r : Except ε α} {f : α → β} (h : IfOk p r) (hf : ∀ a, p a → q (f a)) : IfOk q (r.map f) := by
  cases r with
  | ok a => exact .ok (hf a (h a rfl))
  | error e => exact .error e

theorem IfOk.ite {p : α → Prop} {c : Prop} [Decidable c] {r r' : Except ε α} (h : IfOk p r) (h' : IfOk p r') :
    IfOk p (if c then r else r') := by
  split
  · exact h
  · exact h'

/-- What an attempt on a value that may be missing leaves, if it leaves anything. -/
theorem IfOk.of_map {p : β → Prop} {o : Option α} {f : α → Except ε β}
    (hf : ∀ a, IfOk p (f a)) {b : β} (e : o.map f = some (.ok b)) : p b := by
  obtain ⟨a, -, ha⟩ := Option.map_eq_some_iff.1 e
  exact hf a b ha

theorem okBoth_ok {q : ε → Prop} {a : α} (h : p a) : OkBoth q p (.ok a) := ⟨.ok h, fun _ e => nomatch e⟩

theorem okBoth_error {q : ε → Prop} {e : ε} (h : q e) : OkBoth q p (.error e) := ⟨.error e, fun _ x => Except.error.inj x ▸ h⟩

theorem IfSome.some {a : α} (h : p a) : IfSome p (some a) := fun _ e => Option.some.inj e ▸ h

theorem IfSome.none : IfSome p none := fun _ h => nomatch h

theorem IfSome.map {o : Option α} {f : α → β} (h : IfSome p o) (hf : ∀ a, p a → q (f a)) : IfSome q (o.map f) := by
  cases o with
  | none => exact .none
  | some a => exact .some (hf a (h a rfl))

theorem IfSome.bind {o : Option α} {f : α → Option β} (h : IfSome p o) (hf : ∀ a, p a → IfSome q (f a)) : IfSome q (o.bind f) := by
  cases o with
  | none => exact .none
  | some a => exact hf a (h a rfl)

theorem IfSome.findSome? {f : β → Option α} (hf : ∀ b, IfSome p (f b)) (l : List β) : IfSome p (l.findSome? f) := fun _ e =>
  (List.exists_of_findSome?_eq_some e).elim fun b hb => hf b _ hb.2

/-- Nothing is known of what a lookup finds. -/
theorem IfSome.any (o : Option α) : IfSome (fun _ => True) o := fun _ _ => trivial

theorem IfSome.ite {c : Prop} [Decidable c] {o o' : Option α} (h : IfSome p o) (h' : IfSome p o') : IfSome p (if c then o else o') := by
  split
  · exact h
  · exact h'

theorem OkBoth.ite {r : ε → Prop} {c : Prop} [Decidable c] {x y : Except ε α} (h : OkBoth r p x) (h' : OkBoth r p y) :
    OkBoth r p (if c then x else y) := by
  split
  · exact h
  · exact h'

theorem NextOk.ite {c : Prop} [Decidable c] {o o' : Out} (h : NextOk o) (h' : NextOk o') : NextOk (if c then o else o') := by
  split
  · exact h
  · exact h'

theorem NextOk.next (h : t.memoryOk) : NextOk (.next t) := fun _ e => Host.Outcome.next.inj e ▸ h

/-! ## The operations of the state -/

theorem State.memoryOk.setCtl {x} (h : s.memoryOk) : (s.setCtl x).memoryOk := h
theorem State.memoryOk.setMsys {x} (h : s.memoryOk) : (s.setMsys x).memoryOk := h
theorem State.memoryOk.setNet {x} (h : s.memoryOk) : (s.setNet x).memoryOk := h
theorem State.memoryOk.setDies {x} (h : s.memoryOk) : (s.setDies x).memoryOk := h
theorem State.memoryOk.setClusters {x} (h : s.memoryOk) : (s.setClusters x).memoryOk := h
theorem State.memoryOk.setLaunches {x} (h : s.memoryOk) : (s.setLaunches x).memoryOk := h
theorem State.memoryOk.setTeams {x} (h : s.memoryOk) : (s.setTeams x).memoryOk := h
theorem State.memoryOk.setGroups {x} (h : s.memoryOk) : (s.setGroups x).memoryOk := h
theorem State.memoryOk.setOuts {x} (h : s.memoryOk) : (s.setOuts x).memoryOk := h
theorem State.memoryOk.setGangs {x} (h : s.memoryOk) : (s.setGangs x).memoryOk := h
theorem State.memoryOk.setFrames {x} (h : s.memoryOk) : (s.setFrames x).memoryOk := h
theorem State.memoryOk.setHost {x} (h : s.memoryOk) : (s.setHost x).memoryOk := h
theorem State.memoryOk.setEvents {x} (h : s.memoryOk) : (s.setEvents x).memoryOk := h
theorem State.memoryOk.putGroup {x} (h : s.memoryOk) : (s.putGroup x).memoryOk := h
theorem State.memoryOk.addGroup {x} (h : s.memoryOk) : (s.addGroup x).memoryOk := h
theorem State.memoryOk.putTeam {x} (h : s.memoryOk) : (s.putTeam x).memoryOk := h
theorem State.memoryOk.addTeam {x} (h : s.memoryOk) : (s.addTeam x).memoryOk := h
theorem State.memoryOk.putLaunch {x} (h : s.memoryOk) : (s.putLaunch x).memoryOk := h
theorem State.memoryOk.addLaunch {x} (h : s.memoryOk) : (s.addLaunch x).memoryOk := h
theorem State.memoryOk.putCtx {x} (h : s.memoryOk) : (s.putCtx x).memoryOk := h
theorem State.memoryOk.addCtx {x} (h : s.memoryOk) : (s.addCtx x).memoryOk := h
theorem State.memoryOk.putQueue {x} (h : s.memoryOk) : (s.putQueue x).memoryOk := h
theorem State.memoryOk.addQueue {x} (h : s.memoryOk) : (s.addQueue x).memoryOk := h
theorem State.memoryOk.putOut {x} (h : s.memoryOk) : (s.putOut x).memoryOk := h
theorem State.memoryOk.addOut {x} (h : s.memoryOk) : (s.addOut x).memoryOk := h
theorem State.memoryOk.putGang {x} (h : s.memoryOk) : (s.putGang x).memoryOk := h
theorem State.memoryOk.addGang {x} (h : s.memoryOk) : (s.addGang x).memoryOk := h
theorem State.memoryOk.putFrame {x} (h : s.memoryOk) : (s.putFrame x).memoryOk := h
theorem State.memoryOk.addFrame {x} (h : s.memoryOk) : (s.addFrame x).memoryOk := h
theorem State.memoryOk.dropLaunch {x} (h : s.memoryOk) : (s.dropLaunch x).memoryOk := h
theorem State.memoryOk.dropCtx {x} (h : s.memoryOk) : (s.dropCtx x).memoryOk := h
theorem State.memoryOk.dropQueue {x} (h : s.memoryOk) : (s.dropQueue x).memoryOk := h
theorem State.memoryOk.dropOut {x} (h : s.memoryOk) : (s.dropOut x).memoryOk := h
theorem State.memoryOk.dropGang {x} (h : s.memoryOk) : (s.dropGang x).memoryOk := h
theorem State.memoryOk.dropFrame {x} (h : s.memoryOk) : (s.dropFrame x).memoryOk := h
theorem State.memoryOk.modDie {x f} (h : s.memoryOk) : (s.modDie x f).memoryOk := h
theorem State.memoryOk.modCluster {x f} (h : s.memoryOk) : (s.modCluster x f).memoryOk := h
theorem State.memoryOk.modCore {x f} (h : s.memoryOk) : (s.modCore x f).memoryOk := h
theorem State.memoryOk.tick (h : s.memoryOk) : s.tick.memoryOk := h
theorem State.memoryOk.fresh (h : s.memoryOk) : s.fresh.2.memoryOk := h
theorem State.memoryOk.choose (h : s.memoryOk) : s.choose.2.memoryOk := h

theorem State.memoryOk.writeHome {pa bs} (h : s.memoryOk) : (s.writeHome pa bs).memoryOk := ⟨wf_write bs pa h.1, h.2⟩

theorem State.memoryOk.putPad {p} (h : s.memoryOk) (hp : p.bytes.wf = true) : (s.putPad p).memoryOk := by
  refine ⟨h.1, fun q hq => ?_⟩
  obtain ⟨y, hy, rfl⟩ := List.mem_map.1 hq
  split
  · exact hp
  · exact h.2 y hy

theorem State.memoryOk.addPad {p} (h : s.memoryOk) (hp : p.bytes.wf = true) : (s.addPad p).memoryOk := by
  refine ⟨h.1, fun q hq => ?_⟩
  rcases List.mem_append.1 hq with hq | hq
  · exact h.2 q hq
  · exact List.mem_singleton.1 hq ▸ hp

theorem State.memoryOk.filterPads {p} (h : s.memoryOk) : (s.setPads (s.pads.filter p)).memoryOk :=
  ⟨h.1, fun q hq => h.2 q (List.mem_of_mem_filter hq)⟩

theorem State.memoryOk.dropPad {k} (h : s.memoryOk) : (s.dropPad k).memoryOk := h.filterPads

theorem State.memoryOk.writePad {pid off bs} (h : s.memoryOk) : (s.writePad pid off bs).memoryOk := by
  unfold State.writePad
  split
  case h_1 p e => exact (h.putPad (wf_write bs off (h.2 p (List.mem_of_find?_eq_some e)))).setMsys
  case h_2 => exact h

theorem State.memoryOk.overBits {f : State → Bit → List Byte → State} {bs : List Bit} {v : List Byte} (h : s.memoryOk)
    (hf : ∀ t b v, t.memoryOk → (f t b v).memoryOk) : (overBits f s bs v).memoryOk := by
  induction bs generalizing s v with
  | nil => exact h
  | cons b bs ih => exact ih (hf s b v h)

theorem State.memoryOk.reapPads (h : s.memoryOk) : s.reapPads.memoryOk := h.filterPads

end Sys2Proof.Machine
end

/-! # Canonical memory: accesses and issue (R203, R214)

What memory's lines, the checks of every instruction and the plain accesses leave. -/

section
namespace Sys2Proof.Machine

variable {s : State}

/-! ## Homes, lines, caches, translations (R203, R214) -/

theorem State.memoryOk.touchHome {unit pa} (h : s.memoryOk) : (s.touchHome unit pa).memoryOk := .ite h (.ite h h.setMsys)
theorem State.memoryOk.touchRange {unit a n} (h : s.memoryOk) : (s.touchRange unit a n).memoryOk :=
  .ite h (h.foldl (fun _ _ h' => h'.touchHome) _)
theorem State.memoryOk.writeBack {l} (h : s.memoryOk) : (s.writeBack l).memoryOk :=
  .ite h (h.touchHome.foldl (fun _ _ h' => h'.writeHome) _)
theorem State.memoryOk.cleanLines {p} (h : s.memoryOk) : (s.cleanLines p).memoryOk := (h.foldl (fun _ _ h' => h'.writeBack) _).setMsys
theorem State.memoryOk.force {hit} (h : s.memoryOk) : (s.force hit).memoryOk := h.cleanLines.setMsys
theorem State.memoryOk.dropLines {p} (h : s.memoryOk) : (s.dropLines p).memoryOk := h.cleanLines.setMsys
theorem State.memoryOk.flushLine {core pline} (h : s.memoryOk) : (s.flushLine core pline).memoryOk := h.cleanLines

theorem State.memoryOk.l2Access {slice pa cls ctx} (h : s.memoryOk) : (s.l2Access slice pa cls ctx).memoryOk := by
  unfold State.l2Access
  dsimp only
  refine .ite h.setMsys ?_
  split
  · exact h
  · exact h.setMsys

theorem State.memoryOk.request {unit pa cls ctx guest} (h : s.memoryOk) : (s.request unit pa cls ctx guest).memoryOk :=
  .ite h (.ite (.ite h.touchHome.l2Access.l2Access h.touchHome.l2Access.l2Access.setMsys) h.touchHome.l2Access)
theorem State.memoryOk.walkHomes {ag va} (h : s.memoryOk) : (s.walkHomes ag va).memoryOk := h.foldl (fun _ _ h' => h'.force.request) _
theorem State.memoryOk.install {ag t va} (h : s.memoryOk) : (s.install ag t va).memoryOk := .ite h h.walkHomes.setMsys

theorem State.memoryOk.walkVa {ag ok va} (h : s.memoryOk) : (s.walkVa ag ok va).memoryOk := by
  unfold State.walkVa
  split
  · exact .ite h.install h.walkHomes
  · exact h
  · exact .ite h h.walkHomes

theorem State.memoryOk.tryPieces {ag acc ps} (h : s.memoryOk) : (s.tryPieces ag acc ps).memoryOk := by
  unfold State.tryPieces
  refine h.foldl (fun _ _ h' => ?_) _
  split
  · exact h'.walkVa
  · exact h'

theorem State.memoryOk.evictLine {old} (h : s.memoryOk) : (s.evictLine old).memoryOk := h.dropLines.modCore
theorem State.memoryOk.dropAlias {ag t va} (h : s.memoryOk) : (s.dropAlias ag t va).memoryOk := h.dropLines

theorem State.memoryOk.fillL1 {ag t va} (h : s.memoryOk) : (s.fillL1 ag t va).memoryOk := by
  unfold State.fillL1
  refine .setMsys ?_
  split
  · exact .ite h h.evictLine
  · exact h

theorem State.memoryOk.bringLine {ag t va load} (h : s.memoryOk) : (s.bringLine ag t va load).memoryOk := by
  unfold State.bringLine
  dsimp only
  refine .ite h.setMsys ?_
  split
  · refine .request (.dropAlias ?_)
    split
    · exact .ite h.modCore h
    · exact .ite h.install.modCore h.install
  · refine .fillL1 (.request (.dropAlias ?_))
    split
    · exact .ite h.modCore h
    · exact .ite h.install.modCore h.install

theorem State.memoryOk.storeByte {ag kind pa b} (h : s.memoryOk) : (s.storeByte ag kind pa b).memoryOk := .ite h.writeHome h.setMsys
theorem State.memoryOk.acquireLine {core scope line} (h : s.memoryOk) : (s.acquireLine core scope line).memoryOk := .ite h h.force
theorem State.memoryOk.acquireOutside {least line} (h : s.memoryOk) : (s.acquireOutside least line).memoryOk := h.force

theorem State.memoryOk.recordRelease {core asid scope line} (h : s.memoryOk) : (s.recordRelease core asid scope line).memoryOk := by
  unfold State.recordRelease
  refine .ite h (.setMsys ?_)
  split
  · exact .ite h h.force
  · exact h

theorem State.memoryOk.bringBit {ag load b} (h : s.memoryOk) : (s.bringBit ag load b).memoryOk := by
  unfold State.bringBit
  split
  · exact h
  · exact .ite h.tick h.bringLine

theorem State.memoryOk.storeBit {ag b bs} (h : s.memoryOk) : (s.storeBit ag b bs).memoryOk := by
  unfold State.storeBit
  split
  · exact h.writePad
  · exact .ite h (h.foldl (fun _ _ h' => h'.storeByte) _)

theorem State.memoryOk.flushBit {core b} (h : s.memoryOk) : (s.flushBit core b).memoryOk := h.cleanLines
theorem State.memoryOk.requestBit {ag guest b} (h : s.memoryOk) : (s.requestBit ag guest b).memoryOk := h.foldl (fun _ _ h' => h'.request) _

theorem State.memoryOk.homeBit {ag b bs} (h : s.memoryOk) : (s.homeBit ag b bs).memoryOk := by
  unfold State.homeBit
  split
  · exact h.writePad
  · exact .ite h h.flushBit.requestBit.writeHome

theorem State.memoryOk.storeBits {ag bs v} (h : s.memoryOk) : (s.storeBits ag bs v).memoryOk := h.overBits fun _ _ _ h' => h'.storeBit
theorem State.memoryOk.homeBits {ag bs v} (h : s.memoryOk) : (s.homeBits ag bs v).memoryOk := h.overBits fun _ _ _ h' => h'.homeBit

theorem State.memoryOk.engineRead {ag b} (h : s.memoryOk) : (s.engineRead ag b).1.memoryOk := by
  unfold State.engineRead
  dsimp only
  split
  · exact h
  · split
    · exact .tick (.ite h.install h)
    · exact .requestBit (.flushBit (.ite h.install h))

theorem State.memoryOk.engineReads {ag xs} (h : s.memoryOk) : (s.engineReads ag xs).1.memoryOk := by
  induction xs generalizing s with
  | nil => exact h
  | cons _ _ ih => exact ih h.engineRead

theorem State.memoryOk.engineWrite {ag b v} (h : s.memoryOk) : (s.engineWrite ag b v).memoryOk := by
  unfold State.engineWrite
  split
  · exact h.writePad
  · exact .homeBit (.ite h.install h)

theorem State.memoryOk.engineWrites {ag bs v} (h : s.memoryOk) : (s.engineWrites ag bs v).memoryOk :=
  h.overBits fun _ _ _ h' => h'.engineWrite
theorem State.memoryOk.tryVa {ag acc a} (h : s.memoryOk) : (s.tryVa ag acc a).memoryOk := .ite h.tryPieces h

/-! ## Traps, parking, events, stacks -/

theorem State.memoryOk.touchWord {g a} (h : s.memoryOk) : (s.touchWord g a).memoryOk := by
  unfold State.touchWord
  dsimp only
  split
  · exact h.tryPieces.touchHome
  · exact h.tryPieces

theorem State.memoryOk.postEvent {die kind ctx a b} (h : s.memoryOk) : (s.postEvent die kind ctx a b).memoryOk := h.modDie
theorem State.memoryOk.putStopping {g} (h : s.memoryOk) : (s.putStopping g).memoryOk := h.putGroup
theorem State.memoryOk.wake {die} (h : s.memoryOk) : (s.wake die).memoryOk := .ite h.setGroups h.modDie
theorem State.memoryOk.trapFirmware {f t} (h : s.memoryOk) : (s.trapFirmware f t).memoryOk := h.modDie.putGroup

theorem State.memoryOk.parkTrapped {g rec_ slot} (h : s.memoryOk) : (s.parkTrapped g rec_ slot).memoryOk := by
  unfold State.parkTrapped
  refine .wake (.modDie ?_)
  split
  · exact h.putStopping.touchRange.writeHome
  · exact h.putStopping

theorem State.memoryOk.takeTrap {f mask t} (h : s.memoryOk) : (s.takeTrap f mask t).memoryOk := .ite h.trapFirmware h.parkTrapped

theorem State.memoryOk.trapLate {g slot pc aux addr lanes} (h : s.memoryOk) : (s.trapLate g slot pc aux addr lanes).memoryOk := by
  unfold State.trapLate
  dsimp only
  refine .ite ?_ h.parkTrapped
  split
  · exact h.trapFirmware
  · exact h

theorem State.memoryOk.returnFirmware {f} (h : s.memoryOk) : (s.returnFirmware f).memoryOk := h.putGroup

theorem State.memoryOk.goOn {f m ext} (h : s.memoryOk) : (s.goOn f m ext).memoryOk := by
  unfold State.goOn
  split
  · exact h
  · split
    · exact h
    · exact h.putGroup

theorem State.memoryOk.park {f p} (h : s.memoryOk) : (s.park f p).memoryOk := by
  unfold State.park
  split
  · exact h
  · split
    · exact h
    · exact h.putStopping

theorem State.memoryOk.stackRequests {g a n} (h : s.memoryOk) : (s.stackRequests g a n).memoryOk := h.foldl (fun _ _ h' => h'.request) _

theorem State.memoryOk.stackRead {g} (h : s.memoryOk) : (s.stackRead g).memoryOk := by
  unfold State.stackRead
  split
  · exact h.stackRequests
  · exact h

theorem State.memoryOk.putDiverged {g} (h : s.memoryOk) : (s.putDiverged g).memoryOk := by
  unfold State.putDiverged
  dsimp only
  split
  · exact .ite h.putGroup h.putGroup.stackRequests.writeHome
  · exact h.putGroup

theorem State.memoryOk.countEvents {ctxid unit fmt counts} (h : s.memoryOk) : (s.countEvents ctxid unit fmt counts).memoryOk := by
  unfold State.countEvents
  refine h.foldl (fun _ _ h' => ?_) _
  split
  · exact h'
  · exact .ite h' (.ite h'.putCtx.touchHome.writeHome.postEvent h'.putCtx.touchHome.writeHome)

/-! ## Results, predicates, flags, and the checks of every instruction -/

theorem State.memoryOk.result {f d n vals active} (h : s.memoryOk) : (s.result f d n vals active).memoryOk := by
  unfold State.result
  split
  · exact h.putGroup
  · exact h

theorem State.memoryOk.resultLater {f d n vals active left kind} (h : s.memoryOk) :
    (s.resultLater f d n vals active left kind).memoryOk := by
  unfold State.resultLater
  dsimp only
  split
  · exact h.fresh.putGroup.addOut
  · exact h.fresh

theorem State.memoryOk.setPredicate {f k active v} (h : s.memoryOk) : (s.setPredicate f k active v).memoryOk := by
  unfold State.setPredicate
  split
  · exact h.putGroup
  · exact h

theorem State.memoryOk.countFp {f fmt evs active} (h : s.memoryOk) : (s.countFp f fmt evs active).memoryOk := .ite h h.countEvents

theorem State.memoryOk.trapArith {f mask fmt evs lanes} (h : s.memoryOk) : (s.trapArith f mask fmt evs lanes).memoryOk := by
  unfold State.trapArith
  split
  · exact h.takeTrap
  · exact h

theorem State.memoryOk.withEventsIn {f mask fmt evs counted active} {k : State → State} (h : s.memoryOk)
    (hk : ∀ t, t.memoryOk → (k t).memoryOk) :
    (s.withEventsIn f mask fmt evs counted active k).memoryOk := by
  unfold State.withEventsIn
  dsimp only
  split
  · exact hk _ h
  · split
    · exact h.countFp.trapArith
    · exact hk _ h.countFp

theorem State.memoryOk.withEventsLate {f mask fmt evs active} {k : List Nat → State → State} (h : s.memoryOk)
    (hk : ∀ e t, t.memoryOk → (k e t).memoryOk) :
    (s.withEventsLate f mask fmt evs active k).memoryOk := by
  unfold State.withEventsLate
  split
  · exact hk _ _ h
  · split
    · exact h.countFp.trapArith
    · exact hk _ _ h

theorem State.memoryOk.withEvents {f mask fmt evs active} {k : State → State} (h : s.memoryOk)
    (hk : ∀ t, t.memoryOk → (k t).memoryOk) :
    (s.withEvents f mask fmt evs active k).memoryOk := h.withEventsIn hk

theorem nextOk_issue {i m n ext} {body : Frag → Out} (h : s.memoryOk) (hb : ∀ f, NextOk (body f)) :
    NextOk (issue s i m n body ext) := by
  unfold issue
  split
  · exact .next h
  · split
    · exact .next h
    · exact .next h.takeTrap
    · exact hb _

theorem nextOk_trapOut {f m t} (h : s.memoryOk) : NextOk (trapOut s f m t) := .next h.takeTrap
theorem nextOk_laneOp {i m n d w v} (h : s.memoryOk) : NextOk (laneOp s i m n d w v) := nextOk_issue h fun _ => .next h.result.goOn
theorem nextOk_laneEventOp {i m n d w fmt v} (h : s.memoryOk) : NextOk (laneEventOp s i m n d w fmt v) :=
  nextOk_issue h (fun _ => .next (h.withEvents (fun _ h' => h'.result.goOn)))
theorem nextOk_laneLateOp {i m n d w fmt v} (h : s.memoryOk) : NextOk (laneLateOp s i m n d w fmt v) :=
  nextOk_issue h (fun _ => .next (h.withEvents (fun _ h' => h'.resultLater.goOn)))
theorem nextOk_predOp {i m n k v} (h : s.memoryOk) : NextOk (predOp s i m n k v) := nextOk_issue h fun _ => .next h.setPredicate.goOn
theorem nextOk_compareOp {i m n k v} (h : s.memoryOk) : NextOk (compareOp s i m n k v) :=
  nextOk_issue h (fun _ => .next (h.withEvents (fun _ h' => h'.setPredicate.goOn)))

/-! ## Loads, stores, fences -/

theorem State.memoryOk.tryLanes {g acc code xs} (h : s.memoryOk) : (s.tryLanes g acc code xs).memoryOk :=
  .ite (h.foldl (fun _ _ h' => h'.tryPieces) _) h
theorem nextOk_trapLanes {f m acc xs t} (h : s.memoryOk) : NextOk (trapLanes s f m acc xs t) := nextOk_trapOut h.tryLanes

theorem State.memoryOk.writerVals {f vals} (h : s.memoryOk) : (s.writerVals f vals).1.memoryOk := by
  unfold State.writerVals
  split
  · exact h
  · exact h.tick

theorem State.memoryOk.noteRead {g lines} (h : s.memoryOk) : (s.noteRead g lines).memoryOk := by
  unfold State.noteRead
  split
  · exact h.putGroup
  · exact h

theorem State.memoryOk.noteWaiting {g slot} (h : s.memoryOk) : (s.noteWaiting g slot).memoryOk := by
  unfold State.noteWaiting
  split
  · exact h.putGroup
  · exact h

theorem State.memoryOk.noteWrite {g lines} (h : s.memoryOk) : (s.noteWrite g lines).memoryOk := by
  unfold State.noteWrite
  dsimp only
  split
  · exact h
  · refine .ite h ?_
    split
    · exact (h.foldl (fun _ _ h' => h'.recordRelease) _).putGroup
    · exact h.foldl (fun _ _ h' => h'.recordRelease) _

theorem State.memoryOk.performLoads {g size xs} (h : s.memoryOk) : (s.performLoads g size xs).1.memoryOk :=
  h.foldl (fun _ _ h' => h'.foldl (fun _ _ h' => h'.bringBit) _) _

theorem nextOk_loadOut {f m d size align acq addr} (h : s.memoryOk) : NextOk (loadOut s f m d size align acq addr) := by
  unfold loadOut
  dsimp only
  split
  · exact nextOk_trapLanes h
  · refine .ite (.next h) ?_
    split
    · split
      · refine .next (.goOn (.resultLater (h.choose.noteRead.foldl (fun _ _ h' => ?_) _)))
        split
        · exact h'.install
        · exact h'
      · refine .next (.goOn (.resultLater (.performLoads ?_)))
        split
        · exact h.choose.noteRead.foldl (fun _ _ h' => h'.acquireLine) _
        · exact h.choose.noteRead
    · split
      · refine .next (.goOn (.resultLater (h.noteRead.foldl (fun _ _ h' => ?_) _)))
        split
        · exact h'.install
        · exact h'
      · refine .next (.goOn (.resultLater (.performLoads ?_)))
        split
        · exact h.noteRead.foldl (fun _ _ h' => h'.acquireLine) _
        · exact h.noteRead

theorem nextOk_loadOp {i m d a off size} (h : s.memoryOk) : NextOk (loadOp s i m d a off size) := nextOk_issue h fun _ => nextOk_loadOut h
theorem State.memoryOk.performStores {g n data xs} (h : s.memoryOk) : (s.performStores g n data xs).memoryOk :=
  h.foldl (fun _ _ h' => (h'.foldl (fun _ _ h' => h'.bringBit) _).storeBits) _

theorem nextOk_storeOp {i m d a off size} (h : s.memoryOk) : NextOk (storeOp s i m d a off size) := by
  unfold storeOp
  refine nextOk_issue h fun _ => ?_
  dsimp only
  split
  · exact nextOk_trapLanes h
  · exact .ite (.next h) (.next h.performStores.noteWrite.goOn)

theorem nextOk_execStrel {m d a b x} (h : s.memoryOk) : NextOk (execStrel m d a b x s) := by
  unfold execStrel
  refine nextOk_issue h fun _ => ?_
  dsimp only
  split
  · exact nextOk_trapLanes h
  · split
    · exact .next h
    · refine .next (State.memoryOk.goOn (State.memoryOk.noteWrite (State.memoryOk.foldl ?_ (fun _ _ h' => h'.recordRelease) _)))
      exact h.foldl (fun _ _ h' => (h'.foldl (fun _ _ h' => h'.bringBit) _).homeBits) _

theorem State.memoryOk.fence {g scope kind} (h : s.memoryOk) : (s.fence g scope kind).memoryOk := by
  unfold State.fence
  refine .ite (.ite (.foldl (.ite h.cleanLines h) (fun _ _ h' => h'.acquireLine) _) (.ite h.cleanLines h)) ?_
  split
  · exact .putGroup (.ite (.foldl (.ite h.cleanLines h) (fun _ _ h' => h'.acquireLine) _) (.ite h.cleanLines h))
  · exact .ite (.foldl (.ite h.cleanLines h) (fun _ _ h' => h'.acquireLine) _) (.ite h.cleanLines h)

theorem nextOk_execFence {m b x} (h : s.memoryOk) : NextOk (execFence m b x s) :=
  nextOk_issue h (fun _ => (.ite (.next h) (.next h.fence.goOn)))

theorem nextOk_execAcvt {m d a x} (h : s.memoryOk) : NextOk (execAcvt m d a x s) := by
  unfold execAcvt
  refine nextOk_issue h fun _ => ?_
  dsimp only
  split
  · exact nextOk_trapOut h
  · exact .next h.resultLater.goOn

/-! ## The scratchpad, barriers, rings -/

theorem State.memoryOk.localAtomic {g n new bs} (h : s.memoryOk) : (s.localAtomic g n new bs).1.memoryOk := h.storeBits

theorem State.memoryOk.localAtomics {g n new xs} (h : s.memoryOk) : (s.localAtomics g n new xs).1.memoryOk := by
  induction xs generalizing s with
  | nil => exact h
  | cons _ _ ih => exact ih h.localAtomic

theorem nextOk_localOut {f m d a w new} (h : s.memoryOk) : NextOk (localOut s f m d a w new) := by
  unfold localOut
  dsimp only
  split
  · exact nextOk_trapOut h
  · exact .ite (.next h) (.next h.localAtomics.noteRead.noteWrite.writerVals.resultLater.goOn)

theorem nextOk_localOp {i m d a b op w} (h : s.memoryOk) : NextOk (localOp s i m d a b op w) := nextOk_issue h fun _ => nextOk_localOut h

theorem State.memoryOk.putBarrier {tid n b} (h : s.memoryOk) : (s.putBarrier tid n b).memoryOk := by
  unfold State.putBarrier
  split
  · exact h
  · exact .ite h.putTeam.setGroups h.putTeam

theorem nextOk_execBari {m a i} (h : s.memoryOk) : NextOk (execBari m a i s) := by
  unfold execBari
  refine nextOk_issue h fun _ => ?_
  split
  · exact .ite (nextOk_trapOut h) (.next h.putBarrier.goOn)
  · exact .next h

theorem nextOk_execBara {m i} (h : s.memoryOk) : NextOk (execBara m i s) := by
  unfold execBara
  refine nextOk_issue h fun _ => ?_
  split
  · exact .ite (nextOk_trapOut h) (.ite (.next h) (.next h.putBarrier.goOn))
  · exact .next h

theorem nextOk_execBarw {m i} (h : s.memoryOk) : NextOk (execBarw m i s) := by
  unfold execBarw
  refine nextOk_issue h fun _ => ?_
  split
  · exact .ite (nextOk_trapOut h) (.ite (.next h) (.ite (.next h.putBarrier.goOn) (.next h.putBarrier.park)))
  · exact .next h

theorem nextOk_execBarx {m a i} (h : s.memoryOk) : NextOk (execBarx m a i s) := by
  unfold execBarx
  refine nextOk_issue h fun _ => ?_
  split
  · exact .ite (nextOk_trapOut h) (.ite (nextOk_trapOut h) (.next h.putBarrier.goOn))
  · exact .next h

theorem State.memoryOk.deliverBarrier {tid n bytes} (h : s.memoryOk) : IfSome State.memoryOk (s.deliverBarrier tid n bytes) := by
  unfold State.deliverBarrier
  split
  · exact .none
  · exact .ite .none (.some h.putBarrier)

theorem State.memoryOk.putRing {tid q r} (h : s.memoryOk) : (s.putRing tid q r).memoryOk := by
  unfold State.putRing
  split
  · exact h.putTeam
  · exact h

theorem nextOk_execSrpost {m a q} (h : s.memoryOk) : NextOk (execSrpost m a q s) := by
  unfold execSrpost
  refine nextOk_issue h fun _ => ?_
  split
  · exact .ite (.next h) (.ite (.next h.park) (.ite (.next h) (.next h.putRing.goOn)))
  · exact .next h

theorem nextOk_execSrtake {m d q} (h : s.memoryOk) : NextOk (execSrtake m d q s) := by
  unfold execSrtake
  refine nextOk_issue h fun _ => ?_
  split
  · exact .ite (.next h) (.ite (.next h.park) (.next h.putRing.resultLater.goOn))
  · exact .next h

theorem nextOk_execSrwait {m q} (h : s.memoryOk) : NextOk (execSrwait m q s) := by
  unfold execSrwait
  refine nextOk_issue h fun _ => ?_
  split
  · exact .ite (.next h) (.ite (.next h.putRing.goOn) (.next h.park))
  · exact .next h

/-! ## Waits -/

theorem State.memoryOk.waitRead {g w xs} (h : s.memoryOk) : (s.waitRead g w xs).1.memoryOk :=
  h.foldl (fun _ _ h' => h'.foldl (fun _ _ h' => h'.bringBit) _) _
theorem State.memoryOk.dropMonitors {p} (h : s.memoryOk) : (s.dropMonitors p).memoryOk := h.setMsys
theorem State.memoryOk.addMonitors {ms} (h : s.memoryOk) : (s.addMonitors ms).memoryOk := h.foldl (fun _ _ h' => (.ite h' h'.setMsys)) _

theorem nextOk_execWaitc {m a b c} (h : s.memoryOk) : NextOk (execWaitc m a b c s) := by
  unfold execWaitc
  refine nextOk_issue h fun _ => ?_
  dsimp only
  split
  · exact nextOk_trapLanes h
  · split
    · exact .next h
    · exact .ite (.next h.noteRead.waitRead.goOn) (.next h.noteRead.waitRead.noteWaiting.addMonitors.park)

theorem State.memoryOk.waitAgain {gid slot} (h : s.memoryOk) : (s.waitAgain gid slot).memoryOk := by
  unfold State.waitAgain
  dsimp only
  split
  · exact h
  · split
    · exact h
    · split
      · refine .ite h ?_
        split
        · exact h.dropMonitors.tryLanes.takeTrap
        · split
          · exact h.dropMonitors.waitRead
          · exact .ite h.dropMonitors.waitRead.putGroup h.dropMonitors.waitRead.addMonitors.putGroup
      · exact h

theorem nextOk_execTlwait {m a b x} (h : s.memoryOk) : NextOk (execTlwait m a b x s) := by
  unfold execTlwait
  refine nextOk_issue h fun _ => ?_
  dsimp only
  split
  · exact nextOk_trapOut h
  · exact .ite (nextOk_trapOut h) (.ite (.next h.goOn) (.next h.park))

theorem nextOk_execTlread {m d b x} (h : s.memoryOk) : NextOk (execTlread m d b x s) := by
  unfold execTlread
  refine nextOk_issue h fun _ => ?_
  dsimp only
  split
  · exact nextOk_trapOut h
  · exact .next h.resultLater.goOn

end Sys2Proof.Machine
end

/-! # Canonical memory: areas, engines and far memory (R203, R214)

What saves, system registers, control and the engines' turns leave, and what the network performs at a home. -/

section
namespace Sys2Proof.Machine

variable {s : State}

/-! ## The save area and the tile owners -/

theorem State.memoryOk.setField {a n v} (h : s.memoryOk) : (s.setField a n v).memoryOk := h.touchRange.writeHome
theorem State.memoryOk.writeHeader {c} (h : s.memoryOk) : (s.writeHeader c).memoryOk := h.touchRange.writeHome.writeHome.writeHome.setField
theorem State.memoryOk.initSaveArea {c} (h : s.memoryOk) : (s.initSaveArea c).memoryOk :=
  (h.touchRange.writeHome.writeHome.foldl (fun _ _ h' => h'.setField) _).writeHeader
theorem State.memoryOk.writeRecHead {c off len x y z ng} (h : s.memoryOk) : (s.writeRecHead c off len x y z ng).memoryOk :=
  h.touchRange.writeHome

theorem State.memoryOk.allocRecord {c len x y z ng} (h : s.memoryOk) : IfSome (·.2.memoryOk) (s.allocRecord c len x y z ng) := by
  unfold State.allocRecord
  dsimp only
  split
  · exact .ite (.some h.writeRecHead.writeRecHead.setField) (.some h.writeRecHead)
  · exact .ite (.some h.writeRecHead.setField) .none

theorem State.memoryOk.freeRecord {c off len} (h : s.memoryOk) : (s.freeRecord c off len).memoryOk := h.writeRecHead
theorem State.memoryOk.writeOwners {c os} (h : s.memoryOk) : (s.writeOwners c os).memoryOk := h.touchRange.writeHome.setField
theorem State.memoryOk.putOwner {c r} (h : s.memoryOk) : (s.putOwner c r).memoryOk := h.writeOwners
theorem State.memoryOk.dropOwner {c cl t} (h : s.memoryOk) : (s.dropOwner c cl t).memoryOk := h.writeOwners
theorem State.memoryOk.spillTile {c cl t tile} (h : s.memoryOk) : IfSome State.memoryOk (s.spillTile c cl t tile) :=
  .map (.any _) fun _ _ => h.touchRange.writeHome.putOwner

theorem State.memoryOk.unspillTile {c cl t tile} (h : s.memoryOk) : (s.unspillTile c cl t tile).2.memoryOk := by
  unfold State.unspillTile
  split
  · exact h.touchRange.setField.putOwner
  · exact h.putOwner

/-! ## System registers and cache operations -/

theorem State.memoryOk.modViewSet {fr f} (h : s.memoryOk) : (s.modViewSet fr f).memoryOk := h.modDie

theorem State.memoryOk.latchStrip {fr v k} (h : s.memoryOk) : (s.latchStrip fr v k).memoryOk := by
  unfold State.latchStrip
  split
  · exact h
  · exact .ite h h.modViewSet

theorem State.memoryOk.latchDue {fr} (h : s.memoryOk) : (s.latchDue fr).memoryOk :=
  h.foldl (fun _ _ h' => h'.foldl (fun _ _ h' => h'.latchStrip) _) _

theorem State.memoryOk.writeSysReg {g r v} (h : s.memoryOk) : (s.writeSysReg g r v).memoryOk := by
  have hc (f : Ctx → Ctx) : (match s.ctxOf g with | some c => s.putCtx (f c) | none => s).memoryOk := by
    split
    · exact h.putCtx
    · exact h
  have hv (f : ViewSet → ViewSet) : (match s.frameOf g with | some fr => (s.latchDue fr).modViewSet fr f | none => s).memoryOk := by
    split
    · exact h.latchDue.modViewSet
    · exact h
  have ha (off n v : Nat) (t : State) (ht : t.memoryOk) : (match s.ctxOf g with
      | some c => (t.touchRange (coreCluster g.core) (c.save + off) n).writeHome (c.save + off) (bytesOf v n)
      | none => t).memoryOk := by
    split
    · exact ht.touchRange.writeHome
    · exact ht
  unfold State.writeSysReg
  exact .ite h.putGroup <| .ite h.putGroup <| .ite (ha _ _ _ _ (hc _)) <| .ite (ha _ _ _ _ (hc _)) <| .ite (hv _) <| .ite (hv _) <|
    .ite (hv _) <| .ite h.modDie <| .ite h.modDie <| .ite h.modDie <| .ite h.modDie h

theorem nextOk_execEret {m} (h : s.memoryOk) : NextOk (execEret m s) := by
  unfold execEret
  refine nextOk_issue h fun _ => ?_
  exact .ite (.next h.returnFirmware) (nextOk_trapOut h)

theorem nextOk_execHalt {m} (h : s.memoryOk) : NextOk (execHalt m s) := by
  unfold execHalt
  refine nextOk_issue h fun _ => ?_
  exact .ite (.next h.modDie.goOn) (.next h.park)

theorem State.memoryOk.mapLane {f a l} (h : s.memoryOk) : (s.mapLane f a l).memoryOk := .ite h.walkVa h

theorem State.memoryOk.cacheOp {core scope span inv pa} (h : s.memoryOk) : (s.cacheOp core scope span inv pa).memoryOk := by
  unfold State.cacheOp
  dsimp only
  split
  · exact .setMsys (.ite (.setMsys (.ite h.dropLines h.cleanLines)) (.ite h.dropLines h.cleanLines))
  · exact .ite (.setMsys (.ite h.dropLines h.cleanLines)) (.ite h.dropLines h.cleanLines)

theorem nextOk_cacheOpOut {f m a scope span inv} (h : s.memoryOk) : NextOk (cacheOpOut s f m a scope span inv) :=
  .next ((h.foldl (fun _ _ h' => h'.mapLane) _).foldl (fun _ _ h' => h'.cacheOp) _).goOn
theorem State.memoryOk.releaseRegion {region} (h : s.memoryOk) : (s.releaseRegion region).memoryOk := h.force.setMsys

theorem nextOk_execRgrel {m a} (h : s.memoryOk) : NextOk (execRgrel m a s) := by
  unfold execRgrel
  refine nextOk_issue h fun _ => ?_
  refine .ite (nextOk_trapOut h) ?_
  split
  · exact nextOk_trapOut h.mapLane
  · exact .ite (.next h.mapLane.releaseRegion.goOn) (.next h.mapLane.goOn)

/-! ## Accesses by address, ends of groups -/

theorem State.memoryOk.engineError {die ctx a engine} (h : s.memoryOk) : (s.engineError die ctx a engine).memoryOk := h.postEvent

theorem State.memoryOk.peekVa {ag a n} (h : s.memoryOk) : IfOk (·.1.memoryOk) (s.peekVa ag a n) := by
  unfold State.peekVa
  split
  · exact .error _
  · exact .ok h.engineReads

theorem State.memoryOk.readVa {ag a n} (h : s.memoryOk) : (s.readVa ag a n).memoryOk := by
  unfold State.readVa
  split
  next e => exact h.peekVa _ e
  · exact h.tryVa

theorem State.memoryOk.pokeVa {ag a v} (h : s.memoryOk) : IfOk State.memoryOk (s.pokeVa ag a v) := by
  unfold State.pokeVa
  split
  · exact .error _
  · exact .ok h.engineWrites

theorem State.memoryOk.pokeOr {ag a v} (h : s.memoryOk) : (s.pokeOr ag a v).memoryOk := by
  unfold State.pokeOr
  split
  next e => exact h.pokeVa _ e
  · exact h.tryVa

theorem State.memoryOk.gangDone {g n} (h : s.memoryOk) : (s.gangDone g n).memoryOk := by
  unfold State.gangDone
  dsimp only
  split
  · exact h.setGroups.putGang
  · exact h.setGroups

theorem State.memoryOk.discardOps {g p} (h : s.memoryOk) : (s.discardOps g p).memoryOk := h.foldl (fun _ _ h' => h'.engineError.gangDone) _

theorem State.memoryOk.freeGang {gid} (h : s.memoryOk) : (s.freeGang gid).memoryOk := by
  unfold State.freeGang
  split
  · exact .ite h.dropGang h
  · exact h

theorem State.memoryOk.leaveGang {gid why} (h : s.memoryOk) : (s.leaveGang gid why).memoryOk := by
  unfold State.leaveGang
  split
  · exact h
  · split
    · exact h.putGroup
    · refine .freeGang ?_
      split
      · refine .putGroup ?_
        split
        · exact h.discardOps.putGang
        · exact h.discardOps
      · split
        · exact h.discardOps.putGang
        · exact h.discardOps

theorem State.memoryOk.leaveTask {g} (h : s.memoryOk) : (s.leaveTask g).memoryOk := by
  unfold State.leaveTask
  split
  · exact h
  · exact h.pokeOr.pokeOr.engineError

theorem State.memoryOk.endPart {g} (h : s.memoryOk) : (s.endPart g).memoryOk := by
  unfold State.endPart
  split
  · split
    · exact h.putFrame
    · exact h
  · split
    · exact h.putFrame
    · exact h
  · exact h

theorem State.memoryOk.exitTeam {tid} (h : s.memoryOk) : (s.exitTeam tid).memoryOk := by
  unfold State.exitTeam
  dsimp only
  split
  · exact h
  · split
    · refine .putLaunch ?_
      split
      · exact h.putTeam.freeRecord
      · exact h.putTeam
    · split
      · exact h.putTeam.freeRecord
      · exact h.putTeam

theorem State.memoryOk.endGroup {gid} (h : s.memoryOk) : (s.endGroup gid).memoryOk := by
  unfold State.endGroup
  dsimp only
  split
  · exact h
  · split
    · split
      · exact h.leaveTask.leaveGang.endPart.dropMonitors.putGroup.exitTeam
      · exact h.leaveTask.leaveGang.endPart.dropMonitors.putGroup
    · exact .ite h.leaveTask.leaveGang.endPart.dropMonitors.exitTeam h.leaveTask.leaveGang.endPart.dropMonitors

theorem State.memoryOk.exitLanes {f} (h : s.memoryOk) : (s.exitLanes f).memoryOk :=
  .ite h.stackRead.putDiverged.endGroup h.stackRead.putDiverged

/-! ## Control -/

theorem State.memoryOk.transfer {f m ext g sl} (h : s.memoryOk) : (s.transfer f m ext g sl).memoryOk := h.putDiverged
theorem State.memoryOk.jump {f m ext pc} (h : s.memoryOk) : (s.jump f m ext pc).memoryOk := h.transfer
theorem nextOk_jumpOut {f m ext pc} (h : s.memoryOk) : NextOk (jumpOut s f m ext pc) := .ite (.next h.jump) (.next h.takeTrap)
theorem State.memoryOk.diverge {f m ext g t target join} (h : s.memoryOk) : (s.diverge f m ext g t target join).memoryOk := h.transfer

theorem nextOk_branchOut {f m k n target g} (h : s.memoryOk) : NextOk (branchOut s f m k n target g) := by
  unfold branchOut
  dsimp only
  split
  · exact .next h.jump
  · exact .ite (.next h.takeTrap) (.ite (.next h.transfer) (.ite (nextOk_trapOut h) (.next h.diverge)))

theorem nextOk_execBrk {m n k i jw} (h : s.memoryOk) : NextOk (execBrk m n k i jw s) := by
  unfold execBrk
  refine nextOk_issue h fun _ => ?_
  exact .ite (.next h.takeTrap) (.ite (.next h.jump) (.ite (.next h.jump) (.ite (.next h.takeTrap) (.next h.diverge))))

theorem nextOk_execJoin {m} (h : s.memoryOk) : NextOk (execJoin m s) := by
  unfold execJoin
  refine nextOk_issue h fun _ => ?_
  dsimp only
  split
  · exact .ite (.next h.stackRead.jump) (.ite (.next h.transfer) (.next h.putDiverged))
  · exact .next h.jump

theorem nextOk_execCall {m n k i} (h : s.memoryOk) : NextOk (execCall m n k i s) := by
  unfold execCall
  refine nextOk_issue h fun _ => ?_
  exact .ite (nextOk_trapOut h) (nextOk_branchOut h)

/-! ## Engines in their turn -/

theorem State.memoryOk.engineArrive {die e ctx} (h : s.memoryOk) : (s.engineArrive die e ctx).memoryOk := h.modDie
theorem State.memoryOk.engineAccept {die e ctx ready waiting} (h : s.memoryOk) : (s.engineAccept die e ctx ready waiting).memoryOk :=
  h.modDie
theorem State.memoryOk.engineServe {die e ctx more} (h : s.memoryOk) : (s.engineServe die e ctx more).memoryOk := h.modDie
theorem State.memoryOk.engineChoose {die e waiting} (h : s.memoryOk) : (s.engineChoose die e waiting).memoryOk := h.modDie

/-! ## The network and far atomics -/

theorem State.memoryOk.installBit {ag b} (h : s.memoryOk) : (s.installBit ag b).memoryOk := by
  unfold State.installBit
  split
  · exact h.install
  · exact h

theorem State.memoryOk.enterNet {r} (h : s.memoryOk) : (s.enterNet r).memoryOk := h.setNet
theorem State.memoryOk.sendFar {ag gid slot lane pc op unsigned size b v c release m} (h : s.memoryOk) :
    (s.sendFar ag gid slot lane pc op unsigned size b v c release m).memoryOk :=
  h.fresh.installBit.cleanLines.touchHome.enterNet

theorem nextOk_farOut {f m d a op unsigned size w nr v c} (h : s.memoryOk) : NextOk (farOut s f m d a op unsigned size w nr v c) := by
  unfold farOut
  dsimp only
  split
  · exact nextOk_trapLanes h
  · split
    · exact .next h
    · refine .next ?_
      refine .goOn ?_
      split
      · refine .putGroup ?_
        split
        · refine h.writerVals.foldl (fun _ _ h' => ?_) _
          split
          · exact h'.sendFar
          · exact h'
        · refine .noteRead ?_
          refine h.writerVals.resultLater.foldl (fun _ _ h' => ?_) _
          split
          · exact h'.sendFar
          · exact h'
      · split
        · refine h.writerVals.foldl (fun _ _ h' => ?_) _
          split
          · exact h'.sendFar
          · exact h'
        · refine .noteRead ?_
          refine h.writerVals.resultLater.foldl (fun _ _ h' => ?_) _
          split
          · exact h'.sendFar
          · exact h'

theorem nextOk_farOpOut {i m d a b op nr unsigned z} (h : s.memoryOk) : NextOk (farOpOut s i m d a b op nr unsigned z) :=
  nextOk_issue h fun _ => nextOk_farOut h
theorem nextOk_farThirdOut {i m d a b c op w} (h : s.memoryOk) : NextOk (farThirdOut s i m d a b c op w) :=
  nextOk_issue h fun _ => nextOk_farOut h

theorem State.memoryOk.reply {m v} (h : s.memoryOk) : (s.reply m v).memoryOk := by
  unfold State.reply
  split
  · exact h
  · exact h.setEvents
  · split
    · exact h.putOut
    · exact h
  · split
    · exact h.modCluster
    · exact h
  · exact h.setNet

theorem State.memoryOk.replyLost {m va} (h : s.memoryOk) : (s.replyLost m va).memoryOk := by
  unfold State.replyLost
  split
  · split
    · exact h.modCluster
    · exact h
  · split
    · exact h.putOut
    · exact h
  · exact h

theorem State.memoryOk.performFar {r} (h : s.memoryOk) : (s.performFar r).memoryOk := by
  unfold State.performFar
  dsimp only
  refine .reply ?_
  refine .setNet ?_
  refine .foldl ?_ (fun _ _ h' => ?_) _
  · split
    · exact (h.foldl (fun _ _ h' => h'.flushLine) _).request.tick
    · exact (h.foldl (fun _ _ h' => h'.flushLine) _).request.writeHome
  · split
    · exact h'.recordRelease
    · exact h'

theorem State.memoryOk.faultFar {r} (h : s.memoryOk) : (s.faultFar r).memoryOk := h.setNet
theorem State.memoryOk.countTurn {r} (h : s.memoryOk) : (s.countTurn r).memoryOk := h.setNet

theorem nextOk_execFarAtomicPerform {rid} (h : s.memoryOk) : NextOk (execFarAtomicPerform rid s) := by
  unfold execFarAtomicPerform
  split
  · exact .ite (.next h) (.ite (.next h.countTurn.faultFar) (.next h.countTurn.performFar))
  · exact .next h

theorem nextOk_execRequestCombine {held entering} (h : s.memoryOk) : NextOk (execRequestCombine held entering s) := by
  unfold execRequestCombine
  split
  · split
    · exact .ite (.next h) (.next h.fresh.setNet)
    · exact .next h
  · exact .next h

theorem nextOk_execCombiningStageExit {rid} (h : s.memoryOk) : NextOk (execCombiningStageExit rid s) := by
  unfold execCombiningStageExit
  split
  · split
    · exact .ite (.next h) (.next h.countTurn.setNet)
    · exact .next h
  · exact .next h

theorem nextOk_execReplySplit {wid} (h : s.memoryOk) : NextOk (execReplySplit wid s) := by
  unfold execReplySplit
  split
  · split
    · exact .next h.setNet.reply.reply
    · exact .next h
  · exact .next h

end Sys2Proof.Machine
end

/-! # Canonical memory: queues, tasks and copies (R203, R214)

What the work of queues, tasks, copies and gangs leaves. Where work answers a state, or an error with the state
that it leaves, both are canonical. -/

section
namespace Sys2Proof.Machine

variable {s : State}

/-! ## Global queues and their Beaters -/

theorem State.memoryOk.relLine {ag rel a} (h : s.memoryOk) : (s.relLine ag rel a).memoryOk := by
  unfold State.relLine
  split
  · exact h.recordRelease
  · exact h

theorem State.memoryOk.reserve {ag desc enq} (h : s.memoryOk) : IfOk (·.1.memoryOk) (s.reserve ag desc enq) := by
  unfold State.reserve
  split
  · exact .error _
  next e =>
    refine .ite (.ok (h.peekVa _ e)) ?_
    split
    · exact .ite (.ok (h.peekVa _ e)) (.map (h.peekVa _ e).pokeVa (fun _ h' => h'))
    · exact .ite (.ok (h.peekVa _ e)) (.map (h.peekVa _ e).pokeVa (fun _ h' => h'))

theorem State.memoryOk.stampOf {ag w} (h : s.memoryOk) : IfOk (·.1.memoryOk) (s.stampOf ag w) := h.peekVa

theorem State.memoryOk.putStamp {ag w v cores} (h : s.memoryOk) : IfOk State.memoryOk (s.putStamp ag w v cores) := by
  unfold State.putStamp
  dsimp only
  split
  next e _ => exact .ok ((h.pokeVa _ e).foldl (fun _ _ h' => h'.recordRelease) _)
  next e _ => exact .ok (h.pokeVa _ e)
  · exact .error _

theorem State.memoryOk.publish {ag w entry cores} (h : s.memoryOk) : IfOk (IfSome State.memoryOk) (s.publish ag w entry cores) := by
  unfold State.publish
  split
  · exact .error _
  next e1 =>
    refine .ite (.ok .none) ?_
    split
    · exact .error _
    next e2 => exact .map ((h.stampOf _ e1).pokeVa _ e2).putStamp fun _ h' => .some h'

theorem State.memoryOk.takeSlot {ag w core} {put : State → List Byte → Except (Nat × Nat) State} (h : s.memoryOk)
    (hp : ∀ t v, t.memoryOk → IfOk State.memoryOk (put t v)) : IfOk (IfSome (·.1.memoryOk)) (s.takeSlot ag w core put) := by
  unfold State.takeSlot
  dsimp only
  split
  · exact .error _
  case h_2 u st e =>
    have hu : u.memoryOk := h.stampOf _ e
    have hq : (match u.pageOf ag w.stampAddr with
        | some (t, _) => u.acquireLine core 6 (t.pa w.stampAddr / 64)
        | none => u).memoryOk := by
      split
      · exact hu.acquireLine
      · exact hu
    split
    · exact .ok .none
    · split
      · exact .error _
      case h_2 e =>
        split
        · exact .error _
        case h_2 e' => exact .map (hp _ _ (hq.peekVa _ e) _ e').putStamp fun _ h => .some h

theorem State.memoryOk.loadBits {g bs} (h : s.memoryOk) : (s.loadBits g bs).1.memoryOk := h.foldl (fun _ _ h' => h'.bringBit) _

theorem State.memoryOk.entryAt {g lane a} (h : s.memoryOk) : IfOk (·.1.memoryOk) (s.entryAt g lane a) := by
  unfold State.entryAt
  split
  · exact .ok h.loadBits
  · exact .error _

theorem State.memoryOk.putEntry {g rel lane a v} (h : s.memoryOk) : IfOk State.memoryOk (s.putEntry g rel lane a v) := by
  unfold State.putEntry
  split
  · refine .ok ?_
    split
    · exact h.homeBits.foldl (fun _ _ h' => h'.recordRelease) _
    · exact h.homeBits
  · exact .error _

theorem State.memoryOk.stampStep {g w} (h : s.memoryOk) : IfOk (·.1.memoryOk) (s.stampStep g w) := by
  unfold State.stampStep
  dsimp only
  split
  · split
    · exact .error _
    next e1 =>
      split
      · exact .error _
      · exact .ok (h.entryAt _ e1)
      next e2 => exact .ok ((h.entryAt _ e1).publish _ e2 _ rfl).relLine.relLine
  · split
    · exact .error _
    · exact .ok h
    next e1 => exact .ok (h.takeSlot (fun _ _ h' => h'.putEntry) _ e1 _ rfl).relLine

theorem State.memoryOk.runFault {r : StampRun} {g w addr} (h : r.s.memoryOk) : (r.fault g w addr).s.memoryOk := by
  unfold StampRun.fault
  dsimp only
  split <;> exact h.tryVa

theorem State.memoryOk.runLane {r : StampRun} {g w} (h : r.s.memoryOk) : (r.lane g w).s.memoryOk := by
  unfold StampRun.lane
  split
  · split
    · exact h.runFault
    case h_2 e =>
      split
      · exact h.reserve _ e
      · exact (h.reserve _ e).relLine
  · split
    · exact h.runFault
    case h_2 e => exact h.stampStep _ e

theorem State.memoryOk.stampSteps {g ws} (h : s.memoryOk) : (s.stampSteps g ws).s.memoryOk :=
  foldlOf (π := StampRun.s) (b := ⟨s, [], [], []⟩) h (fun _ _ h => h.runLane) ws

theorem State.memoryOk.runStamps {r g ws} (h : s.memoryOk) : (s.runStamps r g ws).memoryOk := by
  unfold State.runStamps
  dsimp only
  split
  · exact .ite h.stampSteps.putOut h.stampSteps.putOut.trapLate
  · exact h.stampSteps.putOut

theorem nextOk_trapPairs {f m acc acc' xs ys t} (h : s.memoryOk) : NextOk (trapPairs s f m acc acc' xs ys t) :=
  nextOk_trapOut h.tryLanes.tryLanes

theorem nextOk_queueOut {f m d a b enq} (h : s.memoryOk) : NextOk (queueOut s f m d a b enq) := by
  unfold queueOut
  dsimp only
  split
  · exact nextOk_trapPairs h
  · refine .ite (.next h) ?_
    split
    · exact .next (.runStamps (.putGroup (.goOn (.resultLater (.ite h.writerVals h.writerVals.noteRead)))))
    · exact .next (.goOn (.resultLater (.ite h.writerVals h.writerVals.noteRead)))

theorem State.memoryOk.notifyBeater {p off g flush} (h : s.memoryOk) : (s.notifyBeater p off g flush).memoryOk := h.modCluster

theorem State.memoryOk.postShadow {g flush pid off entry} (h : s.memoryOk) : (s.postShadow g flush pid off entry).1.memoryOk := by
  unfold State.postShadow
  dsimp only
  split
  · exact h
  · split
    · exact h
    · split
      · exact h.writePad.writePad.notifyBeater
      · exact h.writePad.writePad

theorem State.memoryOk.postLanes {g flush xs} (h : s.memoryOk) : (s.postLanes g flush xs).1.memoryOk := by
  induction xs generalizing s with
  | nil => exact h
  | cons _ _ ih =>
    unfold State.postLanes
    dsimp only
    refine ih ?_
    split
    · exact h.loadBits.postShadow
    · exact h.loadBits

theorem nextOk_execQpost {m d a b flush} (h : s.memoryOk) : NextOk (execQpost m d a b flush s) := by
  unfold execQpost
  refine nextOk_issue h fun _ => ?_
  dsimp only
  split
  · exact nextOk_trapPairs h
  · exact .ite (.next h) (.next h.postLanes.noteWrite.writerVals.resultLater.goOn)

theorem State.memoryOk.forward {ag x q got log2m r k j} (h : s.memoryOk) : (s.forward ag x q got log2m r k j).1.memoryOk := by
  induction k generalizing s j with
  | zero => exact h
  | succ _ ih =>
    unfold State.forward
    dsimp only
    split
    · exact h.tryVa
    · exact h
    next e => exact ih (h.publish _ e _ rfl)

theorem State.memoryOk.putShadow {cl x} (h : s.memoryOk) : (s.putShadow cl x).memoryOk := h.modCluster

theorem State.memoryOk.askBatch {cl x} (h : s.memoryOk) : (s.askBatch cl x).memoryOk := by
  unfold State.askBatch
  dsimp only
  split
  · exact h.putShadow.sendFar
  · exact h
  · exact h.tryVa.putShadow

theorem State.memoryOk.runBatch {cl x r j k} (h : s.memoryOk) : (s.runBatch cl x r j k).memoryOk := by
  unfold State.runBatch
  dsimp only
  split
  · exact h.tryVa.putShadow
  next e => exact .ite (h.peekVa _ e).forward.putShadow (h.peekVa _ e).forward.writePad.putShadow

theorem nextOk_execBeaterBatch {pid off} (h : s.memoryOk) : NextOk (execBeaterBatch pid off s) := by
  unfold execBeaterBatch
  split
  · refine .ite (.next h) ?_
    split
    · exact .next h.runBatch
    · exact .ite (.next h.askBatch) (.next h)
  · exact .next h

theorem nextOk_execBeaterAgeTimeout {pid off} (h : s.memoryOk) : NextOk (execBeaterAgeTimeout pid off s) := by
  unfold execBeaterAgeTimeout
  split
  · exact .ite (.next h.putShadow) (.next h)
  · exact .next h

/-! ## Tasks -/

theorem State.memoryOk.putVa {ag a n v} (h : s.memoryOk) : IfOk State.memoryOk (s.putVa ag a n v) := h.pokeVa

theorem State.memoryOk.addVa {ag a n v} (h : s.memoryOk) : IfOk (·.1.memoryOk) (s.addVa ag a n v) := by
  unfold State.addVa
  split
  · exact .error _
  next e => exact .map (h.peekVa _ e).putVa fun _ h' => h'

theorem State.memoryOk.releaseAt {ag a} (h : s.memoryOk) : (s.releaseAt ag a).memoryOk := by
  unfold State.releaseAt
  split
  · exact h.recordRelease
  · exact h

theorem State.memoryOk.taskEntry {ag tcb} (h : s.memoryOk) : IfOk (·.1.memoryOk) (s.taskEntry ag tcb) := .map h.peekVa fun _ h' => h'
theorem State.memoryOk.keepTask {ag tcb} (h : s.memoryOk) : (s.keepTask ag tcb).memoryOk := h.pokeOr.pokeOr.engineError

theorem State.memoryOk.work {ag k w xs} (h : s.memoryOk) : (s.work ag k w xs).s.memoryOk := by
  induction xs generalizing s w with
  | zero => exact h
  | succ _ ih =>
    unfold State.work
    split
    · split
      · exact h
      next e1 =>
        split
        · exact h.taskEntry _ e1
        · exact h.taskEntry _ e1
        next e2 => exact ih ((h.taskEntry _ e1).publish _ e2 _ rfl).relLine.relLine
    · split
      · split
        · exact h
        next e2 =>
          split
          · exact (h.putVa _ e2).relLine
          next e3 =>
            split
            · exact (h.putVa _ e2).relLine.peekVa _ e3
            next e4 =>
              split
              · exact ih (((h.putVa _ e2).relLine.peekVa _ e3).reserve _ e4).keepTask
              · split
                · exact ((h.putVa _ e2).relLine.peekVa _ e3).reserve _ e4
                · exact ih (((h.putVa _ e2).relLine.peekVa _ e3).reserve _ e4).relLine
      · split
        · split
          · exact h
          next e3 =>
            split
            · exact h.peekVa _ e3
            next e4 => exact ih ((h.peekVa _ e3).addVa _ e4).releaseAt.relLine
        · split
          · split
            · exact h
            next e4 => exact (h.addVa _ e4).relLine
          · exact h

theorem State.memoryOk.taskFault {r e ag tcb} (h : s.memoryOk) : (s.taskFault r e ag tcb).memoryOk := by
  unfold State.taskFault
  refine .ite h.tryVa.putOut ?_
  split
  · exact .ite h.tryVa.leaveTask.dropOut (.ite h.tryVa.putOut h.tryVa.dropOut.trapLate)
  · exact .ite h.tryVa.putOut h.tryVa.dropOut.engineError

theorem State.memoryOk.runWork {r k w} (h : s.memoryOk) : (s.runWork r k w).memoryOk := by
  unfold State.runWork
  dsimp only
  split
  · exact h.work.taskFault
  · exact h.work.putOut

theorem State.memoryOk.dropRel {g} (h : s.memoryOk) : (s.dropRel g).memoryOk := by
  unfold State.dropRel
  split
  · exact .ite h.putGroup h
  · exact h

theorem State.memoryOk.beginWork {f d n k w} (h : s.memoryOk) : (s.beginWork f d n k w).memoryOk := by
  unfold State.beginWork
  dsimp only
  split
  · exact h.resultLater.runWork
  · exact h.resultLater

theorem nextOk_faultOut {f late m addr} (h : s.memoryOk) : NextOk (faultOut s f late m addr) :=
  .ite (.next h.tryVa.takeTrap) (.next h.tryVa.park)

theorem nextOk_taskOut {f late m align a} {body : Agent → TaskTry} (h : s.memoryOk)
    (hb : ∀ ag, OkBoth (·.1.memoryOk) State.memoryOk (body ag)) :
    NextOk (taskOut s f late m align a body) := by
  unfold taskOut
  dsimp only
  split
  · exact nextOk_trapOut h
  · split
    · exact .next h
    · split
      case h_1 e => exact .next ((hb _).ok _ e).goOn
      case h_2 e => exact nextOk_faultOut ((hb _).error _ e)

theorem nextOk_execTkarm {m d a b x} (h : s.memoryOk) : NextOk (execTkarm m d a b x s) := by
  refine nextOk_issue h fun _ => nextOk_taskOut h fun _ => ?_
  dsimp only
  split
  · exact okBoth_error h.releaseAt
  next e1 =>
    have h1 := h.releaseAt.peekVa _ e1
    refine .ite (okBoth_ok h1.resultLater) (.ite (okBoth_ok h1.resultLater) ?_)
    split
    · exact okBoth_error h1
    next e2 =>
      have h2 := h1.pokeVa _ e2
      exact okBoth_ok (.ite h2.relLine.dropRel.beginWork h2.relLine.dropRel.resultLater)

theorem nextOk_execTkpost {m d a n} (h : s.memoryOk) : NextOk (execTkpost m d a n s) := by
  unfold execTkpost
  refine nextOk_issue h fun _ => nextOk_taskOut h fun ag => ?_
  dsimp only
  split
  · exact okBoth_error h.releaseAt
  case h_2 e =>
    have h1 := h.releaseAt.peekVa _ e
    split
    · exact okBoth_error h1
    case h_2 e' =>
      have h2 := h1.peekVa _ e'
      split
      · exact okBoth_ok h2.resultLater
      · split
        · exact okBoth_error h2
        case h_2 u e'' =>
          refine okBoth_ok (State.memoryOk.beginWork (State.memoryOk.dropRel ?_))
          split at e''
          · exact (IfOk.map h2.addVa fun _ h => h.relLine) _ e''
          · exact Except.ok.inj e'' ▸ h2

theorem nextOk_execTkdone {m d a} (h : s.memoryOk) : NextOk (execTkdone m d a s) := by
  refine nextOk_issue h fun _ => .ite (nextOk_trapOut h) (nextOk_taskOut h fun _ => ?_)
  dsimp only
  split
  · exact okBoth_error h.releaseAt
  next e1 =>
    have h1 := h.releaseAt.putVa _ e1
    split
    · exact okBoth_error h1.relLine
    next e2 =>
      have h2 := h1.relLine.peekVa _ e2
      split
      · exact okBoth_error h2
      next e3 =>
        have h3 := h2.peekVa _ e3
        split
        · exact okBoth_error h3
        next e4 =>
          have h4 := h3.peekVa _ e4
          refine okBoth_ok (State.memoryOk.beginWork (State.memoryOk.dropRel ?_))
          split
          · exact h4.putGroup
          · exact h4

theorem State.memoryOk.tkgetWatch {ag gid slot pool} (h : s.memoryOk) : (s.tkgetWatch ag gid slot pool).memoryOk := by
  unfold State.tkgetWatch
  refine h.foldl (fun _ _ h' => ?_) _
  split
  · exact h'.addMonitors
  · exact h'

theorem nextOk_execTkget {m d a b} (h : s.memoryOk) : NextOk (execTkget m d a b s) := by
  unfold execTkget
  refine nextOk_issue h fun _ => ?_
  dsimp only
  refine .ite (nextOk_trapOut h) ?_
  split
  · exact nextOk_trapOut h.tryLanes
  · refine .ite (.next h) (.ite (.next h.park) ?_)
    split
    · exact nextOk_faultOut h.dropMonitors
    next e1 =>
      refine .ite (.next (h.dropMonitors.reserve _ e1).resultLater.goOn) ?_
      refine .ite (.next (h.dropMonitors.reserve _ e1).relLine.dropRel.resultLater.goOn) ?_
      split
      · exact nextOk_faultOut (h.dropMonitors.reserve _ e1)
      next e2 =>
        split
        · exact .next ((h.dropMonitors.reserve _ e1).peekVa _ e2).resultLater.goOn
        · exact .next ((h.dropMonitors.reserve _ e1).peekVa _ e2).tkgetWatch.park

theorem State.memoryOk.tkgetRun {g r w tcb} (h : s.memoryOk) : OkBoth (·.1.memoryOk) State.memoryOk (s.tkgetRun g r w tcb) := by
  unfold State.tkgetRun
  dsimp only
  split
  · exact okBoth_error h
  next e =>
    split
    · refine okBoth_ok ?_
      split
      · refine .leaveTask (.putOut (.relLine ?_))
        split
        · exact (h.putVa _ e).acquireLine
        · exact h.putVa _ e
      · refine .putGroup (.putOut (.relLine ?_))
        split
        · exact (h.putVa _ e).acquireLine
        · exact h.putVa _ e
    · refine okBoth_ok (.putOut (.relLine ?_))
      split
      · exact (h.putVa _ e).acquireLine
      · exact h.putVa _ e

theorem State.memoryOk.tkgetStep {g r w} (h : s.memoryOk) : OkBoth (·.1.memoryOk) State.memoryOk (s.tkgetStep g r w) := by
  unfold State.tkgetStep
  dsimp only
  split
  · exact h.tkgetRun
  · split
    · exact okBoth_error h
    · exact okBoth_ok h
    next e => exact (h.takeSlot (fun _ _ h' => h'.putEntry) _ e _ rfl).relLine.tkgetRun

theorem State.memoryOk.orphanTask {ag v} (h : s.memoryOk) : (s.orphanTask ag v).memoryOk := h.pokeOr.pokeOr.engineError

theorem State.memoryOk.orphanStep {ctx core o} (h : s.memoryOk) : (s.orphanStep ctx core o).1.memoryOk := by
  unfold State.orphanStep
  dsimp only
  split
  · exact h
  · split
    · split
      next e => exact h.publish _ e _ rfl
      · exact h
      · exact h.tryVa
    · split
      next e =>
        split
        · exact (h.takeSlot (fun _ _ h' => .ok h') _ e _ rfl).orphanTask
        · exact h.takeSlot (fun _ _ h' => .ok h') _ e _ rfl
      · exact h
      · exact h.tryVa

theorem State.memoryOk.orphansOf {g task ws} (h : s.memoryOk) : (s.orphansOf g task ws).1.memoryOk := by
  refine foldlOf (π := Prod.fst) (b := (s, [])) h (fun x w hx => ?_) _
  split
  · exact hx
  · split
    case h_1 e => exact hx.entryAt _ e
    case h_2 => exact hx.tryPieces

theorem nextOk_execTkgetWake {gid slot} (h : s.memoryOk) : NextOk (execTkgetWake gid slot s) := by
  unfold execTkgetWake
  refine .ite (.next h) ?_
  split
  · split
    · split
      · exact .ite (.next h) (.next h.putGroup)
      · exact .next h
    · exact .next h
  · exact .next h

theorem nextOk_execTaskEnqueueRetry {oid} (h : s.memoryOk) : NextOk (execTaskEnqueueRetry oid s) := by
  unfold execTaskEnqueueRetry
  split
  · split
    · exact .ite (.next h.runWork) (.next h)
    · exact .next h
  · exact .next h

/-! ## Copies -/

theorem State.memoryOk.scattered {g o e} (h : s.memoryOk) : IfOk (·.1.memoryOk) (s.scattered g o e) := by
  unfold State.scattered
  split
  · exact .error _
  · exact .ok h.engineReads

theorem State.memoryOk.copyPart {g o i} (h : s.memoryOk) : IfOk (·.1.memoryOk) (s.copyPart g o i) :=
  .ite (.ok h) (.map h.scattered (fun _ h' => h'))

theorem State.memoryOk.copyData {g o i p} (h : s.memoryOk) : IfOk (·.1.memoryOk) (s.copyData g o i p) := by
  unfold State.copyData
  split
  · exact .ok h
  · split
    · exact .error _
    · exact .ok h.engineReads

theorem State.memoryOk.readPart {g o i} (h : s.memoryOk) : IfOk (·.s.memoryOk) (s.readPart g o i) := by
  unfold State.readPart
  split
  · exact .error _
  next e1 =>
    split
    · exact .error _
    next e2 =>
      split
      · exact .error _
      · exact .ok ((h.copyPart _ e1).copyData _ e2)

theorem State.memoryOk.moveBytes {g o i} (h : s.memoryOk) : IfOk State.memoryOk (s.moveBytes g o i) :=
  .map h.readPart (fun _ h' => h'.foldl (fun _ _ h' => h'.engineWrites) _)

theorem State.memoryOk.wayWriteTarget {y : CopyWay} {mask k ps} (h : s.memoryOk) : (y.writeTarget mask s k ps).memoryOk := by
  induction ps generalizing s k with
  | nil => exact h
  | cons p ps ih =>
    refine ih (h.foldl (fun _ _ h => ?_) _)
    split
    · exact h
    · exact h.writePad

theorem State.memoryOk.wayWrite {y : CopyWay} {mask} (h : s.memoryOk) :
    (y.write mask s).memoryOk := h.foldl (fun _ _ h => h.wayWriteTarget) _

theorem State.memoryOk.countPart {g o i} (h : s.memoryOk) : (s.countPart g o i).memoryOk := by
  unfold State.countPart
  refine .ite h (h.foldl (fun _ _ h' => ?_) _)
  split
  next e => exact h'.deliverBarrier _ e
  · exact h'.engineError

theorem State.memoryOk.markElement {g o e} (h : s.memoryOk) : IfOk State.memoryOk (s.markElement g o e) := by
  unfold State.markElement
  refine .ite (.ok h) ?_
  split
  · exact .error _
  · exact .ok h.engineReads.engineWrites

theorem State.memoryOk.putCopy {gid o} (h : s.memoryOk) : (s.putCopy gid o).memoryOk := by
  unfold State.putCopy
  split
  · exact h.putGroup
  · exact h

theorem State.memoryOk.copyFault {g o e} (h : s.memoryOk) : (s.copyFault g o e).memoryOk := h.tryVa.putCopy
theorem State.memoryOk.partDone {g o i} (h : s.memoryOk) : (s.partDone g o i).memoryOk := h.putCopy.countPart

theorem State.memoryOk.markPart {held g o i} (h : s.memoryOk) (hh : held.memoryOk) : (s.markPart held g o i).memoryOk := by
  unfold State.markPart
  split
  · exact hh.copyFault
  case h_2 e => exact (h.markElement _ e).partDone

theorem State.memoryOk.endPiece {g o i} (h : s.memoryOk) : (s.endPiece g o i).memoryOk := by
  unfold State.endPiece
  split
  · exact .ite h.tryVa.partDone h.copyFault
  next e => exact (h.moveBytes _ e).markPart h

theorem State.memoryOk.goWay {g o y mask} (h : s.memoryOk) : (s.goWay g o y mask).memoryOk :=
  .ite (h.wayWrite.putCopy.markPart h.wayWrite.putCopy) h.wayWrite.putCopy

theorem State.memoryOk.runPart {g o i} (h : s.memoryOk) : (s.runPart g o i).memoryOk := by
  unfold State.runPart
  split
  · exact h.goWay.tick
  · split
    · exact h.endPiece
    next e =>
      split
      · exact .ite h.endPiece (h.readPart _ e).goWay.tick
      · exact h.endPiece

theorem State.memoryOk.finishWays {gid} (h : s.memoryOk) : (s.finishWays gid).memoryOk := by
  unfold State.finishWays
  split
  · exact h
  · refine h.foldl (fun _ _ h' => (h'.foldl (fun _ _ h' => ?_) _)) _
    split
    · exact h'.goWay
    · exact h'

theorem nextOk_copyOut {i m d a op x} (h : s.memoryOk) : NextOk (copyOut s i m d a op x) := by
  unfold copyOut
  refine .ite (.next h) (nextOk_issue h (fun _ => ?_))
  dsimp only
  split
  · exact nextOk_trapLanes h
  · refine .ite (.next h) (.ite (nextOk_trapOut (h.foldl (fun _ _ h' => h'.bringBit) _)) ?_)
    split
    · exact nextOk_trapOut (h.foldl (fun _ _ h' => h'.bringBit) _)
    · exact .next (h.foldl (fun _ _ h' => h'.bringBit) _).putGroup.engineAccept.resultLater.goOn

theorem nextOk_execCbmrd {m d a} (h : s.memoryOk) : NextOk (execCbmrd m d a s) := by
  unfold execCbmrd
  refine .ite (.next h) (nextOk_issue h (fun _ => ?_))
  dsimp only
  split
  · exact nextOk_trapLanes h
  · exact .ite (.next h) (.next h.engineReads.noteRead.resultLater.goOn)

theorem State.memoryOk.startCopy {g op} (h : s.memoryOk) : (s.startCopy g op).memoryOk := h.engineServe

theorem nextOk_execCopyPieceDelivery {gid op piece} (h : s.memoryOk) : NextOk (execCopyPieceDelivery gid op piece s) := by
  unfold execCopyPieceDelivery
  split
  · split
    · exact .ite (.next h) (.ite (.next h.runPart) (.ite (.next h.startCopy.runPart.engineChoose) (.next h)))
    · exact .next h
  · exact .next h

theorem State.memoryOk.reportResidency {g tcb} (h : s.memoryOk) : IfOk State.memoryOk (s.reportResidency g tcb) := by
  unfold State.reportResidency
  dsimp only
  split
  · exact .error _
  next e1 =>
    refine .ite (.ok (h.addVa _ e1).releaseAt) ?_
    split
    · exact .error _
    next e2 => exact .ok ((h.addVa _ e1).releaseAt.putVa _ e2).fresh.addOut.runWork

theorem nextOk_execCopyOpComplete {gid op} (h : s.memoryOk) : NextOk (execCopyOpComplete gid op s) := by
  unfold execCopyOpComplete
  dsimp only
  split
  · split
    · refine .ite (.next h) (.ite (.next h.putGroup) ?_)
      split
      · exact .next h.copyFault
      next e =>
        refine .next ?_
        split
        · exact (h.reportResidency _ e).putGroup
        · exact h.reportResidency _ e
    · exact .next h
  · exact .next h

/-! ## Gangs and tiles -/

theorem nextOk_execFcvt {m d a dec x} (h : s.memoryOk) : NextOk (execFcvt m d a dec x s) :=
  nextOk_issue h (fun _ => .next (h.withEventsLate (fun _ _ h' => h'.resultLater.goOn)))

theorem State.memoryOk.joinGang {gid x i} (h : s.memoryOk) : (s.joinGang gid x i).memoryOk := by
  unfold State.joinGang
  dsimp only
  split
  · exact h.putGang.putGroup
  · exact h.putGang

theorem State.memoryOk.runGang {f t w n} (h : s.memoryOk) : (s.runGang f t w n).memoryOk := by
  unfold State.runGang
  dsimp only
  split
  · split
    · exact h.leaveGang.joinGang
    · exact h.leaveGang
  · split
    · exact h.leaveGang.fresh.addGang.joinGang
    · exact h.leaveGang.fresh

theorem nextOk_execGang {m a x} (h : s.memoryOk) : NextOk (execGang m a x s) := by
  unfold execGang
  split
  · exact .next h
  · refine .ite (.next h.park) (nextOk_issue h (fun _ => ?_))
    split
    · exact nextOk_trapOut h
    · exact .ite (nextOk_trapOut h) (.ite (nextOk_trapOut h) (.next h.runGang.goOn))

theorem State.memoryOk.claimTiles {cl ctx ts} (h : s.memoryOk) : (s.claimTiles cl ctx ts).memoryOk := by
  unfold State.claimTiles
  refine h.foldl (fun _ _ h' => ?_) _
  dsimp only
  refine .ite ?_ h'
  split
  · exact h'.modCluster.putOwner
  · exact h'.modCluster

theorem State.memoryOk.writeBlock {o i off v} (h : s.memoryOk) : (s.writeBlock o i off v).memoryOk := by
  unfold State.writeBlock
  split
  · exact h.writePad
  · exact h

theorem State.memoryOk.countNarrow {x evs} (h : s.memoryOk) : (s.countNarrow x evs).memoryOk := h.countEvents
theorem State.memoryOk.performMma {x o q} (h : s.memoryOk) : (s.performMma x o q).memoryOk := h.modCluster.countNarrow
theorem State.memoryOk.performAccld {x o q} (h : s.memoryOk) : (s.performAccld x o q).memoryOk := h.modCluster.countNarrow
theorem State.memoryOk.performAccst {x o q} (h : s.memoryOk) : (s.performAccst x o q).memoryOk :=
  (h.foldl (fun _ _ h' => h'.writeBlock) _).modCluster.writeBlock.countNarrow

theorem State.memoryOk.performMfree {x o} (h : s.memoryOk) : (s.performMfree x o).memoryOk := by
  unfold State.performMfree
  dsimp only
  split
  · exact h.modCluster.dropOwner
  · exact h.modCluster

theorem State.memoryOk.performGang {x o} (h : s.memoryOk) : (s.performGang x o).memoryOk :=
  .ite h.performMma.modCluster (.ite h.performAccld (.ite h.performAccst h.performMfree))

theorem nextOk_gangOpOut {f m word i addr b n} (h : s.memoryOk) : NextOk (gangOpOut s f m word i addr b n) := by
  unfold gangOpOut
  split
  · refine .ite (nextOk_trapOut h) ?_
    split
    · exact nextOk_trapOut h
    · exact nextOk_trapOut h
    · refine .ite (nextOk_trapOut h) (.ite (nextOk_trapOut h) (.ite (.next h) ?_))
      exact .ite (.next h.claimTiles.putGroup.goOn) (.next h.claimTiles.putGang.putGroup.engineAccept.goOn)
  · exact nextOk_trapOut h

theorem nextOk_mmaOut {i m t a b x zero} (h : s.memoryOk) : NextOk (mmaOut s i m t a b x zero) :=
  .ite (.next h) (nextOk_issue h (fun _ => nextOk_gangOpOut h))
theorem nextOk_accMoveOut {i m t a x op} (h : s.memoryOk) : NextOk (accMoveOut s i m t a x op) :=
  .ite (.next h) (nextOk_issue h (fun _ => nextOk_gangOpOut h))
theorem nextOk_execMfree {m t} (h : s.memoryOk) : NextOk (execMfree m t s) :=
  .ite (.next h) (nextOk_issue h (fun _ => nextOk_gangOpOut h))

theorem nextOk_execAccrd {m d t w x} (h : s.memoryOk) : NextOk (execAccrd m d t w x s) := by
  unfold execAccrd
  refine nextOk_issue h fun _ => ?_
  split
  · exact .ite (nextOk_trapOut h) (.next h.claimTiles.resultLater.goOn)
  · exact .ite (nextOk_trapOut h) (.next h.claimTiles.resultLater.goOn)

theorem nextOk_execGangOpComplete {gang op} (h : s.memoryOk) : NextOk (execGangOpComplete gang op s) := by
  unfold execGangOpComplete
  split
  · split
    · exact .ite (.next h) (.next h.engineServe.performGang.gangDone.freeGang.engineChoose)
    · exact .next h
  · exact .next h

theorem nextOk_execArrayIdleRampdown {cluster array} (h : s.memoryOk) : NextOk (execArrayIdleRampdown cluster array s) := by
  unfold execArrayIdleRampdown
  split
  · split
    · exact .ite (.next h.modCluster) (.next h)
    · exact .next h
  · exact .next h

theorem nextOk_execMburstHoldExpiry {cluster array} (h : s.memoryOk) : NextOk (execMburstHoldExpiry cluster array s) := by
  unfold execMburstHoldExpiry
  split
  · exact .ite (.next h.modCluster) (.next h)
  · exact .next h

end Sys2Proof.Machine
end

/-! # Canonical memory: frames and results (R203, R214)

What the frames' stages and their samples leave, and what a result that lands leaves. -/

section
namespace Sys2Proof.Machine

variable {s : State}

/-! ## Frames: views, strips, tiles -/

theorem nextOk_execStripLatch {frame view strip} (h : s.memoryOk) : NextOk (execStripLatch frame view strip s) := by
  unfold execStripLatch
  split
  · exact .next h
  · exact .next h.latchStrip

theorem State.memoryOk.setAreaField {fr a off n v} (h : s.memoryOk) : (s.setAreaField fr a off n v).memoryOk := by
  unfold State.setAreaField
  split
  · exact h.writePad
  · exact h

theorem nextOk_execTileAreaOpen {frame view tile} (h : s.memoryOk) : NextOk (execTileAreaOpen frame view tile s) := by
  unfold execTileAreaOpen
  split
  · exact .next h
  · split
    · exact .next h
    · refine .ite (.next h) ?_
      split
      · refine .ite (.next h) ?_
        split
        · exact .next h
        · exact .next h.writePad.writePad.writePad.putFrame
      · exact .next h

theorem State.memoryOk.handOver {fid v t k late} (h : s.memoryOk) : (s.handOver fid v t k late).memoryOk := by
  unfold State.handOver
  split
  · exact h
  · exact .ite h.setAreaField.putFrame h.putFrame

theorem nextOk_execEmitp {m a b} (h : s.memoryOk) : NextOk (execEmitp m a b s) := by
  unfold execEmitp
  refine nextOk_issue h fun _ => ?_
  exact .ite (nextOk_trapOut h) (.next h.putGroup.goOn)

theorem State.memoryOk.rasterFault {fr a} (h : s.memoryOk) : (s.rasterFault fr a).memoryOk := h.tryVa.putFrame

theorem nextOk_execAmplifierProject {frame prim} (h : s.memoryOk) : NextOk (execAmplifierProject frame prim s) := by
  unfold execAmplifierProject
  dsimp only
  split
  · exact .next h
  · split
    · exact .next h
    · refine .ite (.next h) (.ite (.next h.putFrame) ?_)
      split
      · exact .next h.rasterFault
      next e => exact .next (h.pokeVa _ e).putFrame

theorem State.memoryOk.visMax {fr a i payload} (h : s.memoryOk) : (s.visMax fr a i payload).memoryOk := h.setAreaField
theorem State.memoryOk.writeVis {fr a w p t} (h : s.memoryOk) : (s.writeVis fr a w p t).memoryOk := h.foldl (fun _ _ h' => h'.visMax) _

theorem State.memoryOk.launchBatch {fid a k t cov qs} (h : s.memoryOk) : (s.launchBatch fid a k t cov qs).memoryOk := by
  unfold State.launchBatch
  dsimp only
  split
  · exact h.fresh.fresh
  · exact h.fresh.fresh.putFrame.addLaunch

theorem State.memoryOk.launchBatches {fid a k p t} (h : s.memoryOk) : (s.launchBatches fid a k p t).memoryOk :=
  h.foldl (fun _ _ h' => h'.launchBatch) _

theorem State.memoryOk.enqueueSmall {fr k entry} (h : s.memoryOk) : IfOk (IfSome (·.1.memoryOk)) (s.enqueueSmall fr k entry) := by
  unfold State.enqueueSmall
  dsimp only
  split
  · exact .error _
  next e1 =>
    refine .ite (.ok (.some (h.reserve _ e1))) (.ite (.ok .none) ?_)
    split
    · exact .error _
    · exact .ok .none
    next e2 => exact .ok (.some ((h.reserve _ e1).publish _ e2 _ rfl))

theorem State.memoryOk.dropEntry {fid} (h : s.memoryOk) : (s.dropEntry fid).memoryOk := by
  unfold State.dropEntry
  split
  · exact h.putFrame.engineError
  · exact h

theorem State.memoryOk.deliverSmall {fr t k tile} (h : s.memoryOk) : (s.deliverSmall fr t k tile).memoryOk := by
  unfold State.deliverSmall
  dsimp only
  refine .ite h.putFrame ?_
  split
  · exact h.rasterFault
  next e1 =>
    split
    · exact h.rasterFault
    · exact (h.pokeVa _ e1).putFrame
    next e2 =>
      split
      · exact ((h.pokeVa _ e1).enqueueSmall _ e2 _ rfl).putFrame
      · exact ((h.pokeVa _ e1).enqueueSmall _ e2 _ rfl).putFrame.dropEntry

theorem State.memoryOk.markDelivered {fid trid k tile} (h : s.memoryOk) : (s.markDelivered fid trid k tile).memoryOk := by
  unfold State.markDelivered
  split
  · exact h.putFrame
  · exact h

theorem nextOk_execRasteriseTriangle {frame tri strip tile} (h : s.memoryOk) : NextOk (execRasteriseTriangle frame tri strip tile s) := by
  unfold execRasteriseTriangle
  dsimp only
  split
  · exact .next h
  · split
    · exact .next h
    · refine .ite (.next h) ?_
      split
      · refine .ite (.next h.engineServe.markDelivered) ?_
        refine .ite (.ite (.next h.engineServe.deliverSmall) (.next h.engineServe.deliverSmall.markDelivered)) ?_
        exact .ite (.next h.engineServe.launchBatches.markDelivered) (.next h.engineServe.writeVis.markDelivered)
      · exact .next h.engineServe

theorem State.memoryOk.flushQueued {fid xs} (h : s.memoryOk) : (s.flushQueued fid xs).memoryOk := by
  induction xs generalizing s with
  | nil => exact h
  | cons _ _ ih =>
    unfold State.flushQueued
    split
    · exact h
    · split
      · exact h.rasterFault
      · exact ih h.putFrame
      next e =>
        refine ih ?_
        split
        · exact h.enqueueSmall _ e _ rfl
        · exact (h.enqueueSmall _ e _ rfl).dropEntry

theorem nextOk_execStripEndEntries {frame strip} (h : s.memoryOk) : NextOk (execStripEndEntries frame strip s) := by
  unfold execStripEndEntries
  split
  · exact .next h
  · exact .ite (.next h) (.next h.putFrame.flushQueued)

/-! ## The samples of a tile -/

theorem nextOk_execFbrd {m d a b x} (h : s.memoryOk) : NextOk (execFbrd m d a b x s) := by
  unfold execFbrd
  refine nextOk_issue h fun _ => ?_
  split
  · exact .ite (nextOk_trapOut h) (.ite (nextOk_trapOut h) (.next h.resultLater.goOn))
  · exact .ite (nextOk_trapOut h) (.ite (nextOk_trapOut h) (.next h.resultLater.goOn))

theorem State.memoryOk.performBlend {fr b} (h : s.memoryOk) : (s.performBlend fr b).memoryOk := by
  unfold State.performBlend
  split
  · exact h
  · split
    · exact h.setAreaField.recordRelease
    · exact h.setAreaField

theorem State.memoryOk.writeSample {g fid x op sample colour} (h : s.memoryOk) : (s.writeSample g fid x op sample colour).memoryOk := by
  unfold State.writeSample
  split
  · exact h
  · exact .ite h.putFrame h.performBlend

theorem nextOk_execFbwr {m d a b x} (h : s.memoryOk) : NextOk (execFbwr m d a b x s) := by
  unfold execFbwr
  refine nextOk_issue h fun _ => ?_
  refine .ite (nextOk_trapOut h) (.ite (nextOk_trapOut h) (.ite (.next h) (.next ?_)))
  exact .goOn (.ite (h.foldl (fun _ _ h' => h'.writeSample) _).dropRel (h.foldl (fun _ _ h' => h'.writeSample) _))

theorem nextOk_execFbwrRetire {frame view tile} (h : s.memoryOk) : NextOk (execFbwrRetire frame view tile s) := by
  unfold execFbwrRetire
  split
  · exact .next h
  · split
    · exact .next h
    · exact .next h.performBlend.putFrame

theorem State.memoryOk.retireArea {fid x} (h : s.memoryOk) : (s.retireArea fid x).memoryOk := by
  unfold State.retireArea
  split
  · exact h.putFrame
  · exact h

theorem nextOk_latchOut {f} (h : s.memoryOk) : NextOk (latchOut s f) := .next h.park

theorem nextOk_execTret {m d a} (h : s.memoryOk) : NextOk (execTret m d a s) := by
  unfold execTret
  refine nextOk_issue h fun _ => ?_
  split
  · exact nextOk_trapOut h
  · split
    · exact nextOk_latchOut h
    · split
      · exact nextOk_trapOut h
      · exact .ite (nextOk_trapOut h) (.ite (.next h.resultLater.retireArea.goOn) (.next h.resultLater.goOn))

theorem State.memoryOk.tretGives {r fid x v} (h : s.memoryOk) : (s.tretGives r fid x v).memoryOk := h.putOut.retireArea

theorem nextOk_execTretComplete {oid} (h : s.memoryOk) : NextOk (execTretComplete oid s) := by
  unfold execTretComplete
  split
  · exact .next h
  · split
    · split
      · exact .next h
      · refine .ite (.ite (.next h.tretGives) (.next h)) ?_
        split
        · exact .next h
        · exact .ite (.next h) (.next (.tretGives (.putFrame (.ite h.setAreaField h.setAreaField.setAreaField))))
    · exact .next h

theorem nextOk_execLate {m d a} (h : s.memoryOk) : NextOk (execLate m d a s) := by
  unfold execLate
  refine nextOk_issue h fun _ => ?_
  split
  · exact nextOk_trapOut h
  · exact .next h.resultLater.goOn

/-! ## Egress -/

theorem State.memoryOk.frameNumber {fr v} (h : s.memoryOk) : IfOk State.memoryOk (s.frameNumber fr v) := by
  unfold State.frameNumber
  split
  · exact .ok h
  · refine .ite (.ok h) ?_
    split
    · exact .error _
    next e => exact .ok (h.addVa _ e).putFrame

theorem State.memoryOk.modStream {ctx i f} (h : s.memoryOk) : (s.modStream ctx i f).memoryOk := by
  unfold State.modStream
  split
  · exact h.putCtx
  · exact h

theorem State.memoryOk.endEgress {ctx i n} (h : s.memoryOk) : (s.endEgress ctx i n).memoryOk := by
  unfold State.endEgress
  dsimp only
  split
  · exact h.modStream.setField
  · exact h.modStream

theorem State.memoryOk.egressFault {ctx i o a} (h : s.memoryOk) : (s.egressFault ctx i o a).memoryOk := h.tryVa.modStream

theorem State.memoryOk.pokeAll {ag xs} (h : s.memoryOk) : IfOk State.memoryOk (s.pokeAll ag xs) := by
  induction xs generalizing s with
  | nil => exact .ok h
  | cons _ _ ih =>
    unfold State.pokeAll
    split
    · exact .error _
    next e => exact ih (h.pokeVa _ e)

theorem State.memoryOk.arrive {ctx i o} (h : s.memoryOk) : (s.arrive ctx i o).memoryOk := by
  unfold State.arrive
  dsimp only
  split
  · exact h.endEgress
  · split
    · split
      · exact h.egressFault
      next e => exact (h.pokeAll _ e).handOver.endEgress
    · exact h

theorem State.memoryOk.discardEgress {ctx i o} (h : s.memoryOk) : (s.discardEgress ctx i o).memoryOk := by
  unfold State.discardEgress
  dsimp only
  split
  · exact h.endEgress
  · split
    · exact h
    · split
      · exact h.egressFault
      next e1 =>
        split
        · exact (h.peekVa _ e1).egressFault
        next e2 => exact ((h.peekVa _ e1).putVa _ e2).endEgress

theorem nextOk_execEgrs {m d a b x} (h : s.memoryOk) : NextOk (execEgrs m d a b x s) := by
  unfold execEgrs
  refine nextOk_issue h fun _ => ?_
  split
  · exact nextOk_trapOut h
  · split
    · exact nextOk_latchOut h
    · refine .ite (nextOk_trapOut h) (.ite (nextOk_trapOut h) ?_)
      split
      · exact nextOk_trapOut h
      · refine .ite (nextOk_trapOut h) (.ite (.next h) (.next (.goOn ?_)))
        split
        · split
          · exact .arrive (.engineAccept (.modStream (.ite h.resultLater h.resultLater.putFrame)))
          · exact .engineAccept (.modStream (.ite h.resultLater h.resultLater.putFrame))
        · split
          · exact .arrive (.engineAccept (.modStream (.ite h.resultLater h.resultLater.putFrame)))
          · exact .engineAccept (.modStream (.ite h.resultLater h.resultLater.putFrame))

theorem State.memoryOk.goOnEgress {ctxid stream o} (h : s.memoryOk) : (s.goOnEgress ctxid stream o).memoryOk :=
  .ite h.discardEgress h.modStream.arrive

theorem nextOk_execEgressArrival {ctxid stream op} (h : s.memoryOk) : NextOk (execEgressArrival ctxid stream op s) := by
  unfold execEgressArrival
  split
  · exact .next h
  · split
    · exact .next h
    · exact .ite (.next h) (.ite (.next h.goOnEgress) (.ite (.next h.engineServe.goOnEgress.engineChoose) (.next h)))

theorem State.memoryOk.fallbackCopy {ag xs} (h : s.memoryOk) : IfOk (·.1.memoryOk) (State.fallbackRows.copy ag s xs) := by
  induction xs generalizing s with
  | nil => exact .ok h
  | cons x xs ih =>
    unfold State.fallbackRows.copy
    split
    · exact .error _
    case h_2 e => exact .map (ih (h.peekVa _ e)) fun _ h => h
theorem State.memoryOk.fallbackRows {ag w d} (h : s.memoryOk) : IfOk (·.1.memoryOk) (s.fallbackRows ag w d) := by
  unfold State.fallbackRows
  dsimp only
  split
  · exact .ok h
  · split
    · exact .ok h
    · exact .map h.fallbackCopy fun _ h => h

theorem State.memoryOk.lateTile {fr w p v k t cycle} (h : s.memoryOk) : IfOk State.memoryOk (s.lateTile fr w p v k t cycle) := by
  unfold State.lateTile
  dsimp only
  split
  · exact .error _
  next e1 =>
    split
    · exact .error _
    next e2 =>
      split
      · exact .error _
      next e3 =>
        refine .ok ?_
        split
        · exact (((h.fallbackRows _ e1).pokeAll _ e2).addVa _ e3).handOver.putCtx
        · exact (((h.fallbackRows _ e1).pokeAll _ e2).addVa _ e3).handOver

theorem State.memoryOk.lateStrip {fr w p v k xs} (h : s.memoryOk) : IfOk State.memoryOk (s.lateStrip fr w p v k xs) := by
  induction xs generalizing s with
  | nil => exact .ok h
  | cons _ _ ih =>
    unfold State.lateStrip
    split
    · exact ih h
    · split
      · exact .error _
      next e => exact ih (h.lateTile _ e)

theorem State.memoryOk.deadline {fr v k} (h : s.memoryOk) : IfOk (IfSome State.memoryOk) (s.deadline fr v k) := by
  unfold State.deadline
  split
  · refine .ite ?_ (.ok .none)
    split
    · exact .error _
    next e =>
      refine .ok ?_
      split
      · exact .some (h.lateStrip _ e).putFrame
      · exact .some (h.lateStrip _ e)
  · exact .ok .none

theorem nextOk_execDeadlineRule {frame view strip} (h : s.memoryOk) : NextOk (execDeadlineRule frame view strip s) := by
  unfold execDeadlineRule
  split
  · exact .next h
  · split
    next e => exact .next (h.deadline _ e _ rfl)
    · exact .next h

/-! ## Results that land, walks, shootdowns -/

theorem State.memoryOk.landResult {r} (h : s.memoryOk) : (s.landResult r).memoryOk := by
  unfold State.landResult
  split
  · exact .ite h h.putGroup
  · exact h

theorem State.memoryOk.forgetLoads {gid} (h : s.memoryOk) : (s.forgetLoads gid).memoryOk := by
  unfold State.forgetLoads
  dsimp only
  split <;> exact h.setOuts

theorem State.memoryOk.replayLoad {r} (h : s.memoryOk) : (s.replayLoad r).memoryOk := by
  unfold State.replayLoad
  dsimp only
  split
  · split
    · exact h.tryLanes.dropOut.trapLate
    · refine .putOut (.performLoads ?_)
      split
      · exact h.foldl (fun _ _ h' => h'.acquireLine) _
      · exact h
  · exact h

theorem State.memoryOk.landLoad {r} (h : s.memoryOk) : (s.landLoad r).memoryOk := .ite h.landResult.putOut h.landResult.dropOut.forgetLoads

theorem State.memoryOk.loadLate {r} (h : s.memoryOk) : (s.loadLate r).memoryOk := by
  unfold State.loadLate
  dsimp only
  refine .ite h.dropOut ?_
  split
  · exact .ite h.replayLoad.landLoad h.replayLoad
  · exact h.replayLoad

/-- The orphaned entries of a batch: each in its turn, and the finished ones are left out. -/
theorem State.memoryOk.orphanSteps {ctx core} {ws : List Orphan} (h : s.memoryOk) : (ws.foldl (fun (x : State × List Orphan) p =>
    ((x.1.orphanStep ctx core p).1, if (x.1.orphanStep ctx core p).2 then x.2 else x.2 ++ [p])) (s, [])).1.memoryOk :=
  foldlOf (π := Prod.fst) (b := (s, [])) h (fun _ _ h => h.orphanStep) ws

theorem nextOk_execLongLatencyResultReturn {oid} (h : s.memoryOk) : NextOk (execLongLatencyResultReturn oid s) := by
  unfold execLongLatencyResultReturn
  dsimp only
  split
  · exact .next h
  · split
    · split
      · exact .next h.countEvents.landResult.dropOut
      · exact .next h.dropOut
    · split
      · exact .next h.loadLate
      · split
        · exact .next h
        · exact .next h.landLoad
    · split
      · exact .next h.dropOut
      · split
        · split
          · exact .next h.runStamps.landResult.dropOut
          · exact .next h.runStamps
        · exact .next h.runStamps
    · split
      · exact .next h.orphanSteps.dropOut
      · exact .next h.orphanSteps.putOut
    · split
      · exact .next h.landResult.dropOut
      · split
        · exact .next h.dropOut
        · split
          case h_1 e => exact .next (h.tkgetStep.error _ e).taskFault
          case h_2 e => exact .next (h.tkgetStep.ok _ e)
    · split
      · exact .next h.landResult.dropOut
      · exact .next h.runWork
    · split
      · exact .next h.landResult.dropOut
      · exact .next h.runWork
    · split
      · exact .next h.landResult.dropOut
      · split
        · exact .next h.runWork
        · exact .next h
    · split
      · exact .next h.landResult.dropOut
      · exact .next h

theorem nextOk_execGrowGrant {gid} (h : s.memoryOk) : NextOk (execGrowGrant gid s) := by
  unfold execGrowGrant
  split
  · exact .ite (.next h.putGroup) (.next h)
  · exact .next h

theorem nextOk_execPageWalkComplete {unit asid va} (h : s.memoryOk) : NextOk (execPageWalkComplete unit asid va s) := by
  unfold execPageWalkComplete
  dsimp only
  split
  · split
    · exact .next h
    · split
      · exact .next h.install
      · exact .next h
  · exact .next h

theorem State.memoryOk.shootdown {d} (h : s.memoryOk) : (s.shootdown d).memoryOk := h.dropLines.setMsys

theorem nextOk_execShootdownComplete {sid} (h : s.memoryOk) : NextOk (execShootdownComplete sid s) := by
  unfold execShootdownComplete
  split
  · exact .ite (.next h) (.next h.shootdown.setMsys)
  · exact .next h

end Sys2Proof.Machine
end

/-! # Canonical memory: teams and launches (R203, R214)

What placement, saves, harvests and teardown leave. -/

section
namespace Sys2Proof.Machine

variable {s : State}

/-! ## Placement -/

theorem State.memoryOk.addGroups {l t xs} (h : s.memoryOk) : (s.addGroups l t xs).memoryOk := by
  induction xs generalizing s with
  | nil => exact h
  | cons _ _ ih => exact ih h.fresh.addGroup

theorem State.memoryOk.loseUnits {core d xs} (h : s.memoryOk) : (s.loseUnits core d xs).memoryOk := by
  induction xs generalizing s with
  | nil => exact h
  | cons _ _ ih =>
    unfold State.loseUnits
    dsimp only
    refine ih ?_
    split
    · exact h.putTeam.setGroups
    · exact h

theorem State.memoryOk.reclaim {core base d} (h : s.memoryOk) : (s.reclaim core base d).memoryOk := h.setTeams.loseUnits

theorem State.memoryOk.teamRecord {c l i} (h : s.memoryOk) : IfSome (·.2.memoryOk) (s.teamRecord c l i) := by
  unfold State.teamRecord
  split
  · exact .some h
  · exact h.allocRecord

theorem State.memoryOk.openPad {l p} (h : s.memoryOk) : (s.openPad l p).2.memoryOk := by
  unfold State.openPad
  dsimp only
  split
  · exact h
  · split
    · exact (h.fresh.addPad rfl).putFrame
    · exact h.fresh.addPad rfl

theorem State.memoryOk.roomFound {tid} (h : s.memoryOk) : (s.roomFound tid).memoryOk := h.setTeams

theorem State.memoryOk.openTeam {c l i rank cl p} (h : s.memoryOk) : IfSome State.memoryOk (s.openTeam c l i rank cl p) := by
  unfold State.openTeam
  split
  · exact .none
  next e =>
    refine .some (.modDie ?_)
    split
    · refine .putLaunch (.addGroups ?_)
      split
      · refine .setGroups (.putTeam (.roomFound (.fresh ?_)))
        split
        · exact .openPad (.ite (h.teamRecord _ e) (h.teamRecord _ e).reclaim)
        · exact .fresh (.openPad (.ite (h.teamRecord _ e) (h.teamRecord _ e).reclaim))
      · refine .addTeam (.fresh ?_)
        split
        · exact .openPad (.ite (h.teamRecord _ e) (h.teamRecord _ e).reclaim)
        · exact .fresh (.openPad (.ite (h.teamRecord _ e) (h.teamRecord _ e).reclaim))
    · refine .addGroups ?_
      split
      · refine .setGroups (.putTeam (.roomFound (.fresh ?_)))
        split
        · exact .openPad (.ite (h.teamRecord _ e) (h.teamRecord _ e).reclaim)
        · exact .fresh (.openPad (.ite (h.teamRecord _ e) (h.teamRecord _ e).reclaim))
      · refine .addTeam (.fresh ?_)
        split
        · exact .openPad (.ite (h.teamRecord _ e) (h.teamRecord _ e).reclaim)
        · exact .fresh (.openPad (.ite (h.teamRecord _ e) (h.teamRecord _ e).reclaim))

theorem State.memoryOk.openEach {c l is cores} (h : s.memoryOk) : IfSome State.memoryOk (s.openEach c l is cores) := by
  fun_induction State.openEach s c l is cores with
  | case1 => exact .some h
  | case2 => exact .none
  | case3 _ _ _ _ _ _ ih => exact ih h
  | case4 _ _ _ _ _ _ _ e ih => exact ih ((IfSome.bind (.any _) fun _ _ => h.openTeam) _ e)
  | case5 _ _ _ _ _ _ _ ih => exact ih h

theorem State.memoryOk.placeNext {l} (h : s.memoryOk) : IfSome State.memoryOk (s.placeNext l) := by
  unfold State.placeNext
  split
  · exact .findSome? (fun _ => h.reapPads.openEach) _
  · exact .none

/-! ## Preemption and saves -/

theorem State.memoryOk.settleUnit {us} (h : s.memoryOk) : (s.settleUnit us).memoryOk := h.setGroups
theorem State.memoryOk.askUnit {us need} (h : s.memoryOk) : (s.askUnit us need).memoryOk := h.setTeams.settleUnit
theorem State.memoryOk.writeIf {a v} (h : s.memoryOk) : (s.writeIf a v).memoryOk := .ite h h.touchRange.writeHome
theorem State.memoryOk.writeRecord {c l t} (h : s.memoryOk) : (s.writeRecord c l t).memoryOk :=
  ((h.touchRange.writeHome.foldl (fun _ _ h' => h'.writeHome.writeHome.writeHome) _).foldl (fun _ _ h' => h'.writeHome) _).writeIf.writeIf
theorem State.memoryOk.writeImages {c held} (h : s.memoryOk) : (s.writeImages c held).memoryOk := h.setField.writeIf

theorem State.memoryOk.rebuildGangs {us held} (h : s.memoryOk) : (s.rebuildGangs us held).memoryOk := by
  unfold State.rebuildGangs
  refine h.foldl (fun _ _ h' => ?_) _
  split
  · exact .ite h'.putGang h'
  · exact h'

theorem State.memoryOk.leaveCore {c l t} (h : s.memoryOk) : (s.leaveCore c l t).memoryOk :=
  .ite h.cleanLines.dropMonitors.putTeam h.cleanLines.dropMonitors.putTeam.dropPad
theorem State.memoryOk.saveUnit {c l us} (h : s.memoryOk) : (s.saveUnit c l us).memoryOk :=
  ((h.settleUnit.foldl (fun _ _ h' => h'.writeRecord) _).foldl (fun _ _ h' => h'.leaveCore) _).writeImages

theorem nextOk_execTeamSave {tid} (h : s.memoryOk) : NextOk (execTeamSave tid s) := by
  unfold execTeamSave
  split
  · exact .next h
  · split
    · exact .ite (.next h.saveUnit) (.next h)
    · exact .next h

theorem State.memoryOk.orphanOut {g r} (h : s.memoryOk) : (s.orphanOut g r).memoryOk := by
  unfold State.orphanOut
  dsimp only
  split
  · exact .ite h.orphansOf.dropOut h.orphansOf.putOut
  · split
    · exact .ite h.orphansOf.dropOut h.orphansOf.putOut
    · exact .ite h.orphansOf.dropOut h.orphansOf.putOut
  · exact .ite h.dropOut h.putOut

theorem State.memoryOk.orphanOuts {tasks g} (h : s.memoryOk) : (s.orphanOuts tasks g).memoryOk := h.foldl (fun _ _ h' => h'.orphanOut) _

theorem State.memoryOk.killTeam {t place} (h : s.memoryOk) : (s.killTeam t place).memoryOk := by
  unfold State.killTeam
  refine .putTeam (.setGroups (.dropMonitors ?_))
  refine ((h.foldl (fun _ _ h' => h'.leaveTask.leaveGang) _).foldl (fun _ _ h' => h'.orphanOuts) _).foldl (fun _ _ h' => ?_) _
  split
  · split
    · exact h'.putFrame
    · exact h'
  · split
    · exact h'.putFrame
    · exact h'
  · exact h'

theorem State.memoryOk.goOnUnit {us} (h : s.memoryOk) : (s.goOnUnit us).memoryOk := (h.foldl (fun _ _ h' => h'.setGroups) _).setTeams

theorem nextOk_execPreemptTimeout {tid} (h : s.memoryOk) : NextOk (execPreemptTimeout tid s) := by
  unfold execPreemptTimeout
  split
  · exact .next h
  · split
    · refine .ite (.next h) (.ite (.next (.reapPads ?_)) (.next h.goOnUnit))
      split
      · exact (h.foldl (fun _ _ h' => h'.killTeam) _).putLaunch
      · exact h.foldl (fun _ _ h' => h'.killTeam) _
    · exact .next h

theorem State.memoryOk.putGroups {gs} (h : s.memoryOk) : (s.putGroups gs).memoryOk := h.foldl (fun _ _ h' => h'.putGroup) _
theorem State.memoryOk.moveNotices {from_ to_ gids} (h : s.memoryOk) : (s.moveNotices from_ to_ gids).memoryOk := h.modDie.modDie

theorem State.memoryOk.restoreTeam {c l k p} (h : s.memoryOk) : (s.restoreTeam c l k p).memoryOk := by
  unfold State.restoreTeam
  dsimp only
  generalize hu : (if k.harvest = true then _ else State.reclaim _ _ _ _) = u
  have hu' : u.memoryOk := hu ▸ .ite h.touchRange h.touchRange.reclaim
  generalize hv : (if l.kind.pooled = true then u else _) = v
  have hv' : v.memoryOk := hv ▸ .ite hu' (hu'.addPad (wf_write _ _ rfl))
  refine .ite ?_ (.moveNotices ?_)
  all_goals
    refine .modDie (.putGroups ?_)
    split
    · exact hv'.fresh.roomFound.putTeam.setGangs.putLaunch
    · exact hv'.fresh.roomFound.putTeam.setGangs

theorem State.memoryOk.restoreEach {c l ts cores} (h : s.memoryOk) : IfSome State.memoryOk (s.restoreEach c l ts cores) := by
  fun_induction State.restoreEach s c l ts cores with
  | case1 => exact .some h
  | case2 => exact .none
  | case3 _ _ _ _ _ _ _ ih => exact ih h.restoreTeam
  | case4 _ _ _ _ _ _ ih => exact ih h

theorem State.memoryOk.resumeUnit {c l us} (h : s.memoryOk) : IfSome State.memoryOk (s.resumeUnit c l us) :=
  .map (.findSome? (fun _ => (h.foldl (fun _ _ h' => h'.touchRange) _).reapPads.restoreEach) _) fun _ h' => h'.rebuildGangs.writeImages
theorem State.memoryOk.resumed {l t} (h : s.memoryOk) : IfSome State.memoryOk (s.resumed l t) := .bind (.any _) fun _ _ => h.resumeUnit
theorem State.memoryOk.tookDieTurn {die lid} (h : s.memoryOk) : (s.tookDieTurn die lid).memoryOk := h.modDie

theorem nextOk_execTeamPlace {lid} (h : s.memoryOk) : NextOk (execTeamPlace lid s) := by
  unfold execTeamPlace
  split
  · exact .next h
  · refine .ite (.next h) ?_
    split
    next e _ => exact .ite (.next (h.placeNext _ e).tookDieTurn) (.next h)
    · exact .next h

theorem nextOk_execTeamResume {tid} (h : s.memoryOk) : NextOk (execTeamResume tid s) := by
  unfold execTeamResume
  split
  · exact .next h
  · split
    · refine .ite (.next h) ?_
      split
      next e _ => exact .ite (.next (h.resumed _ e).tookDieTurn) (.next h)
      · exact .next h
    · exact .next h

theorem nextOk_execPreemptRequest {tid} (h : s.memoryOk) : NextOk (execPreemptRequest tid s) := by
  unfold execPreemptRequest
  split
  · exact .next h
  · exact .ite (.next h.askUnit) (.next h)

/-! ## Harvest -/

theorem State.memoryOk.dropBlends {g} (h : s.memoryOk) : (s.dropBlends g).memoryOk := by
  unfold State.dropBlends
  split
  · split
    · exact h.putFrame
    · exact h
  · exact h

theorem State.memoryOk.restartGroup {gid} (h : s.memoryOk) : (s.restartGroup gid).memoryOk := by
  unfold State.restartGroup
  dsimp only
  split
  · split
    · exact h.leaveGang.dropMonitors.orphanOuts.modDie
    · exact h.leaveGang.dropMonitors
  · split
    · refine .putDiverged (.dropBlends ?_)
      split
      · exact h.leaveGang.dropMonitors.orphanOuts.modDie
      · exact h.leaveGang.dropMonitors
    · refine .dropBlends ?_
      split
      · exact h.leaveGang.dropMonitors.orphanOuts.modDie
      · exact h.leaveGang.dropMonitors

theorem State.memoryOk.cancelLoads {g} (h : s.memoryOk) : (s.cancelLoads g).memoryOk := by
  unfold State.cancelLoads
  refine .ite h ?_
  split
  · exact h
  · refine h.foldl (fun _ _ h' => (.putOut ?_)) _
    split
    · exact h'.putGroup
    · exact h'

theorem State.memoryOk.revokeTeam {t} (h : s.memoryOk) : (s.revokeTeam t).memoryOk :=
  ((h.foldl (fun _ _ h' => h'.cancelLoads) _).foldl (fun _ _ h' => h'.finishWays) _).fresh.putTeam
theorem nextOk_execHarvestRevoke {tid} (h : s.memoryOk) : NextOk (execHarvestRevoke tid s) := by
  unfold execHarvestRevoke
  split
  · exact .next h
  · exact .ite (.next (h.foldl (fun _ _ h' => h'.revokeTeam) _)) (.next h)

theorem State.memoryOk.reseat {t} (h : s.memoryOk) : (s.reseat t).memoryOk := h.putGroups.putTeam
theorem State.memoryOk.returnTeam {t} (h : s.memoryOk) : (s.returnTeam t).memoryOk :=
  h.reseat.foldl (fun _ _ h' => h'.putGroup.foldl (fun _ _ h' => h'.replayLoad) _) _

theorem State.memoryOk.restartTeam {k} (h : s.memoryOk) : (s.restartTeam k).memoryOk := by
  have hp : (match s.pad? k.pad with | some p => if s.padLive p then s else s.putPad (p.renew k.lost) | none => s).memoryOk := by
    split
    case h_1 p e => exact .ite h (h.putPad (wf_filter _ (h.2 p (List.mem_of_find?_eq_some e))))
    case h_2 => exact h
  unfold State.restartTeam
  refine (State.memoryOk.setGroups (State.memoryOk.reseat hp)).foldl (fun t g ht => ?_) _
  dsimp only
  split
  · exact ht.restartGroup.putGroup
  · exact ht.restartGroup

theorem nextOk_execHarvestResume {tid} (h : s.memoryOk) : NextOk (execHarvestResume tid s) := by
  unfold execHarvestResume
  split
  · exact .next h
  · split
    · exact .next h
    · refine .ite (.next h) ?_
      split
      · exact .next (h.reapPads.foldl (fun _ _ h' => h'.returnTeam) _)
      · exact .ite (.next (h.reapPads.foldl (fun _ _ h' => h'.restartTeam) _)) (.next h)

/-! ## Queues and their signals -/

theorem State.memoryOk.signalDown {ag a} (h : s.memoryOk) : IfOk State.memoryOk (s.signalDown ag a) := by
  unfold State.signalDown
  refine .ite (.ok h) ?_
  split
  · exact .error _
  next e => exact .ite (.ok (h.peekVa _ e)) (h.peekVa _ e).putVa

theorem State.memoryOk.signalAbort {ag a} (h : s.memoryOk) : (s.signalAbort ag a).memoryOk := .ite h h.pokeOr
theorem State.memoryOk.crecAbort {ag a status teams fpx} (h : s.memoryOk) : (s.crecAbort ag a status teams fpx).memoryOk := .ite h h.pokeOr

theorem State.memoryOk.watchPacket {q a} (h : s.memoryOk) : (s.watchPacket q a).memoryOk := by
  unfold State.watchPacket
  split
  · exact h.addMonitors
  · exact h

theorem State.memoryOk.watchNotify {q} (h : s.memoryOk) : (s.watchNotify q).memoryOk := by
  unfold State.watchNotify
  dsimp only
  split
  · exact h.dropMonitors.walkVa.addMonitors
  · exact h.dropMonitors.walkVa

theorem State.memoryOk.queueRecord {q cause op detail} (h : s.memoryOk) : (s.queueRecord q cause op detail).memoryOk := h.pokeOr
theorem State.memoryOk.queueError {q cause op detail} (h : s.memoryOk) : (s.queueError q cause op detail).memoryOk :=
  .postEvent (.queueRecord (.modDie (.putQueue (.dropMonitors (.ite h.tryVa h)))))

theorem State.memoryOk.acquireVa {ag die scope a n} (h : s.memoryOk) : (s.acquireVa ag die scope a n).memoryOk := by
  unfold State.acquireVa
  refine h.foldl (fun _ _ h' => ?_) _
  split
  · split
    · exact h'.foldl (fun _ _ h' => h'.acquireLine) _
    · exact h'
  · exact h'

theorem State.memoryOk.consumeSlot {q} (h : s.memoryOk) : IfOk State.memoryOk (s.consumeSlot q) := by
  unfold State.consumeSlot
  dsimp only
  split
  · exact .error _
  next e1 =>
    split
    · exact .error _
    next e2 => exact .ok ((h.putVa _ e1).putVa _ e2).putQueue

theorem State.memoryOk.lookSlot {q} (h : s.memoryOk) : (s.lookSlot q).memoryOk := by
  unfold State.lookSlot
  dsimp only
  split
  · exact h.dropMonitors.acquireVa.queueError
  next e =>
    split
    · exact (h.dropMonitors.acquireVa.peekVa _ e).putQueue
    · exact (h.dropMonitors.acquireVa.peekVa _ e).putQueue.watchPacket

theorem State.memoryOk.look {qid} (h : s.memoryOk) : (s.look qid).memoryOk := by
  unfold State.look
  dsimp only
  split
  · exact h
  · split
    · exact h.lookSlot
    · split
      · split
        · exact h.queueError
        next e1 =>
          split
          · exact (h.consumeSlot _ e1).lookSlot
          · exact h.consumeSlot _ e1
      · split
        · refine .ite h.putQueue ?_
          split
          · exact h.queueError
          next e2 =>
            split
            · exact (h.consumeSlot _ e2).lookSlot
            · exact h.consumeSlot _ e2
        · split
          · exact h.queueError
          next e3 =>
            refine .ite (h.acquireVa.peekVa _ e3).putQueue.putQueue ?_
            split
            · exact (h.acquireVa.peekVa _ e3).putQueue.queueError
            next e4 =>
              split
              · exact ((h.acquireVa.peekVa _ e3).putQueue.consumeSlot _ e4).lookSlot
              · exact (h.acquireVa.peekVa _ e3).putQueue.consumeSlot _ e4

theorem State.memoryOk.consume {qid} (h : s.memoryOk) : IfOk State.memoryOk (s.consume qid) := by
  unfold State.consume
  split
  · exact .ok h
  · split
    · exact .ok h.putQueue
    · exact h.consumeSlot

theorem State.memoryOk.addMapped {q} (h : s.memoryOk) : (s.addMapped q).memoryOk := h.modDie

theorem State.memoryOk.queueRests {qid} (h : s.memoryOk) : (s.queueRests qid).memoryOk := by
  unfold State.queueRests
  split
  · exact h.putQueue
  · exact h

theorem State.memoryOk.unmap {qid} (h : s.memoryOk) : (s.unmap qid).memoryOk := by
  unfold State.unmap
  split
  · exact h.putQueue.modDie
  · exact h

theorem State.memoryOk.makeRoom {die} (h : s.memoryOk) : (s.makeRoom die).memoryOk := by
  unfold State.makeRoom
  dsimp only
  refine .ite h ?_
  split
  · exact h.unmap
  · exact h

theorem State.memoryOk.mapQueue {qid} (h : s.memoryOk) : (s.mapQueue qid).memoryOk := by
  unfold State.mapQueue
  split
  · exact h
  · exact .ite h (.ite h.makeRoom.putQueue.addMapped h.makeRoom)

/-! ## Teardown and the ends of launches -/

theorem State.memoryOk.abortPassing {ctxid die} (h : s.memoryOk) : (s.abortPassing ctxid die).memoryOk := by
  unfold State.abortPassing
  split
  · exact h
  · split
    · exact h
    · exact .ite h (.ite h.choose.crecAbort.signalAbort.queueRecord h.choose)

theorem State.memoryOk.retireQueue {c q} (h : s.memoryOk) : (s.retireQueue c q).memoryOk := by
  unfold State.retireQueue
  refine .putQueue (.modDie (.dropMonitors (.foldl ?_ (fun _ _ h' => h'.crecAbort.signalAbort) _)))
  split
  · refine .signalAbort ?_
    split
    · exact h.signalAbort
    · exact h
  · split
    · exact h.signalAbort
    · exact h

theorem State.memoryOk.abortLaunch {c l} (h : s.memoryOk) : (s.abortLaunch c l).memoryOk := h.crecAbort.signalAbort
theorem State.memoryOk.dropTiles {c} (h : s.memoryOk) : (s.dropTiles c).memoryOk :=
  (h.writeOwners.foldl (fun _ _ h' => h'.setField) _).setClusters.foldl (fun _ _ h' => h'.modCluster) _
theorem State.memoryOk.dropWork {ctxid} (h : s.memoryOk) : (s.dropWork ctxid).memoryOk :=
  (h.foldl (fun _ _ h' => h'.killTeam) _).setOuts.setGangs.setGroups.setTeams.setLaunches.setFrames.setEvents.setDies.reapPads

theorem State.memoryOk.teardown {ctxid} (h : s.memoryOk) : (s.teardown ctxid).memoryOk := by
  unfold State.teardown
  dsimp only
  split
  · exact h
  · refine .ite h ?_
    split
    · refine .putCtx (.dropTiles (.dropWork (.foldl ?_ (fun _ _ h' => h'.abortLaunch) _)))
      exact h.abortPassing.abortPassing.foldl (fun _ _ h' => h'.retireQueue) _
    · refine .dropTiles (.dropWork (.foldl ?_ (fun _ _ h' => h'.abortLaunch) _))
      exact h.abortPassing.abortPassing.foldl (fun _ _ h' => h'.retireQueue) _

theorem State.memoryOk.killContext {die ctxid cause crec} (h : s.memoryOk) : (s.killContext die ctxid cause crec).memoryOk :=
  h.teardown.postEvent
theorem State.memoryOk.launchWriteBack {c l} (h : s.memoryOk) : (s.launchWriteBack c l).memoryOk := .ite h h.cleanLines

theorem State.memoryOk.stepBind {ag} {r : Step283} {first k} {f : State → Except (Nat × Nat) State} (h : r.1.memoryOk)
    (hf : ∀ t, t.memoryOk → IfOk State.memoryOk (f t)) : (r.bind ag first k f).1.memoryOk := by
  unfold Step283.bind
  split
  · exact h
  · split
    · exact h
    · split
      case h_1 e => exact hf _ h _ e
      case h_2 => exact h.tryVa

theorem State.memoryOk.completionSteps {c l stats first} (h : s.memoryOk) : (s.completionSteps c l stats first).1.memoryOk := by
  unfold State.completionSteps
  dsimp only
  refine .stepBind ?_ fun _ h' => h'.signalDown
  refine .stepBind ?_ fun _ h' => ?_
  · refine .stepBind ?_ fun _ h' => .ok h'.launchWriteBack
    refine h.stepBind fun _ h' => ?_
    split
    · exact h'.pokeVa
    · exact .ok h'
  · split
    · exact .ok h'
    · exact h'.pokeVa

theorem State.memoryOk.endLaunch {l} (h : s.memoryOk) : (s.endLaunch l).memoryOk := h.setGroups.setTeams.setGangs.dropLaunch.reapPads

theorem State.memoryOk.completeLaunch {l first} (h : s.memoryOk) : (s.completeLaunch l first).memoryOk := by
  unfold State.completeLaunch
  dsimp only
  split
  · exact h
  · split
    case h_1 e => exact (h.completionSteps.of_fst e).putLaunch
    case h_2 u e =>
      have hu : u.memoryOk := h.completionSteps.of_fst e
      refine .endLaunch ?_
      split
      · refine .queueRests ?_
        split
        · exact hu.dropFrame
        · exact hu
      · split
        · exact hu.dropFrame
        · exact hu

theorem State.memoryOk.lendCores {l} (h : s.memoryOk) : (s.lendCores l).memoryOk := by
  unfold State.lendCores
  split
  · exact h.putLaunch
  · exact h

theorem nextOk_execLaunchComplete {lid} (h : s.memoryOk) : NextOk (execLaunchComplete lid s) := by
  unfold execLaunchComplete
  split
  · exact .next h
  · refine .ite (.next h) ?_
    split
    · exact .next h.completeLaunch
    · split
      · exact .next h.putFrame
      · exact .next h
    · exact .next h.lendCores.endLaunch

theorem nextOk_execFrameComplete {frame} (h : s.memoryOk) : NextOk (execFrameComplete frame s) := by
  unfold execFrameComplete
  split
  · exact .next h
  · split
    · exact .next h
    · exact .ite (.next h) (.next h.completeLaunch)

end Sys2Proof.Machine
end

/-! # Canonical memory: firmware, the host and packets (R203, R214)

What firmware and host events, mailbox requests and packets leave. -/

section
namespace Sys2Proof.Machine

variable {s : State}

/-! ## Firmware events: faults, replies, restarts -/

theorem nextOk_execNotAnInstruction {w} (h : s.memoryOk) : NextOk (execNotAnInstruction w s) := by
  unfold execNotAnInstruction
  split
  · exact .ite (.next h) (.next h.takeTrap)
  · exact .next h

theorem nextOk_execInstructionFetchFault {addr} (h : s.memoryOk) : NextOk (execInstructionFetchFault addr s) := by
  unfold execInstructionFetchFault
  split
  · exact .next h
  · split
    · exact .next h.takeTrap
    · exact .next h

theorem State.memoryOk.unnotice {g} (h : s.memoryOk) : (s.unnotice g).memoryOk := h.modDie

theorem State.memoryOk.restartReads {g} (h : s.memoryOk) : IfOk (·.1.memoryOk) (s.restartReads g) := by
  unfold State.restartReads
  dsimp only
  split
  · exact .ok h
  · refine .ite (.ok h) ?_
    split
    · exact .error _
    next e1 =>
      split
      · exact .error _
      next e2 => exact .ok ((h.peekVa _ e1).peekVa _ e2)

theorem State.memoryOk.killFor {g} (h : s.memoryOk) : (s.killFor g).memoryOk := h.killContext
theorem State.memoryOk.postPage {g phase} (h : s.memoryOk) : (s.postPage g phase).memoryOk := h.putGroup.postEvent.setEvents
theorem State.memoryOk.resumeTrapped {g skip} (h : s.memoryOk) : (s.resumeTrapped g skip).memoryOk := h.putGroup.unnotice

theorem nextOk_execFirmwareTrapResume {gid} (h : s.memoryOk) : NextOk (execFirmwareTrapResume gid s) := by
  unfold execFirmwareTrapResume
  split
  · exact .next h
  · refine .ite (.next h) (.ite (.next h.resumeTrapped) (.ite (.next h) ?_))
    split
    · exact .next h.postPage
    · exact .ite (.next h.postEvent.resumeTrapped) (.ite (.next h.postEvent.resumeTrapped) (.next h))

theorem nextOk_execGroupRestart {gid} (h : s.memoryOk) : NextOk (execGroupRestart gid s) := by
  unfold execGroupRestart
  split
  · exact .next h
  · exact .ite (.next h.restartGroup.unnotice) (.next h)

theorem nextOk_execContextTeardown {ctxid} (h : s.memoryOk) : NextOk (execContextTeardown ctxid s) := by
  unfold execContextTeardown
  dsimp only
  split
  · exact .next h.killFor
  · exact .next h

theorem State.memoryOk.markFaulted {g tcb} (h : s.memoryOk) : (s.markFaulted g tcb).1.memoryOk := by
  unfold State.markFaulted
  dsimp only
  split
  · exact h
  next e1 =>
    split
    · exact h.peekVa _ e1
    next e2 =>
      split
      · exact (h.peekVa _ e1).peekVa _ e2
      next e3 =>
        split
        · exact (((h.peekVa _ e1).peekVa _ e2).putVa _ e3).pokeOr.pokeOr.pokeOr
        next e4 => exact (((h.peekVa _ e1).peekVa _ e2).putVa _ e3).pokeOr.pokeOr.pokeOr.addVa _ e4

theorem State.memoryOk.repostTask {g tcb} (h : s.memoryOk) : OkBoth (·.1.memoryOk) State.memoryOk (s.repostTask g tcb) := by
  unfold State.repostTask
  dsimp only
  split
  · exact okBoth_error h.releaseAt
  next e =>
    refine okBoth_ok ?_
    exact .ite (h.releaseAt.peekVa _ e).fresh.putGroup.addOut.runWork (h.releaseAt.peekVa _ e).fresh.putGroup.addOut

theorem State.memoryOk.leaveRestart {g tcb a} (h : s.memoryOk) : (s.leaveRestart g tcb a).memoryOk := by
  unfold State.leaveRestart
  refine .ite h.tryVa.putGroup.engineError.resumeTrapped ?_
  split
  · exact h.tryVa.putGroup.engineError.postPage
  · exact .ite h.tryVa.putGroup.engineError.restartGroup.unnotice h.tryVa.putGroup.engineError.killFor

theorem State.memoryOk.restartTask {g} (h : s.memoryOk) : (s.restartTask g).memoryOk := h.putGroup.restartGroup.unnotice

theorem State.memoryOk.awaitPost {g tcb oid} (h : s.memoryOk) : (s.awaitPost g tcb oid).memoryOk := by
  unfold State.awaitPost
  split
  · exact h.restartTask
  · exact .ite h.dropOut.restartTask (.ite h.dropOut.leaveRestart h)

theorem nextOk_execTaskFaultRepost {gid} (h : s.memoryOk) : NextOk (execTaskFaultRepost gid s) := by
  unfold execTaskFaultRepost
  dsimp only
  split
  · exact .next h
  · split
    · exact .next h
    · split
      · exact .next h
      · split
        · exact .next h.awaitPost
        · split
          case h_1 e => exact .next (h.repostTask.error _ e).leaveRestart
          case h_2 e => exact .next (h.repostTask.ok _ e)
        · split
          · exact .next h
          · exact .next h.leaveRestart
          case h_3 e =>
            have h1 := h.restartReads _ e
            split
            case h_1 e' => exact .next (h1.markFaulted.of_fst e').leaveRestart
            case h_2 e' =>
              split
              · exact .next (h1.markFaulted.of_fst e').killFor
              · exact .next (h1.markFaulted.of_fst e').postPage
        · exact .next h

theorem nextOk_execHomeFaultReplay {rid} (h : s.memoryOk) : NextOk (execHomeFaultReplay rid s) := by
  unfold execHomeFaultReplay
  split
  · refine .ite (.next h) (.ite (.next h.performFar) ?_)
    split
    · split
      · exact .next h.setNet.replyLost
      · exact .ite (.next h.setNet.replyLost.trapLate) (.ite (.next h.setNet.replyLost) (.next h))
    · exact .next h.setNet.replyLost
  · exact .next h

theorem State.memoryOk.transferTile {ctx cl t} (h : s.memoryOk) : (s.transferTile ctx cl t).memoryOk := by
  unfold State.transferTile
  dsimp only
  refine .ite h ?_
  split
  · split
    · exact h
    · split
      next e => exact h.spillTile _ e
      · exact h.killContext
  · refine .modCluster (.unspillTile ?_)
    split
    · exact h
    · split
      next e => exact h.spillTile _ e
      · exact h.killContext

theorem nextOk_execAccOwnerSpill {gid} (h : s.memoryOk) : NextOk (execAccOwnerSpill gid s) := by
  unfold execAccOwnerSpill
  dsimp only
  split
  · exact .next h
  · refine .ite (.next h) ?_
    split
    · exact .next (h.foldl (fun _ _ h' => h'.transferTile) _).resumeTrapped
    · exact .next (h.foldl (fun _ _ h' => h'.transferTile) _)

theorem nextOk_execEngineFault {src} (h : s.memoryOk) : NextOk (execEngineFault src s) := by
  unfold execEngineFault
  split
  · exact .next h
  · exact .ite (.next h) (.ite (.next h.killContext) (.next h.postEvent.setEvents))

theorem State.memoryOk.setRepair {src clear repaired} (h : s.memoryOk) : (s.setRepair src clear repaired).memoryOk := by
  unfold State.setRepair
  dsimp only
  split
  · split
    · exact h.putGroup
    · exact h
  · split
    · exact h.putGroup
    · exact h
  · split
    · exact h.putGroup
    · exact h
  · split
    · exact h.putFrame
    · exact h
  · exact h.modStream
  · split
    · exact h.putFrame
    · exact h
  · split
    · exact h.putLaunch
    · exact h
  · split
    · exact h.putQueue
    · exact h
  · split
    · exact h.putShadow
    · exact h

theorem State.memoryOk.resumeSelvedge {fid v} (h : s.memoryOk) : (s.resumeSelvedge fid v).memoryOk := by
  have hn : (match (s.frame? fid).map fun fr => s.frameNumber fr v with | some (.ok s) => s | _ => s).memoryOk := by
    split
    case h_1 e => exact IfOk.of_map (fun _ => h.frameNumber) e
    case h_2 => exact h
  unfold State.resumeSelvedge
  extract_lets u
  split
  · exact hn
  · refine State.memoryOk.foldl hn (fun t k ht => ?_) _
    split
    case h_1 e => exact IfOk.of_map (fun _ => ht.deadline) e _ rfl
    case h_2 => exact ht

theorem nextOk_execEngineFaultResume {src} (h : s.memoryOk) : NextOk (execEngineFaultResume src s) := by
  unfold execEngineFaultResume
  dsimp only
  split
  · exact .next h
  · refine .ite (.next h) ?_
    split
    · exact .next h.setRepair.resumeSelvedge
    · split
      · exact .next h.setRepair.completeLaunch
      · exact .next h.setRepair
    · split
      · split
        next e =>
          split
          · exact .next (h.setRepair.signalDown _ e).putQueue.queueRests
          · exact .next (h.setRepair.signalDown _ e)
        · exact .next h.setRepair
      · exact .next h.setRepair
    · exact .next h.setRepair

/-! ## Lanes and words -/

/-! ## The host, the links, power -/

theorem State.memoryOk.touchOutside {a n} (h : s.memoryOk) : (s.touchOutside a n).memoryOk := h.foldl (fun _ _ h' => h'.touchHome) _
theorem State.memoryOk.readOutside {least a n} (h : s.memoryOk) : (s.readOutside least a n).1.memoryOk :=
  h.touchOutside.foldl (fun _ _ h' => h'.acquireOutside) _
theorem nextOk_execHostMemoryWrite {pa bytes} (h : s.memoryOk) : NextOk (execHostMemoryWrite pa bytes s) :=
  .ite (.next h.touchOutside.writeHome) (.next h)
theorem nextOk_execHostMemoryRead {pa n} (h : s.memoryOk) : NextOk (execHostMemoryRead pa n s) :=
  .ite (.next h.readOutside.setEvents) (.next h)

theorem nextOk_execRequestFromAnotherModule {req} (h : s.memoryOk) : NextOk (execRequestFromAnotherModule req s) := by
  unfold execRequestFromAnotherModule
  split
  · exact .ite (.next h.readOutside.setEvents) (.next h)
  · exact .ite (.next h.touchOutside.writeHome) (.next h)
  · exact .ite (.next h) (.next h.fresh.touchHome.enterNet)

theorem State.memoryOk.freeBytes {n} (h : s.memoryOk) : (s.freeBytes n).2.memoryOk := h.setCtl
theorem nextOk_execRemoteHomeInvalidation {module pa} (h : s.memoryOk) : NextOk (execRemoteHomeInvalidation module pa s) :=
  .ite (.next h) (.next h.dropLines.freeBytes.writeHome)
theorem nextOk_execLinkTrain {port comb module reach} (h : s.memoryOk) : NextOk (execLinkTrain port comb module reach s) :=
  .ite (.next h.setNet) (.next h)
theorem State.memoryOk.writeEvent {seq e} (h : s.memoryOk) : (s.writeEvent seq e).memoryOk := h.touchRange.writeHome.setHost
theorem State.memoryOk.dropEvent (h : s.memoryOk) : s.dropEvent.memoryOk := h.setHost

theorem nextOk_execEventTake {die} (h : s.memoryOk) : NextOk (execEventTake die s) := by
  unfold execEventTake
  split
  · exact .next h
  · refine .ite (.next h) (.ite (.next h.modDie.dropEvent) ?_)
    exact .ite (.next h.modDie.setEvents.writeEvent) (.ite (.next h.modDie.dropEvent) (.next h.modDie.setEvents))

theorem nextOk_execEventQueuedWrite (h : s.memoryOk) : NextOk (execEventQueuedWrite s) := by
  unfold execEventQueuedWrite
  split
  · exact .next h
  · exact .ite (.next h) (.next h.setEvents.writeEvent)

theorem State.memoryOk.bootStart (h : s.memoryOk) : s.bootStart.memoryOk := .ite h h.setDies.setGroups.setHost

theorem nextOk_execHostRegisterWrite {off val} (h : s.memoryOk) : NextOk (execHostRegisterWrite off val s) := by
  unfold execHostRegisterWrite
  split
  · exact .next h.setHost
  · exact .next h.setHost
  · exact .next h.setHost
  · exact .next h.setHost
  · exact .next h.setHost
  · exact .next (.ite h.setHost h)
  · exact .next (.ite h h.setHost)
  · exact .next (.ite h.setHost.wake h)
  · exact .next h

theorem State.memoryOk.bootFailed {die why} (h : s.memoryOk) : (s.bootFailed die why).memoryOk := h.modDie.modDie.setGroups
theorem State.memoryOk.bootRuns {die} (h : s.memoryOk) : (s.bootRuns die).memoryOk := h.fresh.touchRange.writeHome.addGroup.modDie.setHost

theorem nextOk_execBootFetchComplete {die} (h : s.memoryOk) : NextOk (execBootFetchComplete die s) := by
  unfold execBootFetchComplete
  dsimp only
  split
  · exact .ite (.next h.modDie) (.next h.bootFailed)
  · exact .ite (.ite (.next h.bootFailed) (.ite (.next h.modDie) (.next h.bootRuns))) (.next h)

theorem State.memoryOk.endWindow {die milliwatts above} (h : s.memoryOk) : (s.endWindow die milliwatts above).memoryOk :=
  .ite h.modDie h.modDie.postEvent
theorem nextOk_execPowerWindowEnd {milliwatts0 milliwatts1 moduleMilliwatts} (h : s.memoryOk) :
    NextOk (execPowerWindowEnd milliwatts0 milliwatts1 moduleMilliwatts s) :=
  .next h.endWindow.endWindow
theorem nextOk_scanOp {i m d a op form} (h : s.memoryOk) : NextOk (scanOp s i m d a op form) :=
  nextOk_issue h (fun _ => .next (h.withEventsIn (fun _ h' => h'.result.goOn)))

theorem State.memoryOk.setQuadFault {f b} (h : s.memoryOk) : (s.setQuadFault f b).memoryOk := by
  unfold State.setQuadFault
  split
  · exact h.putGroup
  · exact h

theorem nextOk_derivOp {i m d a axis fine} (h : s.memoryOk) : NextOk (derivOp s i m d a axis fine) :=
  nextOk_issue h (fun _ => .next (h.withEvents (fun _ h' => h'.setQuadFault.result.goOn)))
/-! ## The mailbox -/

theorem State.memoryOk.mailReply {r status body} (h : s.memoryOk) : (s.mailReply r status body).memoryOk :=
  .postEvent (.setHost (.ite h.touchRange h.touchRange.touchRange.writeHome))

theorem nextOk_mailOut {op n used} {act : State → MailReq → MailAct} (h : s.memoryOk)
    (ha : ∀ t r, t.memoryOk → IfOk (·.1.memoryOk) (act t r)) :
    NextOk (mailOut s op n used act) := by
  unfold mailOut
  dsimp only
  split
  · exact .next h
  · split
    · exact .next h.setHost.mailReply
    · split
      · exact .next h.setHost.mailReply
      · split
        · exact .next h.setHost.mailReply
        case h_2 e => exact .next (ha _ _ h.setHost _ e).mailReply

theorem State.memoryOk.createContext {r} (h : s.memoryOk) : IfOk (·.1.memoryOk) (s.createContext r) :=
  .ite (.error _) (.ite (.error _) (.ite (.error _) (.ok h.addCtx.initSaveArea)))
theorem nextOk_execCreateContext (h : s.memoryOk) : NextOk (execCreateContext s) := nextOk_mailOut h fun _ _ h' => h'.createContext
theorem State.memoryOk.removeQueue {q} (h : s.memoryOk) : (s.removeQueue q).memoryOk := h.dropMonitors.dropQueue.modDie

theorem State.memoryOk.destroyContext {r} (h : s.memoryOk) : IfOk (·.1.memoryOk) (s.destroyContext r) := by
  unfold State.destroyContext
  dsimp only
  split
  · exact .error _
  · exact .ok (h.teardown.foldl (fun _ _ h' => h'.removeQueue) _).dropCtx

theorem nextOk_execDestroyContext (h : s.memoryOk) : NextOk (execDestroyContext s) := nextOk_mailOut h fun _ _ h' => h'.destroyContext

theorem State.memoryOk.createQueue {r} (h : s.memoryOk) : IfOk (·.1.memoryOk) (s.createQueue r) := by
  unfold State.createQueue
  refine .ite (.error _) (.ite (.error _) ?_)
  split
  · exact .error _
  · exact .ok (.ite h.readVa.addQueue h.readVa.addQueue.watchNotify)

theorem nextOk_execCreateQueue (h : s.memoryOk) : NextOk (execCreateQueue s) := nextOk_mailOut h fun _ _ h' => h'.createQueue

theorem nextOk_execDestroyQueue (h : s.memoryOk) : NextOk (execDestroyQueue s) := by
  unfold execDestroyQueue
  refine nextOk_mailOut h fun _ _ h' => ?_
  split
  · exact .error _
  · exact .ok h'.removeQueue

theorem State.memoryOk.enableQueue {r} (h : s.memoryOk) : IfOk (·.1.memoryOk) (s.enableQueue r) := by
  unfold State.enableQueue
  refine .ite (.error _) ?_
  split
  · exact .error _
  · refine .ite (.error _) (.ok ?_)
    split
    · split
      · exact .ite h.makeRoom.putQueue.addMapped.queueError.look h.makeRoom.putQueue.addMapped.queueError
      next e =>
        split
        · exact (h.makeRoom.putQueue.addMapped.consumeSlot _ e).look
        · exact h.makeRoom.putQueue.addMapped.consumeSlot _ e
    · exact .ite h.makeRoom.putQueue.addMapped.look h.makeRoom.putQueue.addMapped

theorem nextOk_execEnableQueue (h : s.memoryOk) : NextOk (execEnableQueue s) := nextOk_mailOut h fun _ _ h' => h'.enableQueue

theorem State.memoryOk.faultMapped {w} (h : s.memoryOk) : (s.faultMapped w).memoryOk := by
  unfold State.faultMapped
  split
  · exact h.setRepair
  · split
    · exact .ite h.putGroup (.ite h.putGroup h)
    · exact h

theorem State.memoryOk.faultDeclined {w} (h : s.memoryOk) : (s.faultDeclined w).memoryOk := by
  unfold State.faultDeclined
  split
  · split
    · exact h.killContext
    · exact h
  · split
    · exact .ite h.putGroup h
    · exact h

theorem State.memoryOk.faultReply {r} (h : s.memoryOk) : IfOk (·.1.memoryOk) (s.faultReply r) := by
  unfold State.faultReply
  split
  · exact .error _
  · exact .ite (.error _) (.ok (h.setEvents.foldl (fun _ _ h' => (.ite h'.faultMapped h'.faultDeclined)) _))

theorem nextOk_execFaultReply (h : s.memoryOk) : NextOk (execFaultReply s) := nextOk_mailOut h fun _ _ h' => h'.faultReply
theorem nextOk_execInvalidate (h : s.memoryOk) : NextOk (execInvalidate s) :=
  .ite (.next h) (nextOk_mailOut h (fun _ _ h' => (.ite (.error _) (.ok h'.shootdown))))

theorem State.memoryOk.signature {report} (h : s.memoryOk) : (s.signature report).2.memoryOk := by
  unfold State.signature
  dsimp only
  split
  · exact h.freeBytes
  · exact h.freeBytes.freeBytes

theorem nextOk_execAttest (h : s.memoryOk) : NextOk (execAttest s) := nextOk_mailOut h fun _ _ h' => .ok h'.signature

/-! ## Moves and modes -/

theorem nextOk_execLit {m literal} (h : s.memoryOk) : NextOk (execLit m literal s) := by
  unfold execLit
  dsimp only
  split
  · exact .next h
  · split
    · exact .next h.touchWord.takeTrap
    · exact nextOk_issue h fun _ => .next h.putGroup

theorem State.memoryOk.setMode {f v} (h : s.memoryOk) : (s.setMode f v).memoryOk := by
  unfold State.setMode
  split
  · exact h.putGroup
  · exact h

theorem nextOk_execSetmReg {m wm a} (h : s.memoryOk) : NextOk (execSetmReg m wm a s) := by
  unfold execSetmReg
  refine nextOk_issue h fun _ => ?_
  exact .ite (.next h.setMode.goOn) (nextOk_trapOut h)

/-! ## Packets -/

theorem State.memoryOk.tookTurn {q} (h : s.memoryOk) : (s.tookTurn q).memoryOk := h.modDie

theorem State.memoryOk.serve {p used} {body : State → Served} (h : s.memoryOk) (hb : ∀ t, t.memoryOk → IfOk State.memoryOk (body t)) :
    (s.serve p used body).memoryOk := by
  unfold State.serve
  dsimp only
  split
  · exact h.tookTurn.queueError
  · split
    · exact h.tookTurn.queueError
    case h_2 e =>
      split
      · exact h.tookTurn.queueError
      case h_2 e' => exact ((hb _ h.tookTurn _ e).consume _ e').look

theorem nextOk_packetOut {qid op used} {body : Packet → State → Served} (h : s.memoryOk)
    (hb : ∀ p t, t.memoryOk → IfOk State.memoryOk (body p t)) : NextOk (packetOut s qid op used body) := by
  unfold packetOut
  split
  · split
    · exact .next (h.serve (hb _))
    · exact .next h
  · exact .next h

theorem nextOk_execNopPacket {qid} (h : s.memoryOk) : NextOk (execNopPacket qid s) := nextOk_packetOut h fun _ _ h' => .ok h'

theorem nextOk_execUnknownPacketOpcode {qid} (h : s.memoryOk) : NextOk (execUnknownPacketOpcode qid s) := by
  unfold execUnknownPacketOpcode
  split
  · exact .ite (.next h.tookTurn.queueError) (.next h)
  · exact .next h

theorem State.memoryOk.packetRead {p a n} (h : s.memoryOk) : IfOk (·.1.memoryOk) (s.packetRead p a n) := by
  unfold State.packetRead
  split
  · exact .error _
  next e => exact .ok (h.acquireVa.peekVa _ e)

theorem State.memoryOk.packetKernel {p a} (h : s.memoryOk) : IfOk (·.1.memoryOk) (s.packetKernel p a) := by
  unfold State.packetKernel
  split
  · exact .error _
  next e => exact .ite (.ok (h.packetRead _ e)) (.error _)

theorem State.memoryOk.startLaunch {l} (h : s.memoryOk) : (s.startLaunch l).memoryOk := by
  unfold State.startLaunch
  split
  · exact h.putCtx.writeHeader.addLaunch
  · exact h

theorem nextOk_execDispatch {qid} (h : s.memoryOk) : NextOk (execDispatch qid s) := by
  unfold execDispatch
  refine nextOk_packetOut h (fun _ _ h' => (.ite (.error _) ?_))
  split
  · exact .error _
  next e => exact .ite (.ok (h'.packetKernel _ e).fresh.startLaunch) (.error _)

/-- By the function's own functional, under whatever record of the recursive calls: its equations exceed the recursion limit. -/
theorem State.memoryOk.readViews {p vsrec vs} (h : s.memoryOk) : IfOk (·.1.memoryOk) (s.readViews p vsrec vs) := by
  induction vs generalizing s with
  | nil => exact .ok h
  | cons v vs ih =>
    suffices hf : ∀ b : List.below (motive := fun _ => State → Except (Nat × Nat) (State × List View)) (v :: vs),
        (∀ t, t.memoryOk → IfOk (·.1.memoryOk) (b.1 t)) → IfOk (·.1.memoryOk) (State.readViews._f p vsrec (v :: vs) b s) by
      delta State.readViews List.brecOn List.brecOn.go at ih ⊢
      exact hf _ fun _ ht => ih ht
    intro b hb
    delta State.readViews._f
    dsimp only
    split
    · exact .error _
    case h_2 e =>
      refine .ite (.error _) ?_
      split
      · exact .error _
      case h_2 e' => exact .ite (.error _) (.map (hb _ ((h.packetRead _ e).packetRead _ e')) fun _ h => h)

theorem State.memoryOk.readQueues {p vsrec stq xs} (h : s.memoryOk) : IfOk State.memoryOk (s.readQueues p vsrec stq xs) := by
  induction xs generalizing s with
  | nil => exact .ok h
  | cons _ _ ih =>
    unfold State.readQueues
    split
    · exact .error _
    next e =>
      split
      · exact ih (h.packetRead _ e)
      · exact .error _

theorem State.memoryOk.readFrame {p vsrec} (h : s.memoryOk) : IfOk (·.1.memoryOk) (s.readFrame p vsrec) := by
  unfold State.readFrame
  split
  · exact .error _
  next e1 =>
    refine .ite (.error _) ?_
    split
    · exact .error _
    next e2 =>
      split
      · exact .error _
      next e3 =>
        refine .ite (.error _) ?_
        split
        · exact .error _
        · exact .map (((h.packetRead _ e1).readViews _ e2).packetKernel _ e3).readQueues fun _ h' => h'

theorem State.memoryOk.startTiles {fr prio xs} (h : s.memoryOk) : (s.startTiles fr prio xs).memoryOk := by
  induction xs generalizing s with
  | nil => exact h
  | cons _ _ ih => exact ih h.fresh.addLaunch

theorem State.memoryOk.startNumbers {fr} (h : s.memoryOk) : (s.startNumbers fr).memoryOk := by
  unfold State.startNumbers
  refine h.foldl (fun _ _ h' => ?_) _
  split
  · split
    next e => exact h'.frameNumber _ e
    · exact h'
  · exact h'

theorem State.memoryOk.startFrame {fr prio} (h : s.memoryOk) : (s.startFrame fr prio).memoryOk :=
  (h.addFrame.modViewSet.foldl (fun _ _ h' => h'.engineArrive) _).startTiles.startNumbers

theorem nextOk_execFrame {qid} (h : s.memoryOk) : NextOk (execFrame qid s) := by
  unfold execFrame
  refine nextOk_packetOut h (fun _ _ h' => (.ite (.error _) ?_))
  split
  · exact .error _
  next e => exact .ite (.error _) (.map (h'.packetKernel _ e).fresh.fresh.readFrame (fun _ h' => h'.startLaunch.startFrame))

theorem nextOk_execTaskPool {qid} (h : s.memoryOk) : NextOk (execTaskPool qid s) := by
  unfold execTaskPool
  refine nextOk_packetOut h fun _ _ h' => ?_
  split
  next e => exact .ok (h'.pokeVa _ e)
  · exact .error _

theorem nextOk_execGaze {qid} (h : s.memoryOk) : NextOk (execGaze qid s) :=
  nextOk_packetOut h (fun _ _ h' => (.ite (.error _) (.ok (h'.foldl (fun _ _ h' => h'.latchDue) _).modDie)))

theorem nextOk_execCacheClass {qid} (h : s.memoryOk) : NextOk (execCacheClass qid s) := by
  unfold execCacheClass
  refine nextOk_packetOut h (fun _ _ h' => (.ite (.error _) (.ite (.error _) (.ok ?_))))
  split
  · exact h'.setMsys.putCtx
  · exact h'.setMsys

theorem nextOk_execIndirect {qid} (h : s.memoryOk) : NextOk (execIndirect qid s) := by
  unfold execIndirect
  split
  · exact .next h
  · split
    · exact .next h
    · exact .ite (.next h.tookTurn.queueError) (.ite (.next h.tookTurn.queueError) (.next h.tookTurn.putQueue.look))

theorem State.memoryOk.waitAcquire {p} (h : s.memoryOk) : (s.waitAcquire p).memoryOk := h.foldl (fun _ _ h' => h'.acquireVa.readVa) _

theorem State.memoryOk.lookWait {p} (h : s.memoryOk) : (s.lookWait p).memoryOk := by
  unfold State.lookWait
  dsimp only
  split
  · exact h.waitAcquire.dropMonitors.queueError
  · exact h.waitAcquire.dropMonitors.foldl (fun _ _ h' => h'.watchPacket) _

theorem nextOk_waitOut {qid op used ok} (h : s.memoryOk) : NextOk (waitOut s qid op used ok) := by
  unfold waitOut
  split
  · exact .next h
  · exact .ite (.next h) (.ite (.next h.tookTurn.queueError) (.next h.tookTurn.putQueue.lookWait))

theorem State.memoryOk.endWait {p} (h : s.memoryOk) : (s.endWait p).memoryOk := by
  unfold State.endWait
  dsimp only
  split
  · exact h.waitAcquire.dropMonitors.queueError
  next e1 =>
    refine .look ?_
    split
    next e2 => exact (h.waitAcquire.dropMonitors.putQueue.consume _ e1).signalDown _ e2
    · split
      · exact (h.waitAcquire.dropMonitors.putQueue.consume _ e1).putQueue
      · exact h.waitAcquire.dropMonitors.putQueue.consume _ e1

theorem nextOk_waitEndOut {qid op} (h : s.memoryOk) : NextOk (waitEndOut s qid op) := by
  unfold waitEndOut
  split
  · exact .ite (.next h.endWait) (.next h)
  · exact .next h

theorem State.memoryOk.scan {qid} (h : s.memoryOk) : (s.scan qid).memoryOk := by
  unfold State.scan
  split
  · exact h.lookWait
  · split
    · exact .ite h.look h
    · exact h

theorem nextOk_execPacketSlotWatch {qid} (h : s.memoryOk) : NextOk (execPacketSlotWatch qid s) :=
  .ite (.next h.mapQueue.dropMonitors.scan) (.next h)

theorem State.memoryOk.notice {qid} (h : s.memoryOk) : (s.notice qid).memoryOk := by
  unfold State.notice
  dsimp only
  split
  · exact .ite h.mapQueue.readVa.scan h.mapQueue.readVa
  · exact h.mapQueue

theorem nextOk_execQueueNotify {qid} (h : s.memoryOk) : NextOk (execQueueNotify qid s) := by
  unfold execQueueNotify
  split
  · exact .ite (.next h.watchNotify.notice.wake) (.next h)
  · exact .next h

theorem nextOk_execScannerRescan {die} (h : s.memoryOk) : NextOk (execScannerRescan die s) := by
  unfold execScannerRescan
  refine .next (h.foldl (fun _ _ h' => (.ite (.scan (.ite h'.watchNotify h')) ?_)) _)
  split
  · exact .ite h'.watchNotify.notice h'.watchNotify
  · exact .ite h'.notice h'

/-! ## Textures and rays -/

theorem State.memoryOk.texTouch {g a n} (h : s.memoryOk) : (s.texTouch g a n).memoryOk := by
  unfold State.texTouch
  split
  · exact h
  · exact h.engineReads

theorem nextOk_samplerOut {i m d a b gather x} (h : s.memoryOk) : NextOk (samplerOut s i m d a b gather x) := by
  unfold samplerOut
  refine .ite (.next h) (nextOk_issue h (fun _ => ?_))
  dsimp only
  split
  · exact nextOk_trapLanes h
  · refine .ite (.next h) (.ite (nextOk_trapOut (h.foldl (fun _ _ h' => h'.bringBit) _)) ?_)
    split
    · exact nextOk_trapOut (h.foldl (fun _ _ h' => h'.bringBit) _)
    · exact nextOk_trapOut (h.foldl (fun _ _ h' => h'.bringBit) _)
    · exact .next (h.foldl (fun _ _ h' => h'.bringBit) _).putGroup.engineAccept.resultLater.goOn

theorem State.memoryOk.putSampOp {gid o} (h : s.memoryOk) : (s.putSampOp gid o).memoryOk := by
  unfold State.putSampOp
  split
  · exact h.putGroup
  · exact h

theorem State.memoryOk.landEngine {oid vals} (h : s.memoryOk) : (s.landEngine oid vals).memoryOk := by
  unfold State.landEngine
  split
  · exact h.landResult.dropOut
  · exact h

theorem State.memoryOk.startSampler {g op} (h : s.memoryOk) : (s.startSampler g op).memoryOk := h.engineServe

theorem nextOk_execSamplerOpComplete {gid op} (h : s.memoryOk) : NextOk (execSamplerOpComplete gid op s) := by
  unfold execSamplerOpComplete
  split
  · exact .next h
  · split
    · exact .next h
    · refine .ite (.next h) ?_
      split
      · refine .next (.engineChoose ?_)
        split
        · exact (h.startSampler.foldl (fun _ _ h' => h'.texTouch) _).countEvents.landEngine.putGroup
        · exact (h.startSampler.foldl (fun _ _ h' => h'.texTouch) _).countEvents.landEngine
      · exact .next h.tryVa.putSampOp
      · exact .next h.tryVa.putSampOp

theorem State.memoryOk.putRayOp {gid o} (h : s.memoryOk) : (s.putRayOp gid o).memoryOk := by
  unfold State.putRayOp
  split
  · exact h.putGroup
  · exact h

theorem nextOk_acceptRay {f m d anyHit view header args} (h : s.memoryOk) : NextOk (s.acceptRay f m d anyHit view header args) :=
  .next h.putGroup.engineAccept.resultLater.goOn

theorem nextOk_rayOut {i m d a b view anyHit} (h : s.memoryOk) : NextOk (rayOut s i m d a b view anyHit) := by
  unfold rayOut
  refine .ite (.next h) (nextOk_issue h (fun _ => ?_))
  split
  · refine .ite (nextOk_trapOut h) ?_
    split
    · exact nextOk_latchOut h
    · exact .ite (nextOk_trapOut h) (.ite (nextOk_trapOut h) (.ite (.next h) (nextOk_acceptRay h)))
  · refine .ite (nextOk_trapOut h) ?_
    split
    · exact nextOk_latchOut h
    · exact .ite (nextOk_trapOut h) (.ite (nextOk_trapOut h) (.ite (.next h) (nextOk_acceptRay h)))

theorem State.memoryOk.startRay {g op} (h : s.memoryOk) : (s.startRay g op).memoryOk := h.engineServe

theorem nextOk_execRayOpComplete {gid op} (h : s.memoryOk) : NextOk (execRayOpComplete gid op s) := by
  unfold execRayOpComplete
  dsimp only
  split
  · exact .next h
  · split
    · exact .next h
    · refine .ite (.next h) ?_
      split
      · exact .next h.tryVa.putRayOp
      · refine .ite (.next h) (.next (.engineChoose ?_))
        split
        · exact ((h.startRay.foldl (fun _ _ h' => h'.texTouch) _).foldl (fun _ _ h' => h'.engineError) _).landEngine.putGroup
        · exact ((h.startRay.foldl (fun _ _ h' => h'.texTouch) _).foldl (fun _ _ h' => h'.engineError) _).landEngine

theorem State.memoryOk.regroup {g items} (h : s.memoryOk) : (s.regroup g items).memoryOk := by
  unfold State.regroup
  split
  · exact h
  · exact h.fresh.putGroup.addOut

theorem State.memoryOk.placeItems {n gs xs} (h : s.memoryOk) : (s.placeItems n gs xs).memoryOk := by
  induction gs generalizing s xs with
  | nil => exact h
  | cons g gs ih => exact ih h.regroup

theorem State.memoryOk.regroupTeam {tid ring n} (h : s.memoryOk) : (s.regroupTeam tid ring n).memoryOk := by
  unfold State.regroupTeam
  split
  · exact h
  · split
    · exact .ite h (h.foldl (fun _ _ h' => h'.placeItems) _)
    · exact .ite h (h.foldl (fun _ _ h' => h'.placeItems) _)

theorem nextOk_execRgrp {m ring a x} (h : s.memoryOk) : NextOk (execRgrp m ring a x s) := by
  unfold execRgrp
  refine nextOk_issue h fun _ => ?_
  exact .ite (nextOk_trapOut h) (.next h.park.regroupTeam)

/-! ## The scheduler -/

theorem State.memoryOk.at {gid slot} (h : s.memoryOk) : (s.at gid slot).memoryOk := h.setCtl

theorem State.memoryOk.touchCode {f} (h : s.memoryOk) : (s.touchCode f).memoryOk := by
  unfold State.touchCode
  dsimp only
  split
  · exact .ite h.touchWord.touchWord h.touchWord
  · exact h.touchWord

theorem State.memoryOk.fetched (h : s.memoryOk) : s.fetched.memoryOk := by
  unfold State.fetched
  split
  · exact h
  · exact h.touchCode

theorem State.memoryOk.passed {g} (h : s.memoryOk) : (s.passed g).memoryOk := .ite h.setGroups.modCore h.setGroups
theorem State.memoryOk.turned {g slot} (h : s.memoryOk) : (s.turned g slot).memoryOk := h.putGroup.modCore.at
theorem State.memoryOk.passTime {n} (h : s.memoryOk) : (s.passTime n).memoryOk := h.setDies.setCtl

theorem State.memoryOk.nextTurn (h : s.memoryOk) : s.nextTurn.2.memoryOk := by
  unfold State.nextTurn
  split
  · exact h.setCtl
  · exact h

end Sys2Proof.Machine
end

/-! # Canonical memory: the step (R203, R214)

Every arm of the dispatch, then a turn, then the step. -/

section
namespace Sys2Proof.Machine

variable {s : State}

/-- Whatever an instruction or an event leaves, its memories are in canonical form. -/
theorem nextOk_exec (i : Instr) (h : s.memoryOk) : NextOk (exec i s) := by
  cases i with
  | nop => exact nextOk_issue h fun _ => .next h.goOn
  | lit => exact nextOk_execLit h
  | setmImm => exact nextOk_issue h fun _ => .next h.setMode.goOn
  | setmReg => exact nextOk_execSetmReg h
  | getm | mfs => exact nextOk_issue h fun _ => .next h.result.goOn
  | mov | movi | addi | andi | ori | xori | shli | shri | sel | classOp | lea | and | andn | or | xor | shl | shr | sar | rol | fnl
  | fnr | bfx | bfxs | bfi | popc | clz | ctz | brev | pack2 | unpk | vote | xrot | xxor | xbc | qswpx | qswpy | qswpd | qbcst =>
    exact nextOk_laneOp h
  | cmpi | cmp => exact nextOk_compareOp h
  | add | sub | mul | mulh | mad | min | max | abs | neg | cvt | flr | cel | rnd | frc | bfis => exact nextOk_laneEventOp h
  | div | rem | sqrt | rcp | rsq | exp2 | log2 | sin | cos => exact nextOk_laneLateOp h
  | kand | kor | kxor | knot | kmov | kany | kall | atst => exact nextOk_predOp h
  | xred | xscan => exact nextOk_scanOp h
  | ddx | ddy => exact nextOk_derivOp h
  | bra => exact nextOk_issue h fun _ => nextOk_branchOut h
  | brk => exact nextOk_execBrk h
  | join => exact nextOk_execJoin h
  | call => exact nextOk_execCall h
  | ret | jmpi => exact nextOk_issue h fun _ => nextOk_jumpOut h
  | yield | emitv => exact nextOk_issue h fun _ => .next h.putGroup.goOn
  | exit => exact nextOk_issue h fun _ => .next h.exitLanes
  | grow => exact nextOk_issue h fun _ => (.ite (.next h.goOn) (.next h.park))
  | trap => exact nextOk_issue h fun _ => nextOk_trapOut h
  | mts => exact nextOk_issue h fun _ => .next h.writeSysReg.goOn
  | eret => exact nextOk_execEret h
  | halt => exact nextOk_execHalt h
  | cinv | cwb => exact nextOk_issue h fun _ => nextOk_cacheOpOut h
  | tlbi => exact nextOk_issue h fun _ => .next h.fresh.setMsys.goOn
  | rgrel => exact nextOk_execRgrel h
  | ld8 | ld8s | ld16 | ld16s | ld32 | ld64 | ld128 => exact nextOk_loadOp h
  | st8 | st16 | st32 | st64 | st128 => exact nextOk_storeOp h
  | ldacq => exact nextOk_issue h fun _ => nextOk_loadOut h
  | strel => exact nextOk_execStrel h
  | fence => exact nextOk_execFence h
  | acvt => exact nextOk_execAcvt h
  | aadd | amin | aminU | amax | amaxU | aand | aor | axor | axch | amax64 => exact nextOk_localOp h
  | acas => exact nextOk_issue h fun _ => nextOk_localOut h
  | bari => exact nextOk_execBari h
  | bara => exact nextOk_execBara h
  | barw => exact nextOk_execBarw h
  | barx => exact nextOk_execBarx h
  | srpost => exact nextOk_execSrpost h
  | srtake => exact nextOk_execSrtake h
  | srwait => exact nextOk_execSrwait h
  | waitc => exact nextOk_execWaitc h
  | tlwait => exact nextOk_execTlwait h
  | tlread => exact nextOk_execTlread h
  | madd | mmin | mmax | mand | mor | mxor | mxch => exact nextOk_farOpOut h
  | mcas | mbim | mpls | mcas64 => exact nextOk_farThirdOut h
  | mfcs => exact nextOk_issue h fun _ => nextOk_farOut h
  | qenq | qdeq => exact nextOk_issue h fun _ => nextOk_queueOut h
  | qpost => exact nextOk_execQpost h
  | tkget => exact nextOk_execTkget h
  | tkdone => exact nextOk_execTkdone h
  | tkarm => exact nextOk_execTkarm h
  | tkpost => exact nextOk_execTkpost h
  | cpy | cpym | cpys | cpyt | cpyg | cpyx =>
    dsimp only [exec, execCpy, execCpym, execCpys, execCpyt, execCpyg, execCpyx]
    exact nextOk_copyOut h
  | cbmrd => exact nextOk_execCbmrd h
  | gang => exact nextOk_execGang h
  | mma | mmaz => exact nextOk_mmaOut h
  | accld | accst => exact nextOk_accMoveOut h
  | accrd => exact nextOk_execAccrd h
  | mburst => exact nextOk_issue h fun _ => .next h.modCluster.goOn
  | mfree => exact nextOk_execMfree h
  | fcvt => exact nextOk_execFcvt h
  | tex | texg => exact nextOk_samplerOut h
  | emitp => exact nextOk_execEmitp h
  | fbrd => exact nextOk_execFbrd h
  | fbwr => exact nextOk_execFbwr h
  | tret => exact nextOk_execTret h
  | late => exact nextOk_execLate h
  | ray | rayq => exact nextOk_rayOut h
  | rgrp => exact nextOk_execRgrp h
  | egrs => exact nextOk_execEgrs h
  | longLatencyResultReturn => exact nextOk_execLongLatencyResultReturn h
  | farAtomicPerform => exact nextOk_execFarAtomicPerform h
  | requestCombine => exact nextOk_execRequestCombine h
  | combiningStageExit => exact nextOk_execCombiningStageExit h
  | replySplit => exact nextOk_execReplySplit h
  | homeFaultReplay => exact nextOk_execHomeFaultReplay h
  | pageWalkComplete => exact nextOk_execPageWalkComplete h
  | shootdownComplete => exact nextOk_execShootdownComplete h
  | waitcWatchFire => exact .ite (.next h.waitAgain) (.next h)
  | waitcPoll => exact .next h.waitAgain
  | growGrant => exact nextOk_execGrowGrant h
  | ldcapWindowEnd => exact .ite (.next h) (.next h.modCore)
  | preemptRequest => exact nextOk_execPreemptRequest h
  | teamSave => exact nextOk_execTeamSave h
  | preemptTimeout => exact nextOk_execPreemptTimeout h
  | teamResume => exact nextOk_execTeamResume h
  | harvestRevoke => exact nextOk_execHarvestRevoke h
  | harvestResume => exact nextOk_execHarvestResume h
  | firmwareTrapResume => exact nextOk_execFirmwareTrapResume h
  | groupRestart => exact nextOk_execGroupRestart h
  | taskFaultRepost => exact nextOk_execTaskFaultRepost h
  | accOwnerSpill => exact nextOk_execAccOwnerSpill h
  | wakeEvent => exact .next h.wake
  | queueNotify => exact nextOk_execQueueNotify h
  | packetSlotWatch => exact nextOk_execPacketSlotWatch h
  | scannerRescan => exact nextOk_execScannerRescan h
  | nopPacket => exact nextOk_execNopPacket h
  | dispatch => exact nextOk_execDispatch h
  | frame => exact nextOk_execFrame h
  | barrierAnd | timelineWait => exact nextOk_waitOut h
  | barrierAndSatisfied | timelineWaitSatisfied => exact nextOk_waitEndOut h
  | indirect => exact nextOk_execIndirect h
  | taskPool => exact nextOk_execTaskPool h
  | gaze => exact nextOk_execGaze h
  | cacheClass => exact nextOk_execCacheClass h
  | teamPlace => exact nextOk_execTeamPlace h
  | launchComplete => exact nextOk_execLaunchComplete h
  | contextTeardown => exact nextOk_execContextTeardown h
  | tkgetWake => exact nextOk_execTkgetWake h
  | taskEnqueueRetry => exact nextOk_execTaskEnqueueRetry h
  | beaterBatch => exact nextOk_execBeaterBatch h
  | beaterAgeTimeout => exact nextOk_execBeaterAgeTimeout h
  | copyPieceDelivery => exact nextOk_execCopyPieceDelivery h
  | copyOpComplete => exact nextOk_execCopyOpComplete h
  | engineFault => exact nextOk_execEngineFault h
  | engineFaultResume => exact nextOk_execEngineFaultResume h
  | gangOpComplete => exact nextOk_execGangOpComplete h
  | arrayIdleRampdown => exact nextOk_execArrayIdleRampdown h
  | mburstHoldExpiry => exact nextOk_execMburstHoldExpiry h
  | stripLatch => exact nextOk_execStripLatch h
  | amplifierProject => exact nextOk_execAmplifierProject h
  | rasteriseTriangle => exact nextOk_execRasteriseTriangle h
  | stripEndEntries => exact nextOk_execStripEndEntries h
  | tileAreaOpen => exact nextOk_execTileAreaOpen h
  | fbwrRetire => exact nextOk_execFbwrRetire h
  | tretComplete => exact nextOk_execTretComplete h
  | samplerOpComplete => exact nextOk_execSamplerOpComplete h
  | rayOpComplete => exact nextOk_execRayOpComplete h
  | egressArrival => exact nextOk_execEgressArrival h
  | deadlineRule => exact nextOk_execDeadlineRule h
  | frameComplete => exact nextOk_execFrameComplete h
  | linkTrain => exact nextOk_execLinkTrain h
  | hostMemoryWrite => exact nextOk_execHostMemoryWrite h
  | hostMemoryRead => exact nextOk_execHostMemoryRead h
  | eqdropRead => exact .next h.setEvents.setHost
  | hostRegisterWrite => exact nextOk_execHostRegisterWrite h
  | eventQueuedWrite => exact nextOk_execEventQueuedWrite h
  | eventTake => exact nextOk_execEventTake h
  | bootGo => exact .next h.bootStart
  | bootFetchComplete => exact nextOk_execBootFetchComplete h
  | createContext => exact nextOk_execCreateContext h
  | destroyContext => exact nextOk_execDestroyContext h
  | createQueue => exact nextOk_execCreateQueue h
  | destroyQueue => exact nextOk_execDestroyQueue h
  | enableQueue => exact nextOk_execEnableQueue h
  | faultReply => exact nextOk_execFaultReply h
  | invalidate => exact nextOk_execInvalidate h
  | attest => exact nextOk_execAttest h
  | reset => exact .next ⟨wf_filter _ h.1, fun _ hp => nomatch hp⟩
  | powerWindowEnd => exact nextOk_execPowerWindowEnd h
  | thermalSample => exact .next h.modDie
  | notAnInstruction => exact nextOk_execNotAnInstruction h
  | instructionFetchFault => exact nextOk_execInstructionFetchFault h
  | unknownPacketOpcode => exact nextOk_execUnknownPacketOpcode h
  | unknownMailboxOp => exact .ite (.next h) (.next h.setHost.mailReply)
  | requestFromAnotherModule => exact nextOk_execRequestFromAnotherModule h
  | remoteHomeInvalidation => exact nextOk_execRemoteHomeInvalidation h

/-- A fragment's turn touches its code, and runs the instruction there. -/
theorem nextOk_run (h : s.memoryOk) : NextOk s.run := by
  unfold State.run
  split
  · exact .next h
  · exact nextOk_exec _ h.fetched

theorem nextOk_issueTurn {gid slot} (h : s.memoryOk) : NextOk (s.issueTurn gid slot) := by
  unfold State.issueTurn
  split
  · exact .next h
  · refine .ite (nextOk_run h.turned) ?_
    split
    · exact .next h.passed
    · exact .ite (nextOk_run h.passed.turned) (.next h)

theorem nextOk_take (x : Turn) (h : s.memoryOk) : NextOk (s.take x) := by
  cases x with
  | issue gid slot => exact nextOk_issueTurn h
  | event i => exact .ite (nextOk_exec i h) (.next h)
  | evict core line => exact .next (h.foldl (fun _ _ h' => h'.evictLine) _)
  | idle n => exact .next h.passTime

/-- Settles O54: a step is a turn, and every turn leaves canonical memories, since whatever an instruction or an event writes
is written canonically. -/
theorem memoryStaysCanonical : Obligations.MemoryStaysCanonical := fun s t h e => nextOk_take s.nextTurn.1 h.nextTurn t e

end Sys2Proof.Machine
end

/-! # The network: turns, joins, moves, replies, replays (R221, R251, R252, R258 to R264)

Each event finds its request by its number, checks, and does one thing; the lemmas give what it does once its checks pass. -/

section
namespace Sys2Proof.Machine

variable {s : State} {r x y : Req} {h hx hy : Hop} {rest ry : List Hop}

/-! ## Turns and moves -/

/-- R221: RT first, three of SV to one of BK, HV where no other is ready. -/
theorem classTurn_iff : s.classTurn r = true ↔ r.cls = 0 ∨ (s.classReady (s.outputOf r) 0 = false ∧
    ((r.cls = 1 ∧ (s.net.turnOf (s.outputOf r) < 3 ∨ s.classReady (s.outputOf r) 2 = false)) ∨
      (r.cls = 2 ∧ (3 ≤ s.net.turnOf (s.outputOf r) ∨ s.classReady (s.outputOf r) 1 = false)) ∨
      (3 ≤ r.cls ∧ s.classReady (s.outputOf r) 1 = false ∧ s.classReady (s.outputOf r) 2 = false))) := by
  unfold State.classTurn
  rcases hc : r.cls with _ | _ | _ | c
  · simp
  all_goals cases h0 : s.classReady (s.outputOf r) 0 <;> simp [h0, Decidable.or_iff_not_imp_left]

section Found
variable (hr : (s.net.requests.find? fun q => q.rid = r.rid) = some r)
include hr

/-- A move leaves the request behind those that stand at its next point. -/
theorem execCombiningStageExit_eq (hroute : r.route = h :: rest) (h1 : s.net.isFirst r = true) (ht : s.classTurn r = true) :
    execCombiningStageExit r.rid s = .next ((s.countTurn r).setNet { (s.countTurn r).net with
      requests := (s.net.requests.filter fun q => q.rid ≠ r.rid) ++ [{ r with
        route := rest
        entry := s.clock (pointDie (rest.head?.getD h).point)
        noCombine := r.noCombine || (500 ≤ h.point && !(s.net.links[h.point - 500]?).any fun l => l.comb) }] }) := by
  unfold execCombiningStageExit
  simp only [hr, hroute, h1, ht]
  rfl

/-! ## The home -/

theorem execFarAtomicPerform_eq (hroute : r.route = []) (hf : r.faulted = false) (h1 : s.net.isFirst r = true) (ht : s.classTurn r = true) :
    execFarAtomicPerform r.rid s =
      if s.homeFaults r.pa then .next ((s.countTurn r).faultFar r) else .next ((s.countTurn r).performFar r) := by
  unfold execFarAtomicPerform
  simp [hr, hroute, hf, h1, ht]

theorem execHomeFaultReplay_good (hf : r.faulted = true) (hc : s.net.clear r = true) (hg : s.homeFaults r.pa = false) :
    execHomeFaultReplay r.rid s = .next (s.performFar r) := by
  unfold execHomeFaultReplay
  simp [hr, hf, hc, hg]

/-- R252: a replayed request that faults again is given up, and its group, which still runs, traps ACCESS. -/
theorem execHomeFaultReplay_again {g : Group} (hf : r.faulted = true) (hc : s.net.clear r = true) (hg : s.homeFaults r.pa = true)
    (hgr : s.group? r.gid = some g) (he : g.ended = false) (hp : g.phase = .none) :
    execHomeFaultReplay r.rid s = .next (((s.setNet { s.net with
      requests := s.net.requests.filter (fun q => q.rid ≠ r.rid)
      origs := s.net.origs.filter fun o => o.rid ≠ r.rid }).replyLost r.member r.va).trapLate g r.slot r.pc 1 r.va
        (1#64 <<< r.lane)) := by
  unfold execHomeFaultReplay
  simp [hr, hf, hc, hg, hgr, he, hp]

end Found

theorem onlyHomes_flushParts (l : List Req) : OnlyHomes s (l.foldl (fun (u : State) o => u.flushLine o.core (o.pa / 64)) s) :=
  onlyHomes_foldl (fun _ _ => onlyHomes_cleanLines _) l

theorem onlyHomes_ctxOfAsid {t : State} (ht : OnlyHomes s t) (asid : Nat) : t.ctxOfAsid asid = s.ctxOfAsid asid := by
  obtain ⟨_, _, rfl⟩ := ht
  rfl

/-- What changes nothing at any member of a list changes nothing along it. -/
theorem foldl_eq_self {α β : Type} {f : β → α → β} {b : β} {l : List α} (hf : ∀ a ∈ l, ∀ c, f c a = c) : l.foldl f b = b := by
  induction l with
  | nil => rfl
  | cons a l ih =>
    rw [List.foldl_cons, hf a List.mem_cons_self]
    exact ih fun q hq => hf q (List.mem_cons_of_mem a hq)

/-- At a home whose address is no device register, a request that carries no release changes memory by its operation alone. -/
theorem performFar_eq (hd : devicePa r.pa = false) (hrel : ∀ o ∈ s.net.parts r, o.release = none) :
    let s1 := ((s.net.parts r).foldl (fun (u : State) o => u.flushLine o.core (o.pa / 64)) s).request (coreCluster r.core) r.pa r.cls
      (s.ctxOfAsid r.asid) false
    let new := farApply r.op r.unsigned r.size (s1.field r.pa r.size) r.v r.c
    let s2 := s1.writeHome r.pa (bytesOf new.1 r.size)
    s.performFar r = (s2.setNet { s2.net with
      requests := s2.net.requests.filter (fun q => q.rid ≠ r.rid)
      origs := s2.net.origs.filter fun o => !r.origs.contains o.rid }).reply r.member new.2 := by
  unfold State.performFar
  simp only [hd, Bool.false_eq_true, if_false, onlyHomes_ctxOfAsid (onlyHomes_flushParts _)]
  rw [foldl_eq_self (b := State.writeHome _ _ _)]
  intro o ho u
  rw [hrel o ho]

/-! ## Joins and splits -/

/-- The members of a pair, by order. -/
def pairFirst (x y : Req) (hx hy : Hop) : Req := if hy.port < hx.port then y else x
def pairSecond (x y : Req) (hx hy : Hop) : Req := if hy.port < hx.port then x else y

theorem pairOrder_eq : pairOrder x y hx.port hy.port = (pairFirst x y hx hy, pairSecond x y hx hy) := by
  unfold pairOrder pairFirst pairSecond
  split <;> rfl

/-- Whether neither of two requests awaits a reply. -/
def silentPair (x y : Req) : Bool := x.member = .silent && y.member = .silent

/-- The request that a pair goes on as, which stands where the first was held. -/
def joined (s : State) (x y : Req) (hx hy : Hop) (rest : List Hop) : Req :=
  { x with
    v := farOp x.op x.unsigned (8 * x.size) (pairFirst x y hx hy).v (pairSecond x y hx hy).v
    member := if silentPair x y then .silent else .wait s.fresh.1
    route := ⟨hx.point, if hy.port < hx.port then hy.port else hx.port⟩ :: rest
    entry := (pairFirst x y hx hy).entry
    origs := x.origs ++ y.origs }

/-- What the split of a pair's reply needs. -/
def pairWait (s : State) (x y : Req) (hx hy : Hop) : WaitEntry :=
  let p := pairFirst x y hx hy
  ⟨s.fresh.1, p.member, (pairSecond x y hx hy).member, p.v, p.op, p.unsigned, p.size, hx.point, none⟩

/-- R258, R259, R261: a pair that may join does. -/
theorem execRequestCombine_eq (hfx : (s.net.requests.find? fun q => q.rid = x.rid) = some x)
    (hfy : (s.net.requests.find? fun q => q.rid = y.rid) = some y) (hrx : x.route = hx :: rest) (hry : y.route = hy :: ry)
    (hpt : hx.point = hy.point) (hne : x.rid ≠ y.rid) (hm : x.matches y = true) (hclk : s.clock (pointDie hx.point) ≤ x.entry + 4)
    (hj : s.net.mayJoin x y = true) (hb : s.net.before (pairSecond x y hx hy) (pairFirst x y hx hy) = false)
    (hroom : silentPair x y = true ∨
      (s.net.waits.filter fun w => (waitPool w.point).1 = (waitPool hx.point).1).length < (waitPool hx.point).2) :
    execRequestCombine x.rid y.rid s = .next (s.fresh.2.setNet { s.net with
      requests := (s.net.requests.filter fun q => q.rid ≠ y.rid).map fun q => if q.rid = x.rid then joined s x y hx hy rest else q
      waits := if silentPair x y then s.net.waits else s.net.waits ++ [pairWait s x y hx hy] }) := by
  unfold execRequestCombine
  simp only [hfx, hfy, hrx, hry, pairOrder_eq]
  rw [if_neg]
  · rfl
  · have hw : ¬(x.member = .silent ∧ y.member = .silent) →
        (s.net.waits.filter fun w => (waitPool w.point).1 = (waitPool hx.point).1).length < (waitPool hx.point).2 :=
      fun hs => hroom.resolve_left (by simpa [silentPair] using hs)
    simp only [not_and_or] at hw
    simpa [hpt, hne, hm, hj, hb] using ⟨hpt ▸ hw, hpt ▸ hclk⟩

/-- A pair takes the place of its first member: none of the second is left, and the others are as they were. -/
theorem joined_mem (hfx : (s.net.requests.find? fun q => q.rid = x.rid) = some x) (hne : x.rid ≠ y.rid) :
    joined s x y hx hy rest ∈ (s.net.requests.filter fun q => q.rid ≠ y.rid).map fun q =>
      if q.rid = x.rid then joined s x y hx hy rest else q :=
  List.mem_map.2 ⟨x, List.mem_filter.2 ⟨List.mem_of_find?_eq_some hfx, by simpa using hne⟩, if_pos rfl⟩

theorem joined_ne (hne : x.rid ≠ y.rid) (z : Req)
    (hz : z ∈ (s.net.requests.filter fun q => q.rid ≠ y.rid).map fun q => if q.rid = x.rid then joined s x y hx hy rest else q) :
    z.rid ≠ y.rid := by
  obtain ⟨q, hq, rfl⟩ := List.mem_map.1 hz
  split
  · exact hne
  · simpa using (List.mem_filter.1 hq).2

/-- R263: the first member takes the reply, the second the reply with the first one's operand applied. -/
theorem execReplySplit_eq {w : WaitEntry} {v : Nat} (hw : (s.net.waits.find? fun k => k.wid = w.wid) = some w) (hv : w.reply = some v) :
    execReplySplit w.wid s = .next (((s.setNet { s.net with
      waits := s.net.waits.filter fun k => k.wid ≠ w.wid }).reply w.first v).reply w.second
        (farOp w.op w.unsigned (8 * w.size) v w.a)) := by
  unfold execReplySplit
  simp only [hw, hv]

/-- Settles O42, event by event. -/
theorem networkEventsComplete : Obligations.NetworkEventsComplete := by
  intro s r hr
  refine ⟨?_, ?_, classTurn_iff, performFar_eq, ?_, ?_, ?_, ?_, fun w v hw hv => execReplySplit_eq hw hv⟩
  · intro hroute hf hp hg
    exact (execFarAtomicPerform_eq hr hroute hf hp.1 hp.2).trans (if_neg (by simp [hg]))
  · intro hroute hf hp hg
    exact (execFarAtomicPerform_eq hr hroute hf hp.1 hp.2).trans (if_pos hg)
  · exact fun h rest hroute hp => execCombiningStageExit_eq hr hroute hp.1 hp.2
  · exact fun hf hc hg => execHomeFaultReplay_good hr hf hc hg
  · exact fun g hf hc hg hgr he hp => execHomeFaultReplay_again hr hf hc hg hgr he hp
  · intro y hx hy rest ry hfy hrx hry hpt hne hm hclk hj p q hb silent hroom
    have hs : silentPair r y = true ↔ silent := by simp [silentPair, silent]
    refine ⟨_, joined s r y hx hy rest, execRequestCombine_eq hr hfy hrx hry hpt hne hm hclk hj hb (hroom.imp_left hs.2),
      joined_mem hr hne, rfl, rfl, rfl, rfl, rfl, rfl, joined_ne hne, fun h => ?_, fun h => ⟨s.fresh.1, ?_⟩⟩
    · exact ⟨if_pos (hs.2 h), if_pos (hs.2 h)⟩
    · have h' : ¬silentPair r y = true := fun k => h (hs.1 k)
      exact ⟨if_neg h', if_neg h'⟩

end Sys2Proof.Machine
end

/-! # Packets in their turn, and the scanner (R222, R278 to R281, R285 to R290, R386) -/

section
namespace Sys2Proof.Machine

variable {s u v : State} {qid op : Nat} {p : Packet} {used : List (Nat × Nat)} {body : Packet → State → Served}

/-! ## Serving a packet -/

/-- R278: a good packet has its effect, is consumed, and the next one is looked at. -/
theorem packetOut_consumes (ht : s.turn qid = some p) (hh : p.headerOk = true) (hop : p.op = op) (hb : p.bodyOk used = true)
    (hu : body p (s.tookTurn p.q) = .ok u) (hv : u.consume p.q.qid = .ok v) : packetOut s qid op used body = .next (v.look p.q.qid) := by
  unfold packetOut State.serve
  simp only [ht, hop, hh, hb, hu, hv]
  rfl

/-- A queue that waits in its packet. -/
def heldQueue (p : Packet) : Queue := { p.q with awake := false, waiting := some p.bytes }

/-- R279, R285: a packet that waits is kept in its queue, which looks at what it waits for. -/
theorem waitOut_holds {ok : Packet → Bool} (ht : s.turn qid = some p) (hh : p.headerOk = true) (hop : p.op = op) (hb : p.bodyOk used = true)
    (hok : ok p = true) :
    waitOut s qid op used ok = .next (((s.tookTurn p.q).putQueue (heldQueue p)).lookWait { p with q := heldQueue p }) := by
  unfold waitOut heldQueue
  simp [ht, hop, hh, hb, hok]

theorem waitEndOut_met (hp : s.waitingPacket qid = some p) (hm : s.waitState p = .met) (hop : p.op = op) (hh : op = 3 → p.q.held = none) :
    waitEndOut s qid op = .next (s.endWait p) := by
  unfold waitEndOut
  simp only [hp]
  exact if_pos (by simpa [hop, hm, Decidable.or_iff_not_imp_left] using hh)

/-! ## The packets -/

/-- What a good GAZE does. -/
def State.gazed (s : State) (p : Packet) : State :=
  ((s.frames.filter fun fr => fr.die = p.q.die && fr.vset = p.f 8 4).foldl State.latchDue s).modDie p.q.die fun d => { d with
    viewSets := d.viewSets.modify (p.f 8 4) fun x => x.gaze (p.f 0xC 2) (BitVec.ofNat 32 (p.f 0x10 4)) (BitVec.ofNat 32 (p.f 0x14 4)) }

/-- A context's quota, if there is a context of that number; an RT context's is at least 4. -/
def State.setQuota (s : State) (ctxid n : Nat) : State :=
  match s.ctx? ctxid with
  | some c => s.putCtx { c with quota := if c.cls = 0 then max 4 n else n }
  | none => s

section Turn
variable (ht : s.turn qid = some p) (hh : p.headerOk = true)
include ht hh

/-- R281: a good DISPATCH starts its launch. -/
theorem execDispatch_consumes {t : State} {k : KDesc} (hop : p.op = 1) (hb : p.bodyOk [(4, 60)] = true) (hl : p.launchOk = true)
    (hc : p.f 6 1 ≤ 4) (ha : p.f 0x28 8 % 4096 = 0) (hk : (s.tookTurn p.q).packetKernel p (p.f 8 8) = .ok (t, k)) :
    let l := p.launch t.fresh.1 .grid k (p.f 6 1) (16 * (p.f 0x24 2 + 1)) (p.f 0x26 2) (p.f 0x28 8)
    gridOk p.c k l.total l.clsize = true → (t.fresh.2.startLaunch l).consume p.q.qid = .ok v →
      execDispatch qid s = .next (v.look p.q.qid) := by
  intro l hg hv
  refine packetOut_consumes ht hh hop hb ?_ hv
  simp only [hl, hk]
  rw [if_neg (by simp [hc, ha]), if_pos hg]

/-- R386: a good FRAME starts its meshlets' launch and the frame. -/
theorem execFrame_consumes {t w : State} {k : KDesc} {fr : Frame} (hop : p.op = 2)
    (hb : p.bodyOk [(4, 2), (7, 29), (0x24, 2), (0x28, 24)] = true) (hl : p.launchOk = true) (hf : p.f 7 1 < 16)
    (hset : p.f 0x24 2 ≤ 15) (ha : p.f 0x28 8 % 256 = 0) (hk : (s.tookTurn p.q).packetKernel p (p.f 8 8) = .ok (t, k)) :
    let l := p.launch t.fresh.1 (.meshlets t.fresh.2.fresh.1) k 0 0 0 0
    gridOk p.c k l.total 0 = true → l.total * k.ngroups < 2 ^ 25 → t.fresh.2.fresh.2.readFrame p (p.f 0x28 8) = .ok (w, fr) →
      ((w.startLaunch l).startFrame { fr with fid := t.fresh.2.fresh.1, lid := t.fresh.1 } l.prio).consume p.q.qid = .ok v →
        execFrame qid s = .next (v.look p.q.qid) := by
  intro l hg hn hr hv
  refine packetOut_consumes ht hh hop hb ?_ hv
  simp only [hl, hk]
  rw [if_neg (by simp [hf, hset, ha]), if_neg, hr]
  · rfl
  · simpa using ⟨hg, hn⟩

theorem execTaskPool_consumes (hop : p.op = 6) (hb : p.bodyOk [(8, 20)] = true)
    (hu : (s.tookTurn p.q).pokeVa p.ag (p.f 8 8 + 0x40) (bytesOf (p.f 0x10 8) 8 ++ bytesOf (p.f 0x18 4) 4 ++ bytesOf 0 4) = .ok u)
    (hv : u.consume p.q.qid = .ok v) : execTaskPool qid s = .next (v.look p.q.qid) :=
  packetOut_consumes ht hh hop hb (by simp only [hu]) hv

/-- R392: a good GAZE writes the pending pairs of its views, behind the latches that are due. -/
theorem execGaze_consumes (hop : p.op = 7) (hb : p.bodyOk [(8, 6), (0x10, 8)] = true) (hset : p.f 8 4 ≤ 15)
    (hv : ((s.tookTurn p.q).gazed p).consume p.q.qid = .ok v) : execGaze qid s = .next (v.look p.q.qid) :=
  packetOut_consumes ht hh hop hb (if_neg (by omega)) hv

/-- R222: a good CACHE_CLASS of a privileged queue sets the classes' quotas and the context's, if there is one of its number. -/
theorem execCacheClass_consumes (hop : p.op = 8) (hb : p.bodyOk [(8, 2), (0xC, 5)] = true) (hq : p.q.qflags % 2 = 1)
    (hw : p.f 8 1 + p.f 9 1 ≤ 12) (hn : p.f 0x10 1 ≤ 16)
    (hv : (State.setQuota ((s.tookTurn p.q).setMsys { (s.tookTurn p.q).msys with svQuota := p.f 8 1, bkQuota := p.f 9 1 }) (p.f 0xC 4)
      (p.f 0x10 1)).consume p.q.qid = .ok v) : execCacheClass qid s = .next (v.look p.q.qid) := by
  refine packetOut_consumes ht hh hop hb ?_ hv
  dsimp only
  rw [if_neg (by omega), if_neg (by simp [hw, hn])]
  rfl

theorem execBarrierAnd_holds (hop : p.op = 3) (hb : p.bodyOk [(8, 40), (0x38, 8)] = true) (ha : p.f 0x38 8 % 8 = 0) :
    execBarrierAnd qid s = .next (((s.tookTurn p.q).putQueue (heldQueue p)).lookWait { p with q := heldQueue p }) :=
  waitOut_holds ht hh hop hb (by simpa using ha)

theorem execTimelineWait_holds (hop : p.op = 5) (hb : p.bodyOk [(8, 16)] = true) (ha : p.f 8 8 % 8 = 0) :
    execTimelineWait qid s = .next (((s.tookTurn p.q).putQueue (heldQueue p)).lookWait { p with q := heldQueue p }) :=
  waitOut_holds ht hh hop hb (by simpa using ha)

/-- R286: after a good INDIRECT the queue goes on in the buffer. -/
theorem execIndirect_goesOn (hop : p.op = 4) (hi : p.q.indirect = none) (hb : p.bodyOk [(8, 12)] = true) (ha : p.f 8 8 % 64 = 0)
    (hl : p.f 0x10 4 % 64 = 0) (hn : p.f 0x10 4 ≤ 2 ^ 24) :
    execIndirect qid s = .next (((s.tookTurn p.q).putQueue
      { p.q with awake := false, indirect := some ⟨p.f 8 8, p.f 0x10 4, 0, 0, []⟩ }).look qid) := by
  unfold execIndirect
  simp only [ht]
  rw [if_neg (not_not.2 hop), if_neg (by simp [hi]), if_neg (by simpa [hh, hb, ha, hl] using hn)]

end Turn

/-- R287: a packet of an opcode that none has stops its queue. -/
theorem execUnknownPacketOpcode_eq (ht : s.turn qid = some p) (hop : 9 ≤ p.op) :
    execUnknownPacketOpcode qid s = .next ((s.tookTurn p.q).queueError p.q 1 p.op 0) := by
  unfold execUnknownPacketOpcode
  simp only [ht]
  rw [if_pos hop]

/-! ## The scanner -/

theorem execPacketSlotWatch_eq (hm : (s.msys.monitors.any fun m => m.isPacket qid && m.fired) = true) (hr : s.noRoom qid = false) :
    execPacketSlotWatch qid s = .next (((s.mapQueue qid).dropMonitors (Monitor.isPacket qid)).scan qid) := by
  unfold execPacketSlotWatch
  rw [hm, hr]
  rfl

theorem execQueueNotify_eq {q : Queue} (hq : s.queue? qid = some q) (hst : q.state ≤ 1)
    (hm : (s.msys.monitors.any fun m => m.isNotify qid && m.fired) = true) (hr : s.noRoom qid = false) :
    execQueueNotify qid s = .next (((s.watchNotify q).notice qid).wake q.die) := by
  have hst' : q.state = 0 ∨ q.state = 1 := by omega
  unfold execQueueNotify
  simp only [hq, hm, hr]
  exact if_pos (by simpa using hst')

/-- R289, R290: a rescan looks at every queue of the die that lacks a watch, and sets its notify line's watch where that is the one. -/
theorem execScannerRescan_eq (die : Nat) :
    execScannerRescan die s = .next ((s.queues.filter fun q => q.die = die && (q.state = 0 || q.state = 1) && s.lacksWatch q).foldl
      (fun (u : State) q =>
        let v := if u.msys.monitors.any (Monitor.isNotify q.qid) then u else u.watchNotify q
        if q.state = 1 then v.scan q.qid else if v.hasNew q then v.notice q.qid else v) s) := by
  have hw (u : State) (q : Queue) :
      (if u.lacksNotify q then u.watchNotify q else u) = if u.msys.monitors.any (Monitor.isNotify q.qid) then u else u.watchNotify q := by
    unfold State.lacksNotify
    cases u.msys.monitors.any (Monitor.isNotify q.qid) <;> rfl
  unfold execScannerRescan
  simp only [hw]

/-- Settles O48, packet by packet and event by event. -/
theorem packetsComplete : Obligations.PacketsComplete := by
  intro s qid die p
  refine ⟨fun ht hh => ⟨?_, ?_, ?_, ?_, ?_, ?_, ?_, ?_, ?_⟩, execUnknownPacketOpcode_eq, fun hp hm => ⟨fun hop hheld => ?_, fun hop => ?_⟩,
    execPacketSlotWatch_eq, fun q => execQueueNotify_eq, execScannerRescan_eq die⟩
  · intro hop hb u v hu hv
    exact packetOut_consumes ht hh hop hb (congrArg Except.ok hu.symm) hv
  · rintro hop hb u v ⟨hl, hc, ha, t, k, hk, hg, rfl⟩ hv
    exact execDispatch_consumes ht hh hop hb hl hc ha hk hg hv
  · rintro hop hb u v ⟨hl, hf, hset, ha, t, k, w, fr, hk, hg, hn, hr, rfl⟩ hv
    exact execFrame_consumes ht hh hop hb hl hf hset ha hk hg hn hr hv
  · intro hop hb u v hu hv
    exact execTaskPool_consumes ht hh hop hb hu hv
  · rintro hop hb u v ⟨hset, rfl⟩ hv
    exact execGaze_consumes ht hh hop hb hset hv
  · rintro hop hb u v ⟨hq, hw, hn, rfl⟩ hv
    exact execCacheClass_consumes ht hh hop hb hq hw hn hv
  · exact fun hop hb ha => execBarrierAnd_holds ht hh hop hb ha
  · exact fun hop hb ha => execTimelineWait_holds ht hh hop hb ha
  · exact fun hop hi hb ha hl hn => execIndirect_goesOn ht hh hop hi hb ha hl hn
  · exact waitEndOut_met hp hm hop fun _ => hheld
  · exact waitEndOut_met hp hm hop fun h => absurd h (by decide)

end Sys2Proof.Machine
end

/-! # RESET and a memory out of order (R449)

`Memory.byte` reads a memory in rising order of address and stops at the first greater one, which is right of a memory in canonical
form, the form that every step keeps. `HostEventsComplete` speaks of every state. In one whose memory lists a greater address first, a byte
behind it reads as unlisted; where RESET drops the greater one and keeps the other, the byte then reads as listed. -/

section
namespace Sys2Proof.Machine

/-- A byte just above host memory, listed before the first byte of host memory. -/
def fallingMemory : Memory := [(0x200000000000, 1), (0x100000000000, 1)]

/-- The first byte of host memory is behind a greater address, and reads as unlisted. -/
theorem byte_fallingMemory : fallingMemory.byte 0x100000000000 = 0 := by decide

/-- RESET keeps host memory alone of it, whose first byte then reads as listed. -/
theorem execReset_fallingMemory :
    execReset (State.reset.setMem fallingMemory) = .next ((State.reset.setCtl State.reset.ctl).setMem [(0x100000000000, 1)]) :=
  congrArg (fun m => Host.Outcome.next ((State.reset.setCtl State.reset.ctl).setMem m)) (by decide)

/-- Refutes O49: from a memory that is not in canonical form, RESET changes a byte of host memory. -/
theorem not_hostEventsComplete : ¬ Obligations.HostEventsComplete := by
  intro h
  obtain ⟨-, -, -, -, -, -, -, -, -, -, -, -, -, -, -, -, -, ⟨u, hu, -, hbyte⟩, -⟩ :=
    h (State.reset.setMem fallingMemory) 0 0 0 0 0 0 0 0 [] 0 false [] 0
  obtain rfl := Host.Outcome.next.inj (execReset_fallingMemory.symm.trans hu)
  have hkept : (1 : Byte) = fallingMemory.byte 0x100000000000 := hbyte 0x100000000000
  exact absurd (hkept.trans byte_fallingMemory) (by decide)

end Sys2Proof.Machine
end

/-! # Far atomics (R231 to R233, R250 to R257)

Every form is one send, of its opcode, its size and its operands. What a send does beside entering the network lies at the homes, so the group
is still there to take the release off. -/

section
namespace Sys2Proof.Machine

variable {s : State} {f : Frag} {j : Instr} {m : Marks} {d a b : Code} {c : BitVec 4} {z : BitVec 2} {op size w : Nat} {nr unsigned : Bool}
  {v third : Nat → Nat} {g : Group}

/-! ## The group stays -/

theorem gid_expect (slot : Nat) (o : Opnd) (oid : Nat) : (g.expect slot o oid).gid = g.gid := gid_setQueue _ _ _

/-- A group put under the number of one that is there is found under it. -/
theorem group?_putGroup_of_gid {x : Group} {k : Nat} (hx : s.group? k = some x) (hg : g.gid = k) : (s.putGroup g).group? k = some g := by
  subst hg
  exact group?_putGroup_self hx

theorem group?_resultLater {vals : List Nat} {active : LaneMask} {left : Nat} {kind : OutKind} (hg : s.group? f.g.gid = some g) :
    (s.resultLater f d w vals active left kind).group? f.g.gid = some (g.expect f.slot ⟨d.toNat, w⟩ s.ctl.nextId) := by
  have hfresh : s.fresh.2.group? f.g.gid = some g := hg
  unfold State.resultLater
  simp only [hfresh]
  exact group?_putGroup_of_gid hfresh ((gid_expect _ _ _).trans (group?_gid hg))

theorem group?_noteRead {x : Group} (hx : s.group? g.gid = some x) (lines : List Nat) :
    (s.noteRead g lines).group? g.gid = some { x with lastRead := lines, readIn := none } := by
  unfold State.noteRead
  simp only [hx]
  exact group?_putGroup_of_gid hx (group?_gid (g := x) hx)

theorem group?_writerVals (vals : List Nat) (k : Nat) : (s.writerVals f vals).1.group? k = s.group? k := by
  unfold State.writerVals
  split <;> rfl

theorem onlyHomes_installBit (ag : Agent) (x : Bit) : OnlyHomes s (s.installBit ag x) := by
  unfold State.installBit
  split
  · exact onlyHomes_install _ _ _
  · exact onlyHomes_refl

/-- A request enters the network from a state that differs from the one before at the homes alone. -/
theorem group?_sendFar {ag : Agent} {gid slot lane : Nat} {pc : Addr} {x : Bit} {v c : Nat} {release : Option Nat} {mem : Member} (k : Nat) :
    (s.sendFar ag gid slot lane pc op unsigned size x v c release mem).group? k = s.group? k :=
  onlyHomes_group? (s := s.fresh.2)
    (onlyHomes_trans (onlyHomes_trans (onlyHomes_installBit ag x) (onlyHomes_cleanLines _)) (onlyHomes_touchHome _ _)) k

/-! ## Sending -/

/-- A far atomic's result under way, if it has one, over `n` lanes. -/
def State.farAwaited (s : State) (f : Frag) (d : Code) (w : Nat) (nr : Bool) (n : Nat) : State :=
  let u := s.writerVals f (perLane fun _ => 0)
  if nr then u.1 else u.1.resultLater f d w u.2 f.active n .far

/-- One request for each lane's access, which answers to result `oid`. -/
def State.farSent (s : State) (f : Frag) (op : Nat) (unsigned : Bool) (size : Nat) (nr : Bool) (v third : Nat → Nat) (oid : Nat) (xs : List LaneAccess) : State :=
  xs.foldl (fun (y : State) x => match x.pieces with
    | p :: _ => y.sendFar (y.agentOf f.g) f.g.gid f.slot x.lane f.sl.pc op unsigned size p (v x.lane) (third x.lane) f.g.relScope
        (if nr then .silent else .lane oid x.lane)
    | [] => y) s

/-- A far atomic with a result is the group's last read. -/
def State.farNoted (s : State) (f : Frag) (nr : Bool) (lines : List Nat) : State := if nr then s else s.noteRead f.g lines

/-- The accesses of a far atomic's lanes. -/
def State.farLanes (s : State) (f : Frag) (a : Code) (size : Nat) : List LaneAccess := s.checkLanes f.g .far [3] size size (f.src a 2) (lanesOf f.writers)

theorem group?_farAwaited (hf : s.frag? = some f) (n : Nat) : ∃ g, (s.farAwaited f d w nr n).group? f.g.gid = some g := by
  have hg := (group?_writerVals (f := f) (perLane fun _ => 0) f.g.gid).trans (frag?_some hf).1
  cases nr with
  | true => exact ⟨_, hg⟩
  | false => exact ⟨_, group?_resultLater hg⟩

theorem group?_farSent (oid : Nat) (xs : List LaneAccess) (k : Nat) :
    (s.farSent f op unsigned size nr v third oid xs).group? k = s.group? k := by
  refine foldl_keeps (fun u : State => u.group? k) (fun u x => ?_) xs
  split
  · exact group?_sendFar k
  · rfl

theorem group?_farNoted (hg : ∃ g, s.group? f.g.gid = some g) (lines : List Nat) : ∃ g, (s.farNoted f nr lines).group? f.g.gid = some g := by
  obtain ⟨g, hg⟩ := hg
  cases nr with
  | true => exact ⟨g, hg⟩
  | false => exact ⟨_, group?_noteRead hg lines⟩

/-- A far atomic that raises nothing and that nothing holds sends its lanes' requests; if there are any, they carry the release. -/
theorem farOut_go (hf : s.frag? = some f) (ht : lanesTrap 1 (s.farLanes f a size) = none) (hl : s.loadsOpen f.g = false)
    (hacross : s.farAcross f.g (linesOfLanes (s.farLanes f a size)) = false)
    (hlate : s.lateAhead f.g (memLines ((s.farLanes f a size).flatMap LaneAccess.pieces)) = false) :
    let xs := s.farLanes f a size
    let u := ((s.farAwaited f d w nr xs.length).farSent f op unsigned size nr v third s.ctl.nextId xs).farNoted f nr (linesOfLanes xs)
    ∃ g, u.group? f.g.gid = some g ∧ farOut s f m d a op unsigned size w nr v third =
      .next ((u.putGroup { g with relScope := if xs.isEmpty then g.relScope else none }).goOn f m) := by
  intro xs u
  obtain ⟨g, hg⟩ : ∃ g, u.group? f.g.gid = some g := by
    obtain ⟨x, hx⟩ := group?_farAwaited (d := d) (w := w) (nr := nr) hf xs.length
    exact group?_farNoted ⟨x, (group?_farSent _ _ _).trans hx⟩ _
  refine ⟨g, hg, ?_⟩
  have hdo : farOut s f m d a op unsigned size w nr v third =
      .next (State.goOn (match u.group? f.g.gid with
        | some g => u.putGroup { g with relScope := if xs.isEmpty then g.relScope else none }
        | none => u) f m) := by
    unfold farOut
    unfold State.farLanes at ht hacross hlate
    simp only [ht, hl, hacross, hlate]
    rfl
  rw [hdo, hg]

/-- What MADD to MXCH need (R253). -/
def farOpNeed (d a b : Code) (nr : Bool) (w : Nat) : Need :=
  { srcs := [opnd a 2], srcB := some (opnd b w), dst := if nr then none else some (opnd d w), late := !nr }

theorem farOpOut_go (h : Runs s f j m (farOpNeed d a b nr (farWords z))) : farOpOut s j m d a b op nr unsigned z =
    farOut s f m d a op unsigned (4 * farWords z) (farWords z) nr (f.srcB b (farWords z)) fun _ => 0 := issue_go h

/-- What a far atomic with a third operand needs (R254, R256, R257). -/
def farThirdNeed (d a b : Code) (c : BitVec 4) (w : Nat) : Need :=
  { srcs := [opnd a 2], srcB := some (opnd b w), srcC := some (opnd (cCode d c) w), dst := some (opnd d w), late := true }

theorem farThirdOut_go (h : Runs s f j m (farThirdNeed d a b c w)) : farThirdOut s j m d a b c op w =
    farOut s f m d a op false (4 * w) w false (f.srcB b w) (f.src (cCode d c) w) := issue_go h

theorem exec_mfcs (h : Runs s f (.mfcs m d a) m { srcs := [opnd a 2], dst := some (opnd d 1), late := true }) :
    exec (.mfcs m d a) s = farOut s f m d a 0xC8 false 8 1 false (fun _ => 0) fun _ => 0 := issue_go h

/-- Settles O29: each far atomic is the same send, of its opcode, its size and its operands. -/
theorem farAtomicsComplete : Obligations.FarAtomicsComplete := by
  intro s f m d a b n u z c sends w two three
  have hsends {j : Instr} {need : Need} {op size w : Nat} {unsigned nr : Bool} {v third : Nat → Nat}
      (hj : Runs s f j m need → exec j s = farOut s f m d a op unsigned size w nr v third) : sends j need op unsigned size w nr v third := by
    intro h ht hl hacross hlate
    obtain ⟨g, hg, hgo⟩ := farOut_go (m := m) (d := d) (op := op) (unsigned := unsigned) (w := w) (nr := nr) (v := v) (third := third) h.1 ht hl hacross hlate
    exact ⟨g, hg, (hj h).trans hgo⟩
  have hop {j : Instr} {op : Nat} {unsigned : Bool} (hj : exec j s = farOpOut s j m d a b op n unsigned z) :
      sends j (two n) op unsigned (4 * w) w n (f.srcB b w) fun _ => 0 := hsends fun h => hj.trans (farOpOut_go h)
  have hthird {j : Instr} {op w : Nat} (hj : exec j s = farThirdOut s j m d a b c op w) :
      sends j (three w) op false (4 * w) w false (f.srcB b w) (f.src (cCode d c) w) := hsends fun h => hj.trans (farThirdOut_go h)
  exact ⟨hop rfl, hop rfl, hop rfl, hop rfl, hop rfl, hop rfl, hop rfl, hthird rfl, hsends exec_mfcs, hthird rfl, hthird rfl, hthird rfl⟩

end Sys2Proof.Machine
end

/-! # QENQ, QDEQ and QPOST (R238, R265 to R267, R270)

A QENQ or QDEQ first has its result under way and goes on; its lanes then take their indexes, in the group and the result that this has left. -/

section
namespace Sys2Proof.Machine

variable {s t : State} {f : Frag} {m : Marks} {d a b : Code}

/-! ## A result that is under way -/

/-- An element added under a key that none has is found under it. -/
theorem pick_append_new {α : Type} {key : α → Nat} {k : Nat} {l : List α} {x : α} (h : pick key k l = none) (hx : key x = k) :
    pick key k (l ++ [x]) = some x := by
  unfold pick at h ⊢
  rw [List.find?_append, h]
  simp [hx]

/-- A result under way is found under the number that it has taken, where no other stands under it. -/
theorem Awaits.out? {n left : Nat} {active : LaneMask} {vals : List Nat} {kind : OutKind} (h : Awaits s f m d n active vals left kind t)
    (hnew : s.out? s.ctl.nextId = none) : ∃ r, t.out? s.ctl.nextId = some r ∧ r.kind = kind := by
  obtain ⟨g, rfl, -⟩ := h
  exact ⟨⟨s.ctl.nextId, f.g.gid, f.slot, d, n, active, vals, left, kind, f.sl.pc, false⟩, pick_append_new (key := Outst.oid) hnew rfl, rfl⟩

/-- Its group is still there. -/
theorem Awaits.group? {n left : Nat} {active : LaneMask} {vals : List Nat} {kind : OutKind} {x : Group} (h : Awaits s f m d n active vals left kind t)
    (hx : s.group? f.g.gid = some x) : ∃ g, t.group? f.g.gid = some g := by
  obtain ⟨g, rfl, -, honly, -⟩ := h
  have hgid : g.gid = f.g.gid := by rw [honly.rest]
  exact ⟨g, group?_putGroup_of_gid (s := s) hx hgid⟩

/-! ## QENQ and QDEQ -/

/-- The accesses of a QENQ's or QDEQ's lanes to their descriptors, and to the entries that they read or write. -/
def State.descLanes (s : State) (f : Frag) (a : Code) : List LaneAccess := s.checkLanes f.g .wr [3] 64 64 (f.src a 2) (lanesOf f.writers)
def State.entryLanes (s : State) (f : Frag) (b : Code) (acc : Acc) : List LaneAccess :=
  s.checkLanes f.g acc [1, 2, 3] 8 32 (f.srcB b 2) (lanesOf f.writers)

/-- What each lane of a QENQ or QDEQ waits for at first: its descriptor. -/
def Frag.stampWaits (f : Frag) (a b : Code) (enq : Bool) : List StampWait :=
  (lanesOf f.writers).map fun l => ⟨l, enq, 0, 0, 0, 0, BitVec.ofNat 64 (f.srcB b 2 l), some (f.src a 2 l), false, f.g.relScope⟩

/-- The state in which a QENQ's or QDEQ's result comes under way: a QDEQ is the group's last read. -/
def State.queueNoted (s : State) (f : Frag) (enq : Bool) (lines : List Nat) : State :=
  let u := s.writerVals f (perLane fun _ => 0)
  if enq then u.1 else u.1.noteRead f.g lines

/-- The fragment in that state. -/
def Frag.queueNoted (f : Frag) (enq : Bool) (lines : List Nat) : Frag :=
  { f with g := if enq then f.g else { f.g with lastRead := lines, readIn := none } }

theorem frag?_writerVals (vals : List Nat) : (s.writerVals f vals).1.frag? = s.frag? := by
  unfold State.writerVals
  split <;> rfl

theorem frag?_queueNoted (hf : s.frag? = some f) (enq : Bool) (lines : List Nat) :
    (s.queueNoted f enq lines).frag? = some (f.queueNoted enq lines) := by
  have hu := (frag?_writerVals (f := f) (perLane fun _ => 0)).trans hf
  cases enq with
  | true => exact hu
  | false => exact frag?_noteRead hu lines

theorem writerVals_outs (vals : List Nat) : (s.writerVals f vals).1.ctl.nextId = s.ctl.nextId ∧ (s.writerVals f vals).1.outs = s.outs := by
  unfold State.writerVals
  split <;> exact ⟨rfl, rfl⟩

theorem noteRead_outs (g : Group) (lines : List Nat) : (s.noteRead g lines).ctl = s.ctl ∧ (s.noteRead g lines).outs = s.outs := by
  unfold State.noteRead
  split <;> exact ⟨rfl, rfl⟩

/-- Neither free values nor the note of a read put a result under way. -/
theorem queueNoted_outs (enq : Bool) (lines : List Nat) :
    (s.queueNoted f enq lines).ctl.nextId = s.ctl.nextId ∧ (s.queueNoted f enq lines).outs = s.outs := by
  have hu := writerVals_outs (s := s) (f := f) (perLane fun _ => 0)
  cases enq with
  | true => exact hu
  | false =>
    obtain ⟨hctl, houts⟩ := noteRead_outs (s := (s.writerVals f (perLane fun _ => 0)).1) f.g lines
    exact ⟨(congrArg Ctl.nextId hctl).trans hu.1, houts.trans hu.2⟩

/-- A result under way in that state: neither it nor going on looks at what the group has noted. -/
theorem awaits_queueNoted (hf : s.frag? = some f) (enq : Bool) {lines vals : List Nat} {n left : Nat} {active : LaneMask} {kind : OutKind} :
    Awaits (s.queueNoted f enq lines) (f.queueNoted enq lines) m d n active vals left kind
      (((s.queueNoted f enq lines).resultLater f d n vals active left kind).goOn f m) := by
  cases enq with
  | true => exact awaits_resultLater (frag?_queueNoted hf true lines)
  | false => exact awaits_noted (frag?_queueNoted hf false lines)

theorem gid_queueNoted (enq : Bool) (lines : List Nat) : (f.queueNoted enq lines).g.gid = f.g.gid := by
  cases enq <;> rfl

/-- The release that a group carries is gone once a lane has taken an index or is still to take one (R238). -/
def StampRun.released (r : StampRun) (g : Group) : Group :=
  if r.ws ≠ [] || r.res.any (fun p => p.2 < queueBad) then { g with relScope := none } else g

theorem queueOut_go {enq : Bool} (ht : pairTrap 1 (if enq then 0 else 1) (s.descLanes f a) (s.entryLanes f b (if enq then .rd else .wr)) = none)
    (hrel : s.relBusy f.g = false) {r : Outst} {g : Group} :
    let u := s.writerVals f (perLane fun _ => 0)
    let ws := f.stampWaits a b enq
    let t := ((s.queueNoted f enq (linesOfLanes (s.descLanes f a))).resultLater f d 2 u.2 f.active 0 (.queue ws)).goOn f m
    t.out? s.ctl.nextId = some r → t.group? f.g.gid = some g →
      queueOut s f m d a b enq = .next ((t.putGroup ((t.stampSteps g ws).released g)).runStamps r ((t.stampSteps g ws).released g) ws) := by
  intro u ws t hr hg
  have hdo : queueOut s f m d a b enq = match t.out? s.ctl.nextId, t.group? f.g.gid with
      | some r, some g => .next ((t.putGroup ((t.stampSteps g ws).released g)).runStamps r ((t.stampSteps g ws).released g) ws)
      | _, _ => .next t := by
    unfold queueOut
    unfold State.descLanes State.entryLanes at ht
    simp only [ht, hrel]
    rfl
  rw [hdo, hr, hg]

theorem exec_qpost {flush : Bool} (h : Runs s f (.qpost m d a b flush) m { srcs := [opnd a 2], srcB := some (opnd b 2), dst := some (opnd d 1), late := true }) :
    let xs := s.checkLanes f.g .wr [1, 2] 64 64 (f.src a 2) (lanesOf f.writers)
    let ys := s.entryLanes f b .rd
    let posts := s.postLanes f.g flush (xs.zip ys)
    let u := (posts.1.noteWrite f.g ((xs.zip posts.2).flatMap fun p => posts.1.postLines p.1 p.2.2)).writerVals f (laneValues posts.2)
    pairTrap 1 0 xs ys = none → s.relBusy f.g = false →
      exec (.qpost m d a b flush) s = .next ((u.1.resultLater f d 1 u.2 f.active 0 .alu).goOn f m) := by
  intro xs ys posts u ht hrel
  refine (issue_go (f := f) h).trans ?_
  change pairTrap 1 0 (s.checkLanes _ _ _ _ _ _ _) (s.checkLanes _ _ _ _ _ _ _) = none at ht
  simp only [ht, hrel]
  rfl

theorem exec_qenq (h : Runs s f (.qenq m d a b) m { srcs := [opnd a 2], srcB := some (opnd b 2), dst := some (opnd d 2), late := true }) :
    exec (.qenq m d a b) s = queueOut s f m d a b true := issue_go h

theorem exec_qdeq (h : Runs s f (.qdeq m d a b) m { srcs := [opnd a 2], srcB := some (opnd b 2), dst := some (opnd d 2), late := true }) :
    exec (.qdeq m d a b) s = queueOut s f m d a b false := issue_go h

/-- Settles O31: QENQ and QDEQ are the same wait at the descriptors and the stamps; QPOST posts at once. -/
theorem queuesComplete : Obligations.QueuesComplete := by
  intro s f m d a b flush ls queues xs ys posts noted u
  have hqueues {j : Instr} {enq : Bool}
      (hj : Runs s f j m { srcs := [opnd a 2], srcB := some (opnd b 2), dst := some (opnd d 2), late := true } → exec j s = queueOut s f m d a b enq) :
      queues j enq := by
    intro h ht hrel hnew
    have haw := awaits_queueNoted (m := m) (d := d) (n := 2) (left := 0) (active := f.active) h.1 enq (lines := linesOfLanes (s.descLanes f a))
      (vals := (s.writerVals f (perLane fun _ => 0)).2) (kind := .queue (f.stampWaits a b enq))
    obtain ⟨hid, houts⟩ := queueNoted_outs (s := s) (f := f) enq (linesOfLanes (s.descLanes f a))
    obtain ⟨r, hr, hkind⟩ := haw.out? (by rw [hid, State.out?, houts]; exact hnew)
    obtain ⟨g, hg⟩ := haw.group? (frag?_some (frag?_queueNoted h.1 enq _)).1
    rw [hid] at hr
    rw [gid_queueNoted] at hg
    exact ⟨_, r, g, haw, hr, hkind, hg, (hj h).trans (queueOut_go ht hrel hr hg)⟩
  exact ⟨hqueues exec_qenq, hqueues exec_qdeq, exec_qpost⟩

end Sys2Proof.Machine
end

/-! # FBRD and FBWR (R231, R232, R238, R405, R415, R416)

Both act in lanes whose handles are good and whose samples lie in tiles of the group's own core: then the lanes that would trap are none. -/

section
namespace Sys2Proof.Machine

variable {s : State} {f : Frag} {m : Marks} {d a b : Code} {x : BitVec 4} {smp : Nat → Nat} {ys : List (Nat × Frame × Handle)}

/-- A lane's sample lies in the tile that its handle names, and the tile is one of the group's core (R413, R415, R416). -/
def Group.ownsSample (g : Group) (smp : Nat → Nat) (y : Nat × Frame × Handle) : Prop :=
  y.2.1.inTile y.2.2 (sampleU (smp y.1)) (sampleV (smp y.1)) = true ∧ y.2.1.owner y.2.2.view y.2.2.tile = g.core

/-- The lanes whose sample lies in another tile than their handle names. -/
def outsideTile (smp : Nat → Nat) (ys : List (Nat × Frame × Handle)) : List Nat :=
  (ys.filter fun y => !y.2.1.inTile y.2.2 (sampleU (smp y.1)) (sampleV (smp y.1))).map (·.1)

/-- The lanes whose tile another core owns. -/
def Group.foreignTiles (g : Group) (ys : List (Nat × Frame × Handle)) : List Nat :=
  (ys.filter fun y => y.2.1.owner y.2.2.view y.2.2.tile ≠ g.core).map (·.1)

theorem outsideTile_eq_nil {g : Group} (h : ∀ y ∈ ys, g.ownsSample smp y) : outsideTile smp ys = [] := by
  refine List.map_eq_nil_iff.2 (List.filter_eq_nil_iff.2 fun y hy => ?_)
  simp [(h y hy).1]

theorem foreignTiles_eq_nil {g : Group} (h : ∀ y ∈ ys, g.ownsSample smp y) : g.foreignTiles ys = [] := by
  refine List.map_eq_nil_iff.2 (List.filter_eq_nil_iff.2 fun y hy => ?_)
  simp [(h y hy).2]

/-- What FBRD answers in a lane (R415). -/
def State.readSample (s : State) (f : Frag) (a b : Code) (x : BitVec 4) (l : Nat) : Nat :=
  match (s.goodHandles f.g (f.src a 1) (lanesOf f.sl.mask)).find? fun y => y.1 = l with
  | some (_, fr, h) => if x = 2 then s.areaAddress f.g fr h else s.tileWord fr h (x = 1) (f.srcB b 1 l)
  | none => 0

theorem exec_fbrd (h : Runs s f (.fbrd m d a b x) m
      { role := f.g.role.vectors, srcs := [opnd a 1], srcB := (if x = 2 then none else some (opnd b 1)), dst := some (opnd d (if x = 0 then 1 else 2)), late := true })
    (hgood : s.badHandles f.g (f.src a 1) (lanesOf f.sl.mask) = [])
    (hown : x = 2 ∨ ∀ y ∈ s.goodHandles f.g (f.src a 1) (lanesOf f.sl.mask), f.g.ownsSample (f.srcB b 1) y) :
    exec (.fbrd m d a b x) s =
      .next ((s.resultLater f d (if x = 0 then 1 else 2) (perLane (s.readSample f a b x)) f.sl.mask 0 .alu).goOn f m) := by
  have h0 : x = 0 ↔ x.toNat = 0 := BitVec.toNat_inj.symm
  have h1 : x = 1 ↔ x.toNat = 1 := BitVec.toNat_inj.symm
  have h2 : x = 2 ↔ x.toNat = 2 := BitVec.toNat_inj.symm
  have hnone {l : List Nat} (hl : x = 2 ∨ l = []) : (if x = 2 then [] else l) = [] := by
    obtain hx | rfl := hl
    · exact if_pos hx
    · exact ite_self _
  have hin := hnone (hown.imp_right outsideTile_eq_nil)
  have hmine := hnone (hown.imp_right foreignTiles_eq_nil)
  unfold outsideTile at hin
  unfold Group.foreignTiles at hmine
  unfold State.readSample
  simp only [h0, h1, h2] at h hin hmine ⊢
  refine (issue_go (f := f) h).trans ?_
  simp only [hgood, hin, hmine]
  rfl

/-- The lanes in which FBWR acts: no helpers, with good handles, whose sample is live (R404, R416). -/
def State.liveWrites (s : State) (f : Frag) (a b : Code) : List (Nat × Frame × Handle) :=
  (s.goodHandles f.g (f.src a 1) (lanesOf (f.sl.mask &&& ~~~f.g.helper))).filter fun y =>
    !s.deadSample y.2.1 y.2.2 (sampleU (f.srcB b 1 y.1)) (sampleV (f.srcB b 1 y.1))

theorem exec_fbwr (h : Runs s f (.fbwr m d a b x) m { role := f.g.role.vectors, srcs := [opnd d 1, opnd a 1], srcB := some (opnd b 1) })
    (hgood : s.badHandles f.g (f.src a 1) (lanesOf (f.sl.mask &&& ~~~f.g.helper)) = [])
    (hown : ∀ y ∈ s.liveWrites f a b, f.g.ownsSample (f.srcB b 1) y)
    (hfree : f.g.batch?.isSome = true ∨ (s.farBusy f.g = false ∧ s.loadsOpen f.g = false)) :
    let live := s.liveWrites f a b
    let u := live.foldl (fun t y => t.writeSample f.g y.2.1.fid y.2.2 x.toNat (f.srcB b 1 y.1) (f.src d 1 y.1)) s
    exec (.fbwr m d a b x) s = .next ((if s.anyWrites f.g live (f.srcB b 1) then u.dropRel f.g else u).goOn f m) := by
  have hheld : (f.g.batch?.isNone && (s.farBusy f.g || s.loadsOpen f.g)) = false := by
    obtain hbatch | ⟨hfar, hloads⟩ := hfree
    · rw [← Option.not_isSome, hbatch]
      rfl
    · rw [hfar, hloads, Bool.or_self, Bool.and_false]
  have hin := outsideTile_eq_nil hown
  have hmine := foreignTiles_eq_nil hown
  refine (issue_go (f := f) h).trans ?_
  unfold State.liveWrites outsideTile at hin
  unfold State.liveWrites Group.foreignTiles at hmine
  simp only [hgood, hin, hmine, hheld]
  rfl

/-- Settles O37: with good handles of tiles of the group's core, neither has a lane that traps. -/
theorem framebufferComplete : Obligations.FramebufferComplete := by
  intro s f m d a b x n smp ls hs word ws live mine
  exact ⟨fun h hgood hown => ⟨_, exec_fbrd h hgood hown, awaits_resultLater h.1⟩, exec_fbwr⟩

end Sys2Proof.Machine
end

/-! # Operators of the far atomics, and combining (R253 to R257, R259)

An operator is a function of numbers; on words of `w` bits it is the operation of bit vectors. Minimum and maximum choose by the integer that
a word stands for: a word takes the location's place where its integer comes strictly before the location's. -/

section
namespace Sys2Proof.Machine

/-! ## Operators on words of `w` bits (R253) -/

/-- The integer by which the minimum and the maximum compare a value of `w` bits. -/
def farKey (unsigned : Bool) (w x : Nat) : Int := if unsigned then (x : Int) else signedOf w x

/-- The operand takes the old value's place where it comes strictly before it. -/
def replaceIfLess (key : Nat → Int) (o v : Nat) : Nat := if key v < key o then v else o

section
variable (u : Bool) (w o v : Nat)

@[simp] theorem farOp_add : farOp 0xC0 u w o v = (o + v) % 2 ^ w := rfl

theorem farOp_min : farOp 0xC1 u w o v = replaceIfLess (farKey u w) o v := by
  cases u <;> simp [farOp, replaceIfLess, farKey]

theorem farOp_max : farOp 0xC2 u w o v = replaceIfLess (fun x => -farKey u w x) o v := by
  cases u <;> simp [farOp, replaceIfLess, farKey]

@[simp] theorem farOp_and : farOp 0xC3 u w o v = o &&& v := rfl

@[simp] theorem farOp_or : farOp 0xC4 u w o v = o ||| v := rfl

@[simp] theorem farOp_xor : farOp 0xC5 u w o v = o ^^^ v := rfl

@[simp] theorem farOp_exchange : farOp 0xC6 u w o v = v := rfl

end

section
variable {w : Nat} (x y : BitVec w)

theorem farKey_signed : farKey false w x.toNat = x.toInt := intValue_signed x

theorem farKey_unsigned : farKey true w x.toNat = x.toNat := rfl

theorem farOp_min_signed : farOp 0xC1 false w x.toNat y.toNat = (if y.slt x then y else x).toNat := by
  simp only [farOp_min, replaceIfLess, farKey_signed, BitVec.slt_iff_toInt_lt, apply_ite BitVec.toNat]

theorem farOp_min_unsigned : farOp 0xC1 true w x.toNat y.toNat = (if y.ult x then y else x).toNat := by
  simp only [farOp_min, replaceIfLess, farKey_unsigned, Int.ofNat_lt, BitVec.ult_iff_toNat_lt, apply_ite BitVec.toNat]

theorem farOp_max_signed : farOp 0xC2 false w x.toNat y.toNat = (if x.slt y then y else x).toNat := by
  simp only [farOp_max, replaceIfLess, farKey_signed, neg_lt_neg_iff, BitVec.slt_iff_toInt_lt, apply_ite BitVec.toNat]

theorem farOp_max_unsigned : farOp 0xC2 true w x.toNat y.toNat = (if x.ult y then y else x).toNat := by
  simp only [farOp_max, replaceIfLess, farKey_unsigned, neg_lt_neg_iff, Int.ofNat_lt, BitVec.ult_iff_toNat_lt, apply_ite BitVec.toNat]

end

/-! ## What is written and answered (R253 to R257) -/

/-- A combinable operation writes its operator's value and answers the old one. -/
theorem farApply_combinable {op : Nat} (hop : op ≤ 0xC6) (u : Bool) (size o v c : Nat) : farApply op u size o v c = (farOp op u (8 * size) o v, o) := by
  simp only [farApply, Bool.or_eq_true, decide_eq_true_eq, if_neg (show ¬(op = 0xC7 ∨ op = 0xCB) by omega), if_neg (show op ≠ 0xC8 by omega),
    if_neg (show op ≠ 0xC9 by omega), if_neg (show op ≠ 0xCA by omega)]

/-- MCAS and MCAS.64 write where the location holds the compared value (R254). -/
theorem farApply_compareSwap {op w : Nat} (hop : op = 0xC7 ∨ op = 0xCB) (u : Bool) (size : Nat) (x y z : BitVec w) :
    farApply op u size x.toNat y.toNat z.toNat = ((if x = z then y else x).toNat, x.toNat) := by
  simp only [farApply, Bool.or_eq_true, decide_eq_true_eq, if_pos hop, BitVec.toNat_inj, apply_ite BitVec.toNat]

/-- MBIM inserts the operand's bits under the mask (R256). -/
theorem farApply_insert (o v c : Word) (u : Bool) :
    farApply 0xC9 u 4 o.toNat v.toNat c.toNat = (((o &&& ~~~c) ||| (v &&& c)).toNat, o.toNat) := by
  rw [BitVec.toNat_or, BitVec.toNat_and, BitVec.toNat_and, BitVec.toNat_not]
  rfl

theorem bitCount_toNat (x : Word) : bitCount x.toNat = ((List.range 32).filter fun i => x.getLsbD i).length := by
  simp only [bitCount, BitVec.getLsbD, Nat.testBit_eq_decide_div_mod_eq]

/-- MPLS sets the operand's bits where no more are set then than the third operand allows (R257). -/
theorem farApply_limitedSet (o v c : Word) (u : Bool) : farApply 0xCA u 4 o.toNat v.toNat c.toNat =
    ((if ((List.range 32).filter fun i => (o ||| v).getLsbD i).length ≤ min (c.toNat % 64) 32 then o ||| v else o).toNat, o.toNat) := by
  rw [← bitCount_toNat, apply_ite BitVec.toNat, BitVec.toNat_or]
  rfl

/-! ## The lowest clear bit (R255) -/

section
variable {x : BitVec 64}

theorem toNat_div_two_pow_mod_two (i : Nat) : x.toNat / 2 ^ i % 2 = 0 ↔ x.getLsbD i = false := by
  rw [BitVec.getLsbD, Nat.testBit_eq_decide_div_mod_eq, decide_eq_false_iff_not, Nat.mod_two_not_eq_one]

theorem lowestClear_eq_some {i : Nat} : lowestClear x.toNat = some i ↔ i < 64 ∧ x.getLsbD i = false ∧ ∀ j, j < i → x.getLsbD j = true := by
  simp only [lowestClear, List.find?_range_eq_some, List.mem_range, decide_eq_true_eq, toNat_div_two_pow_mod_two, Bool.not_eq_true',
    decide_eq_false_iff_not, Bool.not_eq_false]
  tauto

theorem lowestClear_eq_none : lowestClear x.toNat = none ↔ x = BitVec.allOnes 64 := by
  simp only [lowestClear, List.find?_eq_none, List.mem_range, decide_eq_true_eq, toNat_div_two_pow_mod_two, Bool.not_eq_false]
  constructor
  · intro h
    refine BitVec.eq_of_getLsbD_eq fun i hi => ?_
    rw [h i hi, BitVec.getLsbD_allOnes, decide_eq_true hi]
  · rintro rfl i hi
    rw [BitVec.getLsbD_allOnes, decide_eq_true hi]

/-- A location with no clear bit stays as it is. -/
theorem farApply_findClear_none (h : x = BitVec.allOnes 64) (u : Bool) (v c : Nat) : farApply 0xC8 u 8 x.toNat v c = (x.toNat, 0xFFFFFFFF) := by
  simp [farApply, lowestClear_eq_none.2 h]

/-- Else MFCS sets the lowest clear bit and answers its number. -/
theorem farApply_findClear_some (h : x ≠ BitVec.allOnes 64) (u : Bool) (v c : Nat) : ∃ i, i < 64 ∧ x.getLsbD i = false ∧
    (∀ j, j < i → x.getLsbD j = true) ∧ farApply 0xC8 u 8 x.toNat v c = ((x ||| (1#64 <<< i)).toNat, i) := by
  obtain ⟨i, hi⟩ := Option.ne_none_iff_exists'.1 (mt lowestClear_eq_none.1 h)
  obtain ⟨hlt, hclear, hset⟩ := lowestClear_eq_some.1 hi
  refine ⟨i, hlt, hclear, hset, ?_⟩
  rw [BitVec.toNat_or, ← BitVec.twoPow_eq, BitVec.toNat_twoPow_of_lt hlt]
  simp [farApply, hi]

end

/-! ## Combining is serial (R259) -/

/-- To choose between two operands first is to choose one after the other, whatever integers the values stand for. -/
theorem replaceIfLess_assoc (key : Nat → Int) (p a b : Nat) :
    replaceIfLess key p (replaceIfLess key a b) = replaceIfLess key (replaceIfLess key p a) b := by
  unfold replaceIfLess
  by_cases hba : key b < key a <;> by_cases hap : key a < key p
  · simp only [if_pos hba, if_pos hap, if_pos (hba.trans hap)]
  · simp only [if_pos hba, if_neg hap]
  · simp only [if_neg hba, if_pos hap]
  · simp only [if_neg hba, if_neg hap, if_neg (show ¬key b < key p by omega)]

theorem farOp_combine {op : Nat} (hlo : 0xC0 ≤ op) (hhi : op ≤ 0xC6) (u : Bool) (w p a b : Nat) :
    farOp op u w p (farOp op u w a b) = farOp op u w (farOp op u w p a) b := by
  obtain rfl | rfl | rfl | rfl | rfl | rfl | rfl :
      op = 0xC0 ∨ op = 0xC1 ∨ op = 0xC2 ∨ op = 0xC3 ∨ op = 0xC4 ∨ op = 0xC5 ∨ op = 0xC6 := by omega
  · simp only [farOp_add, Nat.add_mod_mod, Nat.mod_add_mod, Nat.add_assoc]
  · simp only [farOp_min, replaceIfLess_assoc]
  · simp only [farOp_max, replaceIfLess_assoc]
  · exact (Nat.and_assoc p a b).symm
  · exact (Nat.or_assoc p a b).symm
  · exact (Nat.xor_assoc p a b).symm
  · rfl

/-- The combinable operations on words of `size` bytes, for the third operand `c`, which none of them uses. -/
theorem farApply_word {w size : Nat} (hw : w = 8 * size) (x y : BitVec w) (c : Nat) :
    let ap (op : Nat) (u : Bool) : Nat × Nat := farApply op u size x.toNat y.toNat c
    ap 0xC0 false = ((x + y).toNat, x.toNat) ∧
    ap 0xC1 false = ((if y.slt x then y else x).toNat, x.toNat) ∧ ap 0xC1 true = ((if y.ult x then y else x).toNat, x.toNat) ∧
    ap 0xC2 false = ((if x.slt y then y else x).toNat, x.toNat) ∧ ap 0xC2 true = ((if x.ult y then y else x).toNat, x.toNat) ∧
    ap 0xC3 false = ((x &&& y).toNat, x.toNat) ∧ ap 0xC4 false = ((x ||| y).toNat, x.toNat) ∧
    ap 0xC5 false = ((x ^^^ y).toNat, x.toNat) ∧ ap 0xC6 false = (y.toNat, x.toNat) := by
  have hap {op : Nat} {u : Bool} (z : BitVec w) (hop : op ≤ 0xC6) (hz : farOp op u w x.toNat y.toNat = z.toNat) :
      farApply op u size x.toNat y.toNat c = (z.toNat, x.toNat) := by
    rw [farApply_combinable hop, ← hw, hz]
  exact ⟨hap _ (by decide) (BitVec.toNat_add x y).symm, hap _ (by decide) (farOp_min_signed x y), hap _ (by decide) (farOp_min_unsigned x y),
    hap _ (by decide) (farOp_max_signed x y), hap _ (by decide) (farOp_max_unsigned x y), hap _ (by decide) (BitVec.toNat_and x y).symm,
    hap _ (by decide) (BitVec.toNat_or x y).symm, hap _ (by decide) (BitVec.toNat_xor x y).symm, hap _ (by decide) rfl⟩

/-- Settles O30: the operators on words of both sizes, the operations that do not combine, and each operator's associativity. -/
theorem farAtomicOperators : Obligations.FarAtomicOperators := by
  intro o v c x y z ap ap8
  obtain ⟨hadd, hmin, hminu, hmax, hmaxu, hand, hor, hxor, hxch⟩ := farApply_word (size := 4) rfl o v c.toNat
  obtain ⟨hadd8, hmin8, hminu8, hmax8, hmaxu8, hand8, hor8, hxor8, hxch8⟩ := farApply_word (size := 8) rfl x y z.toNat
  exact ⟨hadd, hmin, hminu, hmax, hmaxu, hand, hor, hxor, hxch, farApply_compareSwap (.inl rfl) false 4 o v c, farApply_insert o v c false,
    farApply_limitedSet o v c false, hadd8, hmin8, hminu8, hmax8, hmaxu8, hand8, hor8, hxor8, hxch8, farApply_compareSwap (.inr rfl) false 8 x y z,
    fun h => farApply_findClear_none h false 0 0, fun h => farApply_findClear_some h false 0 0,
    fun _ w p a b u hlo hhi _ _ _ _ => farOp_combine hlo hhi u w p a b⟩

end Sys2Proof.Machine
end

/-! # Indexes of a queue (R265 to R267) -/

section
namespace Sys2Proof.Machine

/-- A descriptor is good where its last bytes are zero and LOG2N lies between 4 and 20 (R265). -/
theorem qdesc_ok_iff {q : QDesc} : q.ok = true ↔ q.rest = 0 ∧ 4 ≤ q.log2n ∧ q.log2n ≤ 20 := by
  simp [QDesc.ok, and_assoc]

section
variable {s u t : State} {ag : Agent} {desc v : Nat}

theorem reserve_bad (h : s.peekVa ag desc 64 = .ok (u, v)) (hbad : (qdescOf v).ok = false) (enq : Bool) :
    s.reserve ag desc enq = .ok (u, qdescOf v, queueBad) := by
  simp [State.reserve, h, hbad]

theorem reserve_full (h : s.peekVa ag desc 64 = .ok (u, v)) (hok : (qdescOf v).ok = true)
    (hfull : 2 ^ (qdescOf v).log2n ≤ (qdescOf v).tail - (qdescOf v).head) : s.reserve ag desc true = .ok (u, qdescOf v, queueFull) := by
  simp [State.reserve, h, hok, hfull]

theorem reserve_empty (h : s.peekVa ag desc 64 = .ok (u, v)) (hok : (qdescOf v).ok = true) (hempty : (qdescOf v).tail ≤ (qdescOf v).head) :
    s.reserve ag desc false = .ok (u, qdescOf v, queueFull) := by
  simp [State.reserve, h, hok, hempty]

theorem reserve_tail (h : s.peekVa ag desc 64 = .ok (u, v)) (hok : (qdescOf v).ok = true)
    (hroom : (qdescOf v).tail - (qdescOf v).head < 2 ^ (qdescOf v).log2n)
    (hpoke : u.pokeVa ag (desc + 8) (bytesOf ((qdescOf v).tail + 1) 8) = .ok t) :
    s.reserve ag desc true = .ok (t, qdescOf v, (qdescOf v).tail) := by
  simp [State.reserve, h, hok, hroom.not_ge, hpoke, Except.map]

theorem reserve_head (h : s.peekVa ag desc 64 = .ok (u, v)) (hok : (qdescOf v).ok = true) (hsome : (qdescOf v).head < (qdescOf v).tail)
    (hpoke : u.pokeVa ag desc (bytesOf ((qdescOf v).head + 1) 8) = .ok t) :
    s.reserve ag desc false = .ok (t, qdescOf v, (qdescOf v).head) := by
  simp [State.reserve, h, hok, hsome.not_ge, hpoke, Except.map]

end

/-- Settles O32: the cases of `State.reserve`, by whether the descriptor that was read is good. -/
theorem queueIndexes : Obligations.QueueIndexes := by
  intro s u ag desc v h head tail log2n good
  have hok : (qdescOf v).ok = true ↔ good := qdesc_ok_iff
  exact ⟨fun hbad => reserve_bad h (Bool.eq_false_iff.2 (mt hok.1 hbad)), fun hgood => reserve_full h (hok.2 hgood),
    fun hgood => reserve_empty h (hok.2 hgood), fun hgood hroom _ => reserve_tail h (hok.2 hgood) hroom,
    fun hgood hsome _ => reserve_head h (hok.2 hgood) hsome⟩

end Sys2Proof.Machine
end

/-! # TKARM, TKPOST, TKDONE and TKGET (R309 to R313)

A task instruction whose address is clear answers what its own accesses make of the TCB or the pool: one lemma for each way they may end. -/

section
namespace Sys2Proof.Machine

variable {s t u y y1 y2 z : State} {f late : Frag} {m : Marks} {d a b : Code} {x : BitVec 4} {n : Bool} {align addr : Nat}

/-! ## The first checks -/

/-- A task instruction's address passes its checks, and neither a pending release nor earlier task work of the group holds it back. -/
def State.taskClear (s : State) (f : Frag) (align a : Nat) : Prop :=
  lanesTrap 1 (s.taskCheck f align a) = none ∧ s.relBusy f.g = false ∧ s.taskBusy f = false

/-- The agent under which the task unit accesses memory for a fragment. -/
def State.unitAgent (s : State) (f : Frag) : Agent := s.taskAgent (s.ctxIdOf f.g) f.g.core

/-- A task instruction that goes on with a value at once, without a piece of work. -/
def State.answers (s : State) (f : Frag) (m : Marks) (d : Code) (w v : Nat) (kind : OutKind) : State :=
  (s.resultLater f d w (perLane fun _ => v) f.sl.mask 0 kind).goOn f m

theorem taskOut_go {body : Agent → TaskTry} (hc : s.taskClear f align addr) (hbody : body (s.unitAgent f) = .ok t) :
    taskOut s f late m align addr body = .next (t.goOn f m) := by
  obtain ⟨ht, hrel, hbusy⟩ := hc
  unfold State.unitAgent at hbody
  simp only [taskOut, ht, hrel, hbusy, Bool.or_self, Bool.false_eq_true, if_false, hbody]

/-! ## TKARM (R310) -/

section
variable {st : Nat} (h : Runs s f (.tkarm m d a b x) m { srcs := [opnd a 2], srcB := some (opnd b 1), dst := some (opnd d 1), late := true })
  (hc : s.taskClear f 64 (f.src a 2 f.low))
  (hst : (s.releaseAt (s.unitAgent f) (f.src a 2 f.low)).peekVa (s.unitAgent f) (f.src a 2 f.low + 4) 1 = .ok (z, st))
include h hc hst

theorem exec_tkarm_inUse (hbad : st ≠ 0 ∧ st ≠ 4) : exec (.tkarm m d a b x) s = .next (z.answers f m d 1 0xFFFFFFFF .alu) := by
  refine (issue_go (f := f) h).trans (taskOut_go hc ?_)
  simp only [hst]
  exact if_pos (by simpa using hbad)

theorem exec_tkarm_tooMany (hok : st = 0 ∨ st = 4) (hmany : 65535 < f.srcB b 1 f.low) :
    exec (.tkarm m d a b x) s = .next (z.answers f m d 1 0xFFFFFFFE .alu) := by
  refine (issue_go (f := f) h).trans (taskOut_go hc ?_)
  simp only [hst]
  exact (if_neg (by simpa [or_iff_not_imp_left] using hok)).trans (if_pos hmany)

theorem exec_tkarm_armed (hok : st = 0 ∨ st = 4) (hfew : f.srcB b 1 f.low ≤ 65535) :
    let ag := s.unitAgent f
    let tcb := f.src a 2 f.low
    let dep := f.srcB b 1 f.low + x.toNat
    z.pokeVa ag tcb (bytesOf dep 4 ++ [if dep = 0 then 2 else 1, BitVec.ofNat 8 x.toNat]) = .ok t →
      let v := (t.relLine ag f.g.relScope tcb).dropRel f.g
      exec (.tkarm m d a b x) s = .next (if dep = 0 then
        (v.beginWork f d 1 .arm { ag.work tcb 1 f.g.relScope with blocked := some tcb }).goOn f m else v.answers f m d 1 0 .alu) := by
  intro ag tcb dep hpoke v
  refine ((issue_go (f := f) h).trans (taskOut_go hc ?_)).trans (congrArg Host.Outcome.next (apply_ite (State.goOn · f m) _ _ _))
  simp only [hst]
  refine (if_neg (by simpa [or_iff_not_imp_left] using hok)).trans ((if_neg hfew.not_gt).trans ?_)
  simp only [ag, tcb, dep] at hpoke
  simp only [hpoke]
  rfl

end

/-! ## TKPOST (R313) -/

section
variable {st pool : Nat} (h : Runs s f (.tkpost m d a n) m { srcs := [opnd a 2], dst := some (opnd d 2), late := true })
  (hc : s.taskClear f 64 (f.src a 2 f.low))
  (hst : (s.releaseAt (s.unitAgent f) (f.src a 2 f.low)).peekVa (s.unitAgent f) (f.src a 2 f.low + 4) 1 = .ok (y, st))
  (hpool : y.peekVa (s.unitAgent f) (f.src a 2 f.low + 0x18) 8 = .ok (z, pool))
include h hc hst hpool

theorem exec_tkpost_inUse (hbad : st ≠ 0 ∧ st ≠ 4 ∧ st ≠ 5) : exec (.tkpost m d a n) s = .next (z.answers f m d 2 (2 ^ 64 - 3) .alu) := by
  refine (issue_go (f := f) h).trans (taskOut_go hc ?_)
  simp only [hst, hpool]
  exact if_pos (by simpa [and_assoc] using hbad)

theorem exec_tkpost_posted (hok : st = 0 ∨ st = 4 ∨ st = 5)
    (hlive : (if n then (z.addVa (s.unitAgent f) (pool + 0x40) 8 1).map (fun y => y.1.relLine (s.unitAgent f) f.g.relScope (pool + 0x40)) else .ok z) =
      .ok t) :
    let ag := s.unitAgent f
    let tcb := f.src a 2 f.low
    exec (.tkpost m d a n) s = .next (((t.dropRel f.g).beginWork f d 2 .post { ag.work tcb 0 f.g.relScope with blocked := some tcb }).goOn f m) := by
  intro ag tcb
  refine (issue_go (f := f) h).trans (taskOut_go hc ?_)
  simp only [hst, hpool]
  refine (if_neg (by simpa [or_iff_not_imp_left] using hok)).trans ?_
  simp only [hlive]
  rfl

end

/-! ## TKDONE (R312) -/

/-- TKDONE reads the TCB's list of successors, their number and its pool, and ends the task that the group holds. -/
theorem exec_tkdone {list k pool : Nat} {g : Group} (h : Runs s f (.tkdone m d a) m { srcs := [opnd a 2], dst := some (opnd d 1), late := true })
    (htask : f.g.task = some (f.src a 2 f.low)) (hc : s.taskClear f 64 (f.src a 2 f.low)) :
    let ag := s.unitAgent f
    let tcb := f.src a 2 f.low
    let rel := f.g.relScope
    (s.releaseAt ag tcb).putVa ag (tcb + 4) 1 4 = .ok y → (y.relLine ag rel tcb).peekVa ag (tcb + 8) 8 = .ok (y1, list) →
      y1.peekVa ag (tcb + 0x10) 2 = .ok (y2, k) → y2.peekVa ag (tcb + 0x18) 8 = .ok (t, pool) → t.group? f.g.gid = some g →
        exec (.tkdone m d a) s = .next ((((t.putGroup { g with task := none }).dropRel f.g).beginWork f d 1 .done
          { ag.work tcb 0 rel with succs := (List.range k).map fun j => list + 8 * j, pool := pool }).goOn f m) := by
  intro ag tcb rel hput hlist hcount hpool hg
  refine (issue_go (f := f) h).trans ((if_neg (not_not_intro htask)).trans (taskOut_go hc ?_))
  simp only [ag, tcb, rel] at hput hlist hcount hpool
  simp only [hput, hlist, hcount, hpool, hg]
  rfl

/-! ## TKGET (R311) -/

section
variable {r live : Nat} {q : QDesc}
  (h : Runs s f (.tkget m d a b) m { srcs := [opnd a 2], srcB := some (opnd b 2), dst := some (opnd d 2), late := true })
  (hfree : s.holdsTask f = false)
  (ht : pairTrap 1 1 (s.taskCheck f 128 (f.src a 2 f.low)) (s.checkLanes f.g .wr [1, 2, 3] 8 32 (fun _ => f.srcB b 2 f.low) [f.low]) = none)
  (hrel : s.relBusy f.g = false)
include h hfree ht hrel

theorem exec_tkget_busy (hbusy : s.taskBusy f = true) : exec (.tkget m d a b) s = .next (s.park f (.tkget (unitLen m 0) true false)) := by
  refine (issue_go (f := f) h).trans ?_
  simp only [hfree, ht, hrel, hbusy, Bool.false_eq_true, if_false, if_true]

variable (hbusy : s.taskBusy f = false)
  (hres : (s.dropMonitors (Monitor.isTkget f.g.gid f.slot)).reserve (s.unitAgent f) (f.src a 2 f.low) false = .ok (t, q, r))
include hbusy hres

theorem exec_tkget_taken (hr : r < queueBad) :
    exec (.tkget m d a b) s = .next ((((t.relLine (s.unitAgent f) f.g.relScope (f.src a 2 f.low)).dropRel f.g).resultLater f d 2 (perLane fun _ => 0)
      f.sl.mask 1 (.tkget ⟨f.low, false, r, q.ring, q.stamps, q.log2n, BitVec.ofNat 64 (f.srcB b 2 f.low), none, false, f.g.relScope⟩)).goOn f m) := by
  have hfull : r ≠ queueFull := (hr.trans (by decide)).ne
  refine (issue_go (f := f) h).trans ?_
  unfold State.unitAgent at hres ⊢
  simp only [hfree, ht, hrel, hbusy, hres, Bool.false_eq_true, if_false, hr.ne, hfull, ne_eq, not_false_eq_true, if_true]

theorem exec_tkget_bad (hr : r = queueBad) : exec (.tkget m d a b) s = .next (t.answers f m d 2 r .noTask) := by
  refine (issue_go (f := f) h).trans ?_
  unfold State.unitAgent at hres
  simp only [hfree, ht, hrel, hbusy, hres, Bool.false_eq_true, if_false, hr, if_true]
  rfl

/-- A pool without an entry: by its LIVE, the TKGET answers 0 or waits. -/
theorem exec_tkget_empty (hr : r = queueFull) (hlive : t.peekVa (s.unitAgent f) (f.src a 2 f.low + 0x40) 8 = .ok (z, live)) :
    exec (.tkget m d a b) s = if live = 0 ∨ 2 ^ 63 ≤ live then .next (z.answers f m d 2 0 .noTask)
      else .next ((z.tkgetWatch (s.unitAgent f) f.g.gid f.slot (f.src a 2 f.low)).park f (.tkget (unitLen m 0) false false)) := by
  have hbad : queueFull ≠ queueBad := by decide
  refine (issue_go (f := f) h).trans ?_
  unfold State.unitAgent at hres hlive ⊢
  simp only [hfree, ht, hrel, hbusy, hres, hlive, hr, hbad, Bool.false_eq_true, if_false, ne_eq, not_true_eq_false, Bool.or_eq_true, decide_eq_true_eq]
  rfl

end

/-- Settles O33: by the STATE that the TCB holds and the count, or by the index that the pool's queue gives and its LIVE. -/
theorem tasksComplete : Obligations.TasksComplete := by
  intro s f m d a b n x tcb ag u clear preds dep rel give noTask
  refine ⟨fun h hc z st hst => ?_, fun h hc y z st pool t hst hpool => ?_, fun h htask hc y y1 y2 t list k pool g => exec_tkdone h htask hc,
    fun h hfree ht hrel => ⟨exec_tkget_busy h hfree ht hrel, fun t q r hbusy hres => ?_⟩⟩
  · exact ⟨exec_tkarm_inUse h hc hst, exec_tkarm_tooMany h hc hst, fun hok hfew t => exec_tkarm_armed h hc hst hok hfew⟩
  · exact ⟨exec_tkpost_inUse h hc hst hpool, exec_tkpost_posted h hc hst hpool⟩
  · have hempty {z live} := exec_tkget_empty (z := z) (live := live) h hfree ht hrel hbusy hres
    exact ⟨exec_tkget_taken h hfree ht hrel hbusy hres, exec_tkget_bad h hfree ht hrel hbusy hres,
      fun z live hlive hr hnone => (hempty hr hlive).trans (if_pos hnone),
      fun z live hlive hr hpos hlt => (hempty hr hlive).trans (if_neg (not_or_intro hpos.ne' hlt.not_ge))⟩

end Sys2Proof.Machine
end

/-! # EMITV and EMITP (R393 to R395) -/

section
namespace Sys2Proof.Machine

variable {s : State} {f : Frag} {m : Marks} {a b : Code} {x : BitVec 4}

/-- A group's staging slots: all of them are empty before its first EMITV (R393). -/
def Group.staging (g : Group) : List VSlot := if g.vslots = [] then List.replicate W VSlot.empty else g.vslots

/-- What EMITV stages in a lane: its position and its attributes, which are 0 where X is (R394). -/
def Frag.vertex (f : Frag) (a b : Code) (x : BitVec 4) (l : Nat) : VSlot :=
  ⟨true, wordsOf (f.src a 4 l) 4, wordsOf (if 4 * x.toNat = 0 then 0 else f.src b (4 * x.toNat) l) 16⟩

/-- The staging slots after an EMITV: each lane of the fragment has written its own. -/
def Frag.staged (f : Frag) (a b : Code) (x : BitVec 4) : List VSlot :=
  f.g.staging.mapIdx fun l v => if f.sl.mask.getLsbD l then f.vertex a b x l else v

/-- The fragment with its vertices staged in its group. -/
def Frag.emits (f : Frag) (a b : Code) (x : BitVec 4) : Frag := { f with g := { f.g with vslots := f.staged a b x } }

theorem exec_emitv (h : Runs s f (.emitv m a b x) m
      { role := f.g.role.vectors, legal := f.sl.lit.isNone && f.g.meshlet?.isSome, srcs := [opnd a 4],
        srcB := if 4 * x.toNat = 0 then none else some (opnd b (4 * x.toNat)) }) :
    exec (.emitv m a b x) s = .next ((s.putGroup (f.emits a b x).g).goOn (f.emits a b x) m) := issue_go h

theorem passes_emits (hf : s.frag? = some f) :
    Passes s (f.emits a b x) m 0 (f.emits a b x).g ((s.putGroup (f.emits a b x).g).goOn (f.emits a b x) m) := by
  obtain ⟨hgroup, _, _, hslot, _⟩ := frag?_some hf
  exact passes_put (f := f.emits a b x) hgroup rfl hslot

/-- EMITP with no reserved bit in any lane stages a primitive, or counts an error, lane after lane (R395). -/
theorem exec_emitp (h : Runs s f (.emitp m a b) m { role := f.g.role.vectors, legal := f.g.meshlet?.isSome, srcs := [opnd a 1], srcB := some (opnd b 1) })
    (hok : ∀ l ∈ lanesOf f.sl.mask, emitReserved (f.src a 1 l) (f.srcB b 1 l) = false) :
    exec (.emitp m a b) s = .next ((s.putGroup ((lanesOf f.sl.mask).foldl (fun g l =>
      g.emitPrim (f.src a 1 l) (f.srcB b 1 l) (((s.frameOf f.g).map fun fr => fr.views.length).getD 0)) f.g)).goOn f m) := by
  refine (issue_go h).trans (if_neg (not_not_intro (List.filter_eq_nil_iff.2 fun l hl => ?_)))
  simp [hok l hl]

/-- Settles O36: each lane of the fragment writes its own slot, and no lane's primitive has a reserved bit. -/
theorem emitsComplete : Obligations.EmitsComplete := by
  intro s f m a b x n attr old views
  refine ⟨fun h => ⟨_, f.staged a b x, exec_emitv h, passes_emits h.1, List.length_mapIdx, fun l => ?_⟩, exec_emitp⟩
  exact List.getElem?_mapIdx

end Sys2Proof.Machine
end

/-! # Events of the graphics path (R392, R396, R399, R403, R406 to R408, R411, R417, R428, R429) -/

section
namespace Sys2Proof.Machine

variable {s u : State} {fr : Frame} {v k t : Nat}

/-! ## What an engine's turn leaves of latches and clocks -/

/-- What a change of a die leaves, the change leaves of every die. -/
theorem die_modDie_keeps {α : Type} {of : Die → α} {change : Die → Die} (h : ∀ d, of (change d) = of d) (i j : Nat) :
    of ((s.modDie i change).die j) = of (s.die j) := by
  simp only [State.die, State.modDie, setDies_dies, List.getD_eq_getElem?_getD, List.getElem?_modify]
  obtain hnone | ⟨d, hd⟩ := (s.dies[j]?).eq_none_or_eq_some
  · rw [hnone]
    rfl
  · rw [hd]
    by_cases hij : i = j
    · simp [hij, h]
    · simp [hij]

section
variable {die e ctx : Nat} {more : Bool}

/-- A turn changes an engine's choice alone. -/
theorem die_engineServe_keeps {α : Type} {of : Die → α} (h : ∀ d a, of (d.setArb a) = of d) (i : Nat) :
    of ((s.engineServe die e ctx more).die i) = of (s.die i) := die_modDie_keeps (fun d => h d _) _ _

theorem viewSetRegs_engineServe : fr.viewSetRegs (s.engineServe die e ctx more) = fr.viewSetRegs s :=
  die_engineServe_keeps (of := fun d => d.viewSets.getD fr.vset ViewSet.reset) (fun _ _ => rfl) _

theorem latchOf_engineServe : (s.engineServe die e ctx more).latchOf fr v k = s.latchOf fr v k := by
  unfold State.latchOf
  rw [viewSetRegs_engineServe]

theorem warpOf_engineServe : (s.engineServe die e ctx more).warpOf fr v k = s.warpOf fr v k := by
  unfold State.warpOf
  rw [latchOf_engineServe]

theorem clock_engineServe (i : Nat) : (s.engineServe die e ctx more).clock i = s.clock i := by
  have hlag : ((s.engineServe die e ctx more).die i).lag = (s.die i).lag := die_engineServe_keeps (fun _ _ => rfl) i
  unfold State.clock
  rw [hlag]
  rfl

theorem viewClock_engineServe : (s.engineServe die e ctx more).viewClock fr = s.viewClock fr := by
  unfold State.viewClock
  rw [clock_engineServe, viewSetRegs_engineServe]

theorem imageOf_engineServe {o : EgrOp} (hfr : s.frame? o.frame = some fr) : (s.engineServe die e ctx more).imageOf o = s.imageOf o := by
  have hfr' : (s.engineServe die e ctx more).frame? o.frame = some fr := hfr
  unfold State.imageOf
  rw [hfr, hfr', Option.bind_some, Option.bind_some, warpOf_engineServe]
  rfl

end

/-! ## Latches (R392) -/

theorem exec_stripLatch {w : View} (hfr : s.frame? fr.fid = some fr) (hw : fr.views[v]? = some w) (hk : k < w.nstrips)
    (hnew : s.latchOf fr v k = none) (hstart : w.startOf k ≤ s.viewClock fr) :
    let r := fr.viewSetRegs s
    let v0 := if w.follow0 then 0 else v
    exec (.stripLatch fr.fid v k) s = .next (s.modViewSet fr fun x => x.latch ⟨v, k, r.gzx.getD v0 0, r.gzy.getD v0 0, r.clsArea⟩) := by
  have hdue : ¬(w.nstrips ≤ k ∨ (s.latchOf fr v k).isSome = true ∨ s.viewClock fr < w.startOf k) := by simp [hk, hnew, hstart]
  intro r v0
  show execStripLatch fr.fid v k s = _
  unfold execStripLatch State.latchStrip
  simp only [hfr, hw, Bool.or_eq_true, decide_eq_true_eq, or_assoc, hdue, if_false]
  rfl

/-! ## The amplifier (R396, R407) -/

/-- What holds a primitive: it is projected already; a fault, or a queue that is full (log 54); the run of its meshlet, which may yet be undone;
a lower primitive of its meshlet. -/
def State.amplifierHeld (s : State) (fr : Frame) (p : Prim) : Bool :=
  p.projected || fr.fault.isSome || fr.queued ≠ [] || s.meshletOpen fr p ||
    fr.prims.any (fun q => q.pid / 128 = p.pid / 128 && q.pid < p.pid && !q.projected)

theorem amplifierHeld_eq_false {p : Prim} (hnew : p.projected = false) (hfault : fr.fault = none) (hqueued : fr.queued = []) (hclosed : s.meshletOpen fr p = false)
    (hturn : ∀ q ∈ fr.prims, q.pid / 128 = p.pid / 128 → q.pid < p.pid → q.projected = true) : s.amplifierHeld fr p = false := by
  have hfirst : (fr.prims.any fun q => q.pid / 128 = p.pid / 128 && q.pid < p.pid && !q.projected) = false := by
    rw [List.any_eq_false]
    intro q hq hbefore
    simp only [Bool.and_eq_true, decide_eq_true_eq, Bool.not_eq_true'] at hbefore
    obtain ⟨⟨hmeshlet, hlower⟩, hopen⟩ := hbefore
    exact Bool.false_ne_true (hopen.symm.trans (hturn q hq hmeshlet hlower))
  unfold State.amplifierHeld
  rw [hnew, hfault, hqueued, hclosed, hfirst]
  rfl

section
variable {p : Prim} (hfr : s.frame? fr.fid = some fr) (hp : (fr.prims.find? fun p => p.pid = t) = some p) (hfree : s.amplifierHeld fr p = false)
include hfr hp hfree

/-- A primitive without a record is projected, and counts as an error; it still counts in EMITTED (log 47). -/
theorem exec_amplifierProject_full (hfull : fr.primSlots ≤ fr.recordsUsed) : exec (.amplifierProject fr.fid t) s =
    .next (s.putFrame { fr.projected p none with errPrim := (fr.projected p none).errPrim + 1 }) := by
  show execAmplifierProject fr.fid t s = _
  unfold State.amplifierHeld at hfree
  unfold execAmplifierProject
  simp only [hfr, hp, hfree, hfull, Bool.false_eq_true, if_false, if_true]

theorem exec_amplifierProject_record (hroom : fr.recordsUsed < fr.primSlots)
    (hpoke : s.pokeVa (s.rasterAgent fr) (fr.primRing + 256 * fr.recordsUsed) p.bytes = .ok u) : exec (.amplifierProject fr.fid t) s =
    .next (u.putFrame ((fr.viewsOf p.mask).foldl (fun (x : Frame) v => x.amplify p v)
      (fr.projected p (some (fr.primRing + 256 * fr.recordsUsed))))) := by
  show execAmplifierProject fr.fid t s = _
  unfold State.amplifierHeld at hfree
  unfold execAmplifierProject
  simp only [hfr, hp, hfree, hroom.not_ge, hpoke, Bool.false_eq_true, if_false]

end

/-! ## Triangles (R399 to R405) -/

/-- A queue that is full holds every delivery (R403, log 54). -/
theorem rasterReady_eq_false (x : Tri) (hqueued : fr.queued ≠ []) : s.rasterReady fr x k t = false := by
  simp [State.rasterReady, hqueued]

theorem exec_rasteriseTriangle_held (hfr : s.frame? fr.fid = some fr) (hqueued : fr.queued ≠ []) (x : Nat) :
    exec (.rasteriseTriangle fr.fid x k t) s = .next s := by
  show execRasteriseTriangle fr.fid x k t s = _
  unfold execRasteriseTriangle
  rw [hfr]
  dsimp only
  split
  · rfl
  · rw [rasterReady_eq_false _ hqueued]
    rfl

/-- What the delivery of a triangle to a tile does, in its context's turn: nothing where it does not reach the tile; the small path for a
small one; else the fragment batches of a view that shades, or the visibility words. -/
def State.deliverTri (s : State) (fr : Frame) (x : Tri) (k t : Nat) (w : View) (p : Warp) (l : Latch) : State :=
  if !x.reaches p t then s.markDelivered fr.fid x.trid k t
  else if x.small p t l.area then
    if ((s.deliverSmall fr x k t).frame? fr.fid).any (fun y => y.fault.isSome) then s.deliverSmall fr x k t
    else (s.deliverSmall fr x k t).markDelivered fr.fid x.trid k t
  else if w.shade then (s.launchBatches fr.fid (fr.area x.view t) k p x).markDelivered fr.fid x.trid k t
  else (s.writeVis fr (fr.area x.view t) w p x).markDelivered fr.fid x.trid k t

section
variable {x : Tri} {w : View} {p : Warp} {l : Latch}

theorem rasterReady_eq_true (hfault : fr.fault = none) (hqueued : fr.queued = []) (hnew : (k, t) ∉ x.delivered)
    (hstrip : (fr.area x.view t).strip = some k) (hover : (fr.area x.view t).over k = false)
    (hw : fr.views[x.view]? = some w) (hp : s.warpOf fr x.view k = some p) (hl : s.latchOf fr x.view k = some l) :
    s.rasterReady fr x k t = true := by
  simp [State.rasterReady, hfault, hqueued, hnew, hstrip, hover, hw, hp, hl]

theorem exec_rasteriseTriangle (hfr : s.frame? fr.fid = some fr) (hx : (fr.tris.find? fun y => y.trid = x.trid) = some x)
    (hready : s.rasterReady fr x k t = true)
    (hw : fr.views[x.view]? = some w) (hp : s.warpOf fr x.view k = some p) (hl : s.latchOf fr x.view k = some l) :
    let cluster := coreCluster (fr.area x.view t).core
    s.engineTurn fr.die (rasterEngine cluster) fr.ctx (s.rasterWaiting cluster) = true →
      exec (.rasteriseTriangle fr.fid x.trid k t) s =
        .next ((s.engineServe fr.die (rasterEngine cluster) fr.ctx true).deliverTri fr x k t w p l) := by
  intro cluster hturn
  show execRasteriseTriangle fr.fid x.trid k t s = _
  unfold execRasteriseTriangle State.deliverTri
  simp only [hfr, hx, hready, cluster, hturn, hw, warpOf_engineServe, hp, latchOf_engineServe, hl, Bool.not_true, Bool.or_self,
    Bool.false_eq_true, if_false]
  split_ifs <;> rfl

theorem deliverTri_unreached (h : x.reaches p t = false) : s.deliverTri fr x k t w p l = s.markDelivered fr.fid x.trid k t := by
  simp [State.deliverTri, h]

theorem deliverTri_small (h : x.reaches p t = true) (hsmall : x.small p t l.area = true)
    (hfault : ∀ y, (s.deliverSmall fr x k t).frame? fr.fid = some y → y.fault = none) :
    s.deliverTri fr x k t w p l = (s.deliverSmall fr x k t).markDelivered fr.fid x.trid k t := by
  have hgood : ((s.deliverSmall fr x k t).frame? fr.fid).any (fun y => y.fault.isSome) = false := by
    rw [Option.any_eq_false]
    exact fun y hy => by simp [hfault y hy]
  simp [State.deliverTri, h, hsmall, hgood]

theorem deliverTri_large (h : x.reaches p t = true) (hlarge : x.small p t l.area = false) : s.deliverTri fr x k t w p l =
    if w.shade then (s.launchBatches fr.fid (fr.area x.view t) k p x).markDelivered fr.fid x.trid k t
    else (s.writeVis fr (fr.area x.view t) w p x).markDelivered fr.fid x.trid k t := by
  simp [State.deliverTri, h, hlarge]

end

/-! ## The end of a strip (R403) -/

theorem exec_stripEndEntries_fresh (hfr : s.frame? fr.fid = some fr) (hfault : fr.fault = none) (hqueued : fr.queued = []) (hnew : k ∉ fr.ends)
    (hstrip : (fr.views.any fun w => k < w.nstrips) = true) (hdone : s.stripDelivered fr k = true) :
    exec (.stripEndEntries fr.fid k) s = .next ((s.putFrame { fr with ends := fr.ends ++ [k], queued := [] }).flushQueued fr.fid
      ((List.range fr.cores.length).map fun j => (j, smallEntry 0 k 0xFFFFFFFF))) := by
  show execStripEndEntries fr.fid k s = _
  unfold execStripEndEntries
  simp [hfr, hfault, hqueued, hnew, hstrip, hdone]

theorem exec_stripEndEntries_queued (hfr : s.frame? fr.fid = some fr) (hfault : fr.fault = none) (hqueued : fr.queued ≠ []) :
    exec (.stripEndEntries fr.fid k) s = .next ((s.putFrame { fr with queued := [] }).flushQueued fr.fid fr.queued) := by
  show execStripEndEntries fr.fid k s = _
  unfold execStripEndEntries
  simp [hfr, hfault, hqueued]

/-! ## Tile areas (R408, R411), held writes (R406) and TRET (R417) -/

theorem exec_tileAreaOpen {w : View} {pid : Nat} {p : Warp} (hfr : s.frame? fr.fid = some fr) (hw : fr.views[v]? = some w) (ht : t < w.tiles)
    (hnext : s.nextStrip fr (fr.area v t) (List.range w.nstrips) = some k) (hpool : fr.pool (fr.area v t).core = some pid)
    (hnew : (fr.area v t).strip ≠ some k) (hp : s.warpOf fr v k = some p) :
    let a := fr.area v t
    exec (.tileAreaOpen fr.fid v t) s = .next ((((s.writePad pid a.off (List.replicate 4096 0)).writePad pid (a.off + handleAt)
      (bytesOf (Handle.word ⟨v, k, t⟩) 4)).writePad pid (a.off + liveAt) (bytesOf (p.liveSamples t).length 4)).putFrame
        (fr.putArea { a with strip := some k })) := by
  show execTileAreaOpen fr.fid v t s = _
  unfold execTileAreaOpen
  simp only [hfr, hw, ht.not_ge, hnext, hpool, hnew, hp, if_false]

theorem exec_fbwrRetire {b : Blend} (hfr : s.frame? fr.fid = some fr)
    (hb : (fr.blends.find? fun b => b.view = v && b.tile = t && s.mayRetire fr b) = some b) :
    exec (.fbwrRetire fr.fid v t) s = .next ((s.performBlend fr b).putFrame { fr with blends := fr.blends.filter fun c => c ≠ b }) := by
  show execFbwrRetire fr.fid v t s = _
  unfold execFbwrRetire
  simp only [hfr, hb]

theorem outs_setAreaField {a : Area} {off n x : Nat} : (s.setAreaField fr a off n x).outs = s.outs := by
  unfold State.setAreaField State.writePad
  split
  · split <;> rfl
  · rfl

/-- The outstanding TRET with its answer, the number of covered words. -/
def Outst.answered (r : Outst) (x : Nat) : Outst := { r with left := 0, vals := perLane fun _ => x, kind := .alu }

/-- A TRET that has its answer is found with it. -/
theorem out?_tretGives {r : Outst} {fid x : Nat} {h : Handle} (hr : s.out? r.oid = some r) :
    (s.tretGives r fid h x).out? r.oid = some (r.answered x) := by
  have hput : (s.putOut (r.answered x)).out? r.oid = some (r.answered x) := pick_put_self Outst.oid (x := r.answered x) hr
  unfold State.tretGives State.retireArea
  split <;> exact hput

/-- COVERED takes the number of covered words, and STATE becomes 1 where the tile has not been handed over (R412, R417). -/
def State.closeArea (s : State) (fr : Frame) (a : Area) (n : Nat) : State :=
  let u := s.setAreaField fr a coveredAt 4 n
  if u.areaField fr a stateAt 4 = 2 then u else u.setAreaField fr a stateAt 4 1

theorem outs_closeArea {a : Area} {n : Nat} : (s.closeArea fr a n).outs = s.outs := by
  unfold State.closeArea
  dsimp only
  split
  · exact outs_setAreaField
  · exact outs_setAreaField.trans outs_setAreaField

theorem exec_tretComplete {r : Outst} {p : Warp} {g : Group} (hfr : s.frame? fr.fid = some fr) (hr : s.out? r.oid = some r)
    (hkind : r.kind = .tret fr.fid v k t) (hstrip : (fr.area v t).strip = some k) (hp : s.warpOf fr v k = some p)
    (hdone : s.tileComplete fr ⟨v, k, t⟩ = true) (hg : s.group? r.gid = some g) (hfar : s.farBusy g = false) :
    let ws := s.coveredWords fr (fr.area v t) p
    exec (.tretComplete r.oid) s =
      .next (((s.closeArea fr (fr.area v t) ws.length).putFrame (fr.addOcclusion ws)).tretGives r fr.fid ⟨v, k, t⟩ ws.length) := by
  show execTretComplete r.oid s = _
  unfold execTretComplete
  simp only [hr, hkind, hfr, hstrip, hp, hdone, hg, hfar, Option.any_some, ne_eq, not_true_eq_false, Bool.not_true, Bool.or_self,
    Bool.false_eq_true, if_false]
  rfl

/-! ## Egress (R428) and the deadline rule (R429) -/

section
variable {o : EgrOp} {x : Stream} {ctx i : Nat} (hfr : s.frame? o.frame = some fr) (hx : (s.ctx? ctx).bind (fun c => c.streams[i]?) = some x)
  (ho : (x.ops.find? fun y => y.n = o.n) = some o) (hready : s.egressReady o = true)
include hx ho hready

theorem exec_egressArrival_again (harrived : o.arrived.isSome = true) : exec (.egressArrival ctx i o.n) s = .next (s.goOnEgress ctx i o) := by
  show execEgressArrival ctx i o.n s = _
  unfold execEgressArrival
  simp only [hx, ho, hready, harrived, Bool.not_true, Bool.false_eq_true, if_false, if_true]

include hfr

theorem exec_egressArrival_first (hnew : o.arrived = none) (hturn : s.engineTurn fr.die selvedge ctx (s.egressWaiting fr.die) = true) :
    let u := (s.engineServe fr.die selvedge ctx ((s.ctx? ctx).any fun c =>
      2 ≤ (c.streams.map fun x => (x.ops.filter (·.arrived.isNone)).length).sum)).goOnEgress ctx i o
    exec (.egressArrival ctx i o.n) s = .next (u.engineChoose fr.die selvedge (u.egressWaiting fr.die)) := by
  show execEgressArrival ctx i o.n s = _
  unfold execEgressArrival
  simp only [hx, ho, hready, hnew, hfr, Option.map_some, Option.getD_some, hturn, Option.isSome_none, Bool.not_true, Bool.false_eq_true,
    if_false, if_true]

end

/-- An image that has not arrived arrives with the count of its view's clock. -/
theorem landImage_arrived {o : EgrOp} (hfr : s.frame? o.frame = some fr) (hnew : o.arrived = none) :
    (s.landImage o).arrived = some (s.viewClock fr, s.imageOf o) := by
  unfold State.landImage
  simp only [hfr, hnew]

theorem exec_deadlineRule (hfr : s.frame? fr.fid = some fr) (hu : s.deadline fr v k = .ok (some u)) :
    exec (.deadlineRule fr.fid v k) s = .next u := by
  show execDeadlineRule fr.fid v k s = _
  unfold execDeadlineRule
  simp only [hfr, hu]

/-! ## The end of a frame (R407, R430) -/

/-- A number below the most strips that a view has is a strip of one of the views. -/
theorem exists_lt_of_lt_foldl_max {l : List Nat} {m j : Nat} (h : j < l.foldl max m) : j < m ∨ ∃ n ∈ l, j < n := by
  induction l generalizing m with
  | nil => exact .inl h
  | cons n l ih =>
    obtain hm | ⟨i, hi, hj⟩ := ih h
    · exact (lt_max_iff.1 hm).imp_right fun hn => ⟨n, List.mem_cons_self, hn⟩
    · exact .inr ⟨i, List.mem_cons_of_mem _ hi, hj⟩

theorem exec_frameComplete {l : Launch} (hfr : s.frame? fr.fid = some fr) (hl : s.launch? fr.lid = some l) (hmesh : fr.meshDone = true)
    (hparts : ∀ m ∈ s.launches, m.lid = l.lid ∨ m.kind.frame? ≠ some fr.fid) (hheld : l.held = none) (hfault : fr.fault = none)
    (hops : ∀ c ∈ s.contexts, ∀ x ∈ c.streams, ∀ o ∈ x.ops, o.frame ≠ fr.fid) (hends : ∀ w ∈ fr.views, ∀ j, j < w.nstrips → j ∈ fr.ends)
    (hqueued : fr.queued = []) (hprims : (fr.prims.all (·.projected)) = true)
    (hover : (fr.views.mapIdx fun v w => s.viewOver fr v w).all id = true) :
    exec (.frameComplete fr.fid) s = .next (s.completeLaunch l 0) := by
  have hnoParts : (s.launches.any fun m => m.lid ≠ l.lid && m.kind.frame? = some fr.fid) = false := by
    rw [List.any_eq_false]
    intro m hm
    simpa [or_iff_not_imp_left] using hparts m hm
  have hnoOps : (s.contexts.any fun c => c.streams.any fun x => x.ops.any fun o => o.frame = fr.fid) = false := by
    simpa using hops
  have hended : (List.range ((fr.views.map (·.nstrips)).foldl max 0)).all fr.ends.contains = true := by
    rw [List.all_eq_true]
    intro j hj
    obtain h0 | ⟨n, hn, hjn⟩ := exists_lt_of_lt_foldl_max (List.mem_range.1 hj)
    · exact absurd h0 (Nat.not_lt_zero j)
    · obtain ⟨w, hw, rfl⟩ := List.mem_map.1 hn
      exact List.contains_iff_mem.2 (hends w hw j hjn)
  show execFrameComplete fr.fid s = _
  unfold execFrameComplete
  simp only [hfr, hl, hmesh, hnoParts, hnoOps, hended, hqueued, hheld, hfault, hprims, hover, Option.isSome_none, ne_eq, not_true_eq_false,
    decide_false, Bool.not_true, Bool.or_self, Bool.false_eq_true, if_false]

/-- Settles O45: each event's conditions are those that its meaning checks; a turn of the raster engine or of the Selvedge leaves latches,
clocks and images. -/
theorem graphicsEventsComplete : Obligations.GraphicsEventsComplete := by
  intro s fr v k t hfr
  refine ⟨fun w => exec_stripLatch hfr, fun p hp hnew hfault hqueued hclosed hturn => ?_, fun x hqueued => exec_rasteriseTriangle_held hfr hqueued x,
    fun x w p l hx hfault hqueued hnew hstrip hover hw hp hl => ?_, exec_stripEndEntries_fresh hfr, exec_stripEndEntries_queued hfr,
    fun w pid p => exec_tileAreaOpen hfr, fun b => exec_fbwrRetire hfr, fun r p g hr hkind hstrip hp hdone hg hfar => ?_,
    fun ctx i o x hx ho hof hfault hready => ?_, fun u => exec_deadlineRule hfr, fun l => exec_frameComplete hfr⟩
  · have hfree := amplifierHeld_eq_false hnew hfault hqueued hclosed hturn
    exact ⟨exec_amplifierProject_full hfr hp hfree, fun u => exec_amplifierProject_record hfr hp hfree⟩
  · intro cluster hturn u
    have hexec := exec_rasteriseTriangle hfr hx (rasterReady_eq_true hfault hqueued hnew hstrip hover hw hp hl) hw hp hl hturn
    refine ⟨fun h => ?_, fun h hsmall hgood => ?_, fun h hlarge hshade => ?_, fun h hlarge hshade => ?_⟩
    · rw [hexec, deliverTri_unreached h]
    · rw [hexec, deliverTri_small h hsmall hgood]
    · rw [hexec, deliverTri_large h hlarge, if_neg (ne_true_of_eq_false hshade)]
    · rw [hexec, deliverTri_large h hlarge, if_pos hshade]
  · refine ⟨_, _, exec_tretComplete hfr hr hkind hstrip hp hdone hg hfar, out?_tretGives ?_, rfl, rfl, fun l hl => ?_⟩
    · exact (congrArg (pick Outst.oid r.oid) outs_closeArea).trans hr
    · simp [Outst.answered, perLane, laneNums, hl]
  · intro u goes
    have hframe : s.frame? o.frame = some fr := hof ▸ hfr
    refine ⟨exec_egressArrival_again hx ho hready, exec_egressArrival_first hframe hx ho hready, fun hnew => ?_⟩
    rw [landImage_arrived (s := u) hframe hnew, viewClock_engineServe, imageOf_engineServe hframe]

end Sys2Proof.Machine
end

/-! # TRET, LATE and EGRS (R414, R417, R427, R432)

Each reads the frame and the handle that its lowest lane names. TRET and EGRS then ask how the strip has latched, and of a live tile of the
group's core each has one thing left to do. -/

section
namespace Sys2Proof.Machine

variable {s : State} {f : Frag} {m : Marks} {d a b : Code} {x : BitVec 4} {fr : Frame} {h : Handle} {p : Warp}

/-- What TRET and LATE need: a handle and a late result of one word (R417, R432). -/
def Frag.handleNeed (f : Frag) (d a : Code) : Need := { role := f.g.role.vectors, srcs := [opnd a 1], dst := some (opnd d 1), late := true }

/-- What EGRS needs: a handle, an address and a late result of two words (R427). -/
def Frag.egressNeed (f : Frag) (d a b : Code) : Need :=
  { role := f.g.role.vectors, srcs := [opnd a 1], srcB := some (opnd b 2), dst := some (opnd d 2), late := true }

/-- The deadline of the strip that a handle names, in view clock (R432). -/
def Frame.deadlineOf (fr : Frame) (h : Handle) : Int := ((fr.views[h.view]?).map fun w => (w.deadlineOf h.strip : Int)).getD 0

/-- What LATE answers: the cycles to the strip's deadline for a real-time context, and the greatest number for another (R432). -/
def State.slackOf (s : State) (g : Group) (fr : Frame) (h : Handle) : Nat :=
  if s.clsOf g = classRt then satS32 (fr.deadlineOf h - s.viewClock fr) else 0x7FFFFFFF

/-- The bytes of the image that a tile's display tile shows (R427). -/
def Warp.imageBytes (p : Warp) (tile : Nat) : Nat := 4 * (p.display tile).2.2.1 * (p.display tile).2.2.2

/-- The state in which a stream has taken operation `o` of a tile with the next number, the tile claimed and the Selvedge told of it (R30, R427). -/
def State.egressAccepted (s : State) (f : Frag) (d : Code) (x : BitVec 4) (fr : Frame) (h : Handle) (o : EgrOp) : State :=
  let t := s.resultLater f d 2 (perLane fun _ => o.n) f.sl.mask 0 .engine
  let t := if fr.egressTaken h then t else t.putFrame { fr with claimed := fr.claimed ++ [(h.view, h.strip, h.tile)] }
  let t := t.modStream (s.ctxIdOf f.g) x.toNat fun z => ⟨z.tl.accept, z.ops ++ [o]⟩
  t.engineAccept fr.die selvedge (s.ctxIdOf f.g) true (t.egressWaiting fr.die)

section
variable (hh : s.handleOf f.g (f.src a 1 f.low) = some (fr, h))
include hh

theorem exec_tret_unlatched (hrun : Runs s f (.tret m d a) m (f.handleNeed d a)) (hp : s.warpOf fr h.view h.strip = none) :
    exec (.tret m d a) s = .next (s.park f .latch) := by
  refine (issue_go (f := f) hrun).trans ?_
  simp only [hh, hp]
  rfl

theorem exec_tret_latched (hrun : Runs s f (.tret m d a) m (f.handleNeed d a)) (hp : s.warpOf fr h.view h.strip = some p)
    (hlive : p.tileLive h.tile = true) (hown : fr.owner h.view h.tile = f.g.core) :
    exec (.tret m d a) s =
      if s.tretClosed fr (fr.area h.view h.tile) h.strip then
        .next (((s.resultLater f d 1 (perLane fun _ => tretNone) f.sl.mask 0 .alu).retireArea fr.fid h).goOn f m)
      else .next ((s.resultLater f d 1 (perLane fun _ => 0) f.sl.mask 1 (.tret fr.fid h.view h.strip h.tile)).goOn f m) := by
  refine (issue_go (f := f) hrun).trans ?_
  simp only [hh, hp, hlive, hown, Bool.not_true, Bool.false_eq_true, ne_eq, not_true_eq_false, if_false]

theorem exec_late (hrun : Runs s f (.late m d a) m (f.handleNeed d a)) :
    exec (.late m d a) s = .next ((s.resultLater f d 1 (perLane fun _ => s.slackOf f.g fr h) f.sl.mask 0 .alu).goOn f m) := by
  refine (issue_go (f := f) hrun).trans ?_
  simp only [hh]
  rfl

theorem exec_egrs_unlatched (hrun : Runs s f (.egrs m d a b x) m (f.egressNeed d a b)) (hp : s.warpOf fr h.view h.strip = none) :
    exec (.egrs m d a b x) s = .next (s.park f .latch) := by
  refine (issue_go (f := f) hrun).trans ?_
  simp only [hh, hp]
  rfl

/-- An image with a byte to read has not arrived yet, so the operation only enters its stream. -/
theorem exec_egrs_latched {pid off : Nat} {y : Stream} (hrun : Runs s f (.egrs m d a b x) m (f.egressNeed d a b))
    (hp : s.warpOf fr h.view h.strip = some p) (hlive : p.tileLive h.tile = true) (hown : fr.owner h.view h.tile = f.g.core)
    (hplace : s.imagePlace f.g (f.srcB b 2 f.low) (p.imageBytes h.tile) = some (pid, off)) (halign : f.srcB b 2 f.low % 4 = 0)
    (hstream : (s.ctx? (s.ctxIdOf f.g)).bind (fun c => c.streams[x.toNat]?) = some y) (hrel : s.relBusy f.g = false)
    (himage : p.imageBytes h.tile ≠ 0) :
    exec (.egrs m d a b x) s = .next ((s.egressAccepted f d x fr h
      ⟨y.tl.accepted + 1, fr.fid, h.view, h.strip, h.tile, f.g.core, pid, off, fr.egressTaken h, none, false, none⟩).goOn f m) := by
  refine (issue_go (f := f) hrun).trans ?_
  unfold Warp.imageBytes at hplace himage
  simp only [hh, hp, hlive, hown, hplace, halign, hstream, hrel, himage, Bool.not_true, Bool.false_eq_true, ne_eq, not_true_eq_false, if_false,
    decide_false, Bool.false_and, Option.isSome_none, Option.map_some, Option.getD_some]
  rfl

end

/-- Settles O38: TRET and EGRS by whether the strip has latched, TRET of a latched one by whether it is closed. -/
theorem tilesComplete : Obligations.TilesComplete := by
  intro s f m d a b x fr h hh tret egrs deadline slack
  refine ⟨exec_tret_unlatched hh, fun p hrun hp hlive hown => ?_, fun hrun => ⟨_, exec_late hh hrun, awaits_resultLater hrun.1⟩, exec_egrs_unlatched hh,
    fun p pid off y hrun hp hlive hown hplace halign hstream hrel himage =>
      exec_egrs_latched hh hrun hp hlive hown hplace halign hstream hrel himage⟩
  have hexec := exec_tret_latched hh hrun hp hlive hown
  exact ⟨fun hclosed => hexec.trans (if_pos hclosed),
    fun hopen => ⟨_, hexec.trans (if_neg (ne_true_of_eq_false hopen)), awaits_resultLater hrun.1⟩⟩

end Sys2Proof.Machine
end

/-! # The mailbox (R443, R444, R445, R448)

Each request of an OP is the same answer, of the action that its meaning gives. A new number is the lowest that is free: of one more candidate
than there are numbers in use, some one is not in use. -/

section
namespace Sys2Proof.Machine

variable {s : State}

/-! ## The lowest free number (log 64) -/

/-- Of the candidates, as many as are in use and one more, one is not in use. -/
theorem exists_not_mem_of_candidates (first : Nat) (used : List Nat) : ∃ k ∈ (List.range (used.length + 1)).map (first + ·), k ∉ used := by
  by_contra! hall
  have hnodup : ((List.range (used.length + 1)).map (first + ·)).Nodup := List.nodup_range.map fun _ _ => Nat.add_left_cancel
  have hle := (hnodup.subperm hall).length_le
  simp at hle

theorem lowestFree_spec (first : Nat) (used : List Nat) :
    first ≤ lowestFree first used ∧ lowestFree first used ∉ used ∧ ∀ k, first ≤ k → k < lowestFree first used → k ∈ used := by
  obtain ⟨k, hk, hfree⟩ := exists_not_mem_of_candidates first used
  obtain ⟨n, hn⟩ := Option.isSome_iff_exists.1 (List.find?_isSome.2 ⟨k, hk, by simpa using hfree⟩ :
    (((List.range (used.length + 1)).map (first + ·)).find? fun k => !used.contains k).isSome = true)
  have hlowest : lowestFree first used = n := by rw [lowestFree, hn, Option.getD_some]
  rw [hlowest]
  rw [List.find?_map, Option.map_eq_some_iff] at hn
  obtain ⟨i, hi, rfl⟩ := hn
  obtain ⟨hfree, -, hbelow⟩ := List.find?_range_eq_some.1 hi
  refine ⟨Nat.le_add_right _ _, by simpa using hfree, fun k hk hlt => ?_⟩
  have := hbelow (k - first) (by omega)
  simpa [Nat.add_sub_cancel' hk] using this

/-! ## Requests -/

/-- A request that is ready, fits, and is clean is answered as its action says. -/
theorem mailOut_answers {op n : Nat} {used : List (Nat × Nat)} {act : State → MailReq → MailAct} (hready : s.mailReady (· = op) = true)
    (hfits : 32 + n ≤ s.mailReq.rlen) (hclean : s.mailReq.clean = true) (hbody : s.mailReq.bodyOk used = true) :
    let s0 := s.setHost { s.host with mbxgo := false }
    (∀ u b, act s0 s.mailReq = .ok (u, b) → mailOut s op n used act = .next (u.mailReply s.mailReq 0 b)) ∧
      ∀ k, act s0 s.mailReq = .error k → mailOut s op n used act = .next (s0.mailReply s.mailReq k []) := by
  refine ⟨fun u b hact => ?_, fun k hact => ?_⟩ <;>
    simp only [mailOut, hready, Nat.not_lt.2 hfits, hclean, hbody, hact, Bool.not_true, Bool.or_self, Bool.false_eq_true, if_false]

theorem createContext_eq (s : State) (r : MailReq) : let c := s.newContext r
    s.createContext r =
      if c.fieldsOk (r.f 0x20 8) (r.f 0x28 8) = false then .error 2
      else if 4096 ≤ s.contexts.length then .error 3
      else if (s.contexts.any fun d => d.asid = c.asid || d.resv.any c.resv.contains) = true then .error 6
      else .ok ((s.addCtx c).initSaveArea c, bytesOf c.ctxid 4) := by
  simp only [State.createContext, Bool.not_eq_true']

/-- The answer to DESTROY_QUEUE. -/
def State.destroyQueue (s : State) (r : MailReq) : MailAct :=
  match s.queue? (r.f 0 4) with
  | none => .error 4
  | some q => .ok (s.removeQueue q, [])

theorem exec_invalidate (hfree : s.shootdownBusy s.mailReq.shootdown = false) :
    exec .invalidate s = mailOut s 7 0 [(0, 2), (2, 1), (8, 8)] fun s r => if 3 < r.f 2 1 then .error 2 else .ok (s.shootdown r.shootdown, []) :=
  if_neg (by simp [hfree])

theorem exec_unknownMailboxOp (hready : s.mailReady (fun k => k = 0 || 8 < k) = true) :
    exec .unknownMailboxOp s =
      .next ((s.setHost { s.host with mbxgo := false }).mailReply s.mailReq (if s.mailReq.rlen < 32 then 5 else 1) []) :=
  if_neg (by simp [hready])

/-! ## The attestation (R448) -/

/-- The answer to ATTEST: the report, the public identity key and the report's signature. -/
def State.attested (s : State) (r : MailReq) : State × List Byte :=
  let report := s.report (r.body.take 32)
  let sig := s.signature report
  (sig.2, report ++ fitted 1952 identityKey.1 ++ fitted 3309 sig.1)

theorem exec_attest : exec .attest s = mailOut s 8 5517 [(0, 32)] fun s r => .ok (s.attested r) := rfl

theorem length_fitted (n : Nat) (bs : List Byte) : (fitted n bs).length = n := by simp [fitted]

theorem length_report (s : State) (nonce : List Byte) : (s.report nonce).length = 256 := by
  simp only [State.report, List.length_append, length_fitted, length_bytesOf]

/-- Where FIPS 204 gives a signature over the report, it is the report's. -/
theorem fst_signature {report sig : List Byte} (hsign : mldsaSign identityKey.2 (s.freeBytes 32).1 attestContext report = some sig) :
    (s.signature report).1 = sig := by
  rw [State.signature]
  simp only [hsign]

/-- Settles O50: each OP of 1 to 8 is the same answer, of its own action; the number of a new context is the lowest free one from 1. -/
theorem mailboxComplete : Obligations.MailboxComplete := by
  intro s r s0 serves c ours awaited rest
  have hserves {i : Instr} {op n : Nat} {used : List (Nat × Nat)} {out : MailAct} (act : State → MailReq → MailAct)
      (hi : exec i s = mailOut s op n used act) (hact : act s0 r = out) : serves i op n used out := by
    subst hact
    intro hready hfits hclean hbody
    rw [hi]
    exact mailOut_answers hready hfits hclean hbody
  obtain ⟨hfirst, hfree, hlowest⟩ := lowestFree_spec 1 (s.contexts.map (·.ctxid))
  refine ⟨hserves State.createContext rfl (createContext_eq s0 r), hfirst, fun d hd heq => hfree (List.mem_map.2 ⟨d, hd, heq⟩),
    fun k h1 hk => List.mem_map.1 (hlowest k h1 hk), hserves State.destroyContext rfl rfl, hserves State.createQueue rfl rfl,
    hserves State.destroyQueue rfl rfl, hserves State.enableQueue rfl rfl, hserves State.faultReply rfl rfl,
    fun hbusy => hserves _ (exec_invalidate hbusy) rfl, ⟨length_report _ _, hserves _ exec_attest rfl, fun _ => fst_signature⟩, exec_unknownMailboxOp⟩

end Sys2Proof.Machine
end

/-! # The state after reset (R449)

Every core, cluster and die of the module is as its own reset says. -/

section
namespace Sys2Proof.Machine

theorem core_reset (c : Nat) : State.reset.core c = Core.reset := List.getElem?_getD_replicate_default_eq _ _ _

theorem cluster_reset (c : Nat) : State.reset.cluster c = Cluster.reset := List.getElem?_getD_replicate_default_eq _ _ _

theorem die_reset (d : Nat) : State.reset.die d = Die.reset := List.getElem?_getD_replicate_default_eq _ _ _

theorem tile_clusterReset {t : Nat} (ht : t < 16) : Cluster.reset.tiles[t]? = some Tile.reset :=
  List.getElem?_replicate_of_lt ht

theorem memoryOk_reset : State.reset.memoryOk := ⟨wf_reset, fun _ hp => absurd hp List.not_mem_nil⟩

/-- IDENT holds the part number above the stepping, whatever that is (R441). -/
theorem identReg_div : identReg / 65536 = 0x9640 := by
  have := Config.stepping.isLt
  unfold identReg
  omega

/-- The registers of the block that hold state read 0 (R441). -/
theorem hostRegister_reset {off : Nat} (hoff : off ∈ [0x008, 0x010, 0x014, 0x018, 0x01C, 0x020, 0x028, 0x030, 0x038, 0x040, 0x048, 0x04C]) :
    State.reset.hostRegister off = 0 := by
  fin_cases hoff <;> rfl

/-- Settles O60: a core, a cluster and a die by its own reset, the rest as reset lists it. -/
theorem resetState : Obligations.ResetState := by
  refine ⟨rfl, rfl, rfl, fun _ _ _ => rfl, rfl, rfl, rfl, List.length_replicate, fun c t _ ht => ⟨Tile.reset, ?_, rfl, rfl⟩, rfl, rfl, rfl,
    List.length_replicate, fun c _ => ?_, fun _ => hostRegister_reset, identReg_div, rfl, List.length_replicate, fun d _ => ?_, memoryOk_reset⟩
  · rw [cluster_reset, tile_clusterReset ht]
  · rw [core_reset]
    rfl
  · rw [die_reset]
    exact ⟨rfl, rfl, rfl, rfl⟩

end Sys2Proof.Machine
end
